-- ==== Sys2Proof/Word.lean ====
section
/-! DEFINITION. The word types of the T4-576 and their plainest arithmetic (R3, R4, R7). Bit 0 is the least significant bit
and every multi-byte value is little-endian (R3). -/

namespace Sys2Proof

/-- One byte (R4). -/
abbrev Byte := BitVec 8

/-- A 128-bit token payload, d-register or live-value slot (R197). -/
abbrev Payload := BitVec 128

/-- A 128-bit site word (R53). -/
abbrev SiteWord := BitVec 128

/-- A sequence of bytes, lowest address first. -/
abbrev Bytes := List Byte

/-- A sparse table by number: entries in rising order of number; an unlisted number reads as the table's default. -/
abbrev Tbl (α : Type) := List (Nat × α)

end Sys2Proof
end

