-- ==== Sys2Proof/Syntax.lean ====
section
/-! DEFINITION. The instructions: one constructor for each row of spec/opcode_table.json. A slot instruction carries the
fields of its site word (R53); an event carries the numbers that say which of its like it is, and whatever the outside
world supplies with it. -/

namespace Sys2Proof

/-- Token kinds (R13). Codes 6 and 7 are reserved and never produced. -/
inductive Kind where
  | dat | scl | eor | eok | bnd | ord
  deriving DecidableEq, Repr

/-- Format tags (R14). -/
inductive Fmt where
  | raw | f32 | bf16 | e4m3 | e5m2 | sx7 | sx4 | sx2
  deriving DecidableEq, Repr

/-- Channel guard codes (R54): no test, a head of any kind, a head of one kind. -/
inductive Guard where
  | off
  | any
  | kind (k : Kind)
  deriving DecidableEq, Repr

/-- Source selectors (R55). Codes 24 to 63 are reserved. -/
inductive Src where
  | d (n : Fin 8)
  | i (n : Fin 4)
  | wa | wb | zero | lit | tid | bid | sid | ctx | cyc | lix | spc | cid
  deriving DecidableEq, Repr

/-- Predicate update modes PU (R56): none, or lane 0, some lane, every lane nonzero. -/
inductive PredUpd where
  | none | lane0 | any | all
  deriving DecidableEq, Repr

/-- Sequencing actions SQ (R56). -/
inductive SeqAct where
  | none | set | clr | tog
  deriving DecidableEq, Repr

/-- The fields of a site word other than OP (R53). `dr` is `none` for code 8 (no register written). -/
structure SlotWord where
  pm  : BitVec 8
  pv  : BitVec 8
  cg3 : Guard
  cg2 : Guard
  cg1 : Guard
  cg0 : Guard
  fmt : Fmt
  mod : BitVec 4
  sa  : Src
  sb  : Src
  sc  : Src
  dr  : Option (Fin 8)
  om  : BitVec 4
  ok  : Kind
  dq  : BitVec 4
  pd  : BitVec 3
  pu  : PredUpd
  sq  : SeqAct
  ps  : BitVec 3
  imm : BitVec 32
  deriving DecidableEq, Repr

/-- A soft error found in stored data (R85, R130, R211, R262): the storage code of R359, whether a restart would read the
value again, the low bits of DETAIL and the burst's physical address. -/
structure SoftErr where
  storage : Nat
  persist : Bool
  low     : Nat
  addr    : Nat
  site    : Nat
  slot    : Nat
  deriving DecidableEq, Repr

/-- What a read of a slice's data meets (R130): no error, one that is corrected, or a burst that cannot be. -/
inductive Ecc where
  | good
  | corrected
  | burst (b : Fin 4)
  deriving DecidableEq, Repr

/-- A packet at a slice, by its place there, and what the read of the slice's data for it meets. -/
structure SliceRead where
  idx : Nat
  ecc : Ecc
  deriving DecidableEq, Repr

/-- The bursts of a line that its first read and its second read cannot correct (R84). -/
structure ReadFail where
  first : BitVec 4
  retry : BitVec 4
  deriving DecidableEq, Repr

/-- The corrections that on-die ECC reports and that the controller makes (R83). -/
structure Corrections where
  onDie : Nat
  ctrl  : Nat
  deriving DecidableEq, Repr

/-- Bit errors of a lane, and whether a window of 2^32 received bits ends with them (R292). -/
structure LaneErrs where
  n     : Nat
  ended : Bool
  deriving DecidableEq, Repr

/-- A job's turn: its place in the order unit, and the uncorrectable error that its reads of a tile meet, if any: the region, and whether
the error persists (R164, R167). -/
structure JobTurn where
  idx : Nat
  err : Option (Nat × Bool)
  deriving DecidableEq, Repr

/-- What a target refuses an RGET or RPUT with (R301): a range code, the unit offset of RANGE_PARTIAL, or an uncorrectable burst and whether
its retry failed too. -/
inductive RemoteFault where
  | noRange | denied | absent (unit : Nat) | transit | revoked | soft (burst : Nat) (persist : Bool)
  deriving DecidableEq, Repr

/-- What a remote device answers to RGET or RPUT (R301): the fault found there, or the bytes read. -/
structure RemoteReply where
  fault : Option RemoteFault
  data : Bytes
  deriving DecidableEq, Repr

/-- Where a remote read or write acts: at a physical address, or, for another device's RGET or RPUT, at a virtual address of a space, with the
privilege of the job (R290, R301). -/
inductive RemoteAt where
  | phys (pa : Nat)
  | virt (space va : Nat) (priv : Bool)
  deriving DecidableEq, Repr

/-- A piece of an RMA message (R290): where its bytes lie, its flow, whether the flow is ordered (ROD), its number in the flow, and whether it
is the message's first and last piece. -/
structure RmaPiece where
  at_   : RemoteAt
  flow  : Nat
  rod   : Bool
  msg   : Nat
  first : Bool
  last  : Bool
  deriving DecidableEq, Repr

/-- What one remote rank brings to a collective (R297, R300). -/
structure RankData where
  rank  : Nat
  opc   : Nat
  count : Nat
  etype : Nat
  rop   : Nat
  root  : Nat
  data  : Bytes
  deriving DecidableEq, Repr

/-- One entry of a placement map (R335). -/
structure MapEntry where
  vbase : Nat
  len   : Nat
  die   : Nat
  deriving DecidableEq, Repr

/-- What a SPACE command asks (R383): a space with its tenant key, or its end. A request whose code R383 does not list has no row of its own in
the opcode table and comes to the control unit here. -/
inductive SpaceReq where
  | create (space : Nat) (key : Bytes)
  | destroy (space : Nat)
  | unlisted (code : Nat)
  deriving DecidableEq, Repr

/-- What starts a module reset (R395). -/
inductive ResetCause where
  | powerOn
  | supplyFault
  | write (idx : Nat)
  deriving DecidableEq, Repr

/-- What the boot finds in the module (R398 to R400): the cores whose self-test fails. -/
structure BootInputs where
  failed : List Nat
  deriving DecidableEq, Repr

/-- Features of Ultra Ethernet Transport that a peer may ask for (R289). -/
inductive Feature where
  | rod | rud | rudIdempotent | unreliable | spraying | senderCC | receiverCC | creditFC | rma | untagged | tagged
  | netAtomics | inNetCollectives | trimming | linkRetry | security
  deriving DecidableEq, Repr

/-- The steps of the device, one constructor for each row of the opcode table. -/
inductive Instr where
  /-- MOV (R215). -/
  | mov (w : SlotWord)
  /-- MOVI (R215). -/
  | movi (w : SlotWord)
  /-- SEL (R36). -/
  | sel (w : SlotWord)
  /-- SELK (R215). -/
  | selk (w : SlotWord)
  /-- DROP (R218). -/
  | drop (w : SlotWord)
  /-- EMIT (R216). -/
  | emit (w : SlotWord)
  /-- PLOG (R217). -/
  | plog (w : SlotWord)
  /-- PSET (R217). -/
  | pset (w : SlotWord)
  /-- PTEST (R217). -/
  | ptest (w : SlotWord)
  /-- LANE (R215). -/
  | lane (w : SlotWord)
  /-- SHUF (R215). -/
  | shuf (w : SlotWord)
  /-- PACK (R218). -/
  | pack (w : SlotWord)
  /-- UNPK (R218). -/
  | unpk (w : SlotWord)
  /-- GETS (R218). -/
  | gets (w : SlotWord)
  /-- TAGF (R218). -/
  | tagf (w : SlotWord)
  /-- ADD (R219). -/
  | add (w : SlotWord)
  /-- SUB (R219). -/
  | sub (w : SlotWord)
  /-- ADDC (R219). -/
  | addc (w : SlotWord)
  /-- SUBB (R219). -/
  | subb (w : SlotWord)
  /-- MUL (R219). -/
  | mul (w : SlotWord)
  /-- MULH (R219). -/
  | mulh (w : SlotWord)
  /-- MAD (R219). -/
  | mad (w : SlotWord)
  /-- ABSD (R219). -/
  | absd (w : SlotWord)
  /-- MIN (R219). -/
  | min (w : SlotWord)
  /-- MAX (R219). -/
  | max (w : SlotWord)
  /-- ABS (R219). -/
  | abs (w : SlotWord)
  /-- NEG (R219). -/
  | neg (w : SlotWord)
  /-- AVG (R219). -/
  | avg (w : SlotWord)
  /-- INDX (R219). -/
  | indx (w : SlotWord)
  /-- CLAMP (R219). -/
  | clamp (w : SlotWord)
  /-- DOT4 (R220). -/
  | dot4 (w : SlotWord)
  /-- AND (R221). -/
  | and (w : SlotWord)
  /-- OR (R221). -/
  | or (w : SlotWord)
  /-- XOR (R221). -/
  | xor (w : SlotWord)
  /-- ANDN (R221). -/
  | andn (w : SlotWord)
  /-- ORN (R221). -/
  | orn (w : SlotWord)
  /-- NOT (R221). -/
  | not (w : SlotWord)
  /-- SHL (R221). -/
  | shl (w : SlotWord)
  /-- SHR (R221). -/
  | shr (w : SlotWord)
  /-- SAR (R221). -/
  | sar (w : SlotWord)
  /-- ROL (R221). -/
  | rol (w : SlotWord)
  /-- CLZ (R221). -/
  | clz (w : SlotWord)
  /-- POPC (R221). -/
  | popc (w : SlotWord)
  /-- BREV (R221). -/
  | brev (w : SlotWord)
  /-- EXTR (R222). -/
  | extr (w : SlotWord)
  /-- INSR (R222). -/
  | insr (w : SlotWord)
  /-- BSEL (R221). -/
  | bsel (w : SlotWord)
  /-- CMPEQ (R223). -/
  | cmpeq (w : SlotWord)
  /-- CMPNE (R223). -/
  | cmpne (w : SlotWord)
  /-- CMPLT (R223). -/
  | cmplt (w : SlotWord)
  /-- CMPLE (R223). -/
  | cmple (w : SlotWord)
  /-- CMPGT (R223). -/
  | cmpgt (w : SlotWord)
  /-- CMPGE (R223). -/
  | cmpge (w : SlotWord)
  /-- TSTZ (R223). -/
  | tstz (w : SlotWord)
  /-- CNT (R254). -/
  | cnt (w : SlotWord)
  /-- CNT2 (R254). -/
  | cnt2 (w : SlotWord)
  /-- STEP (R256). -/
  | step (w : SlotWord)
  /-- JOINK (R348). -/
  | joink (w : SlotWord)
  /-- ORDJ (R144). -/
  | ordj (w : SlotWord)
  /-- FADD (R236). -/
  | fadd (w : SlotWord)
  /-- FSUB (R236). -/
  | fsub (w : SlotWord)
  /-- FMUL (R236). -/
  | fmul (w : SlotWord)
  /-- FMA (R236). -/
  | fma (w : SlotWord)
  /-- FNMA (R236). -/
  | fnma (w : SlotWord)
  /-- FMS (R236). -/
  | fms (w : SlotWord)
  /-- FMIN (R237). -/
  | fmin (w : SlotWord)
  /-- FMAX (R237). -/
  | fmax (w : SlotWord)
  /-- FABS (R237). -/
  | fabs (w : SlotWord)
  /-- FNEG (R237). -/
  | fneg (w : SlotWord)
  /-- FCMPEQ (R237). -/
  | fcmpeq (w : SlotWord)
  /-- FCMPLT (R237). -/
  | fcmplt (w : SlotWord)
  /-- FCMPLE (R237). -/
  | fcmple (w : SlotWord)
  /-- FCMPUN (R237). -/
  | fcmpun (w : SlotWord)
  /-- FCLASS (R237). -/
  | fclass (w : SlotWord)
  /-- FSCALE (R236). -/
  | fscale (w : SlotWord)
  /-- FRND (R236). -/
  | frnd (w : SlotWord)
  /-- FRCP (R236). -/
  | frcp (w : SlotWord)
  /-- FRSQ (R236). -/
  | frsq (w : SlotWord)
  /-- FSQRT (R236). -/
  | fsqrt (w : SlotWord)
  /-- FDIV (R236). -/
  | fdiv (w : SlotWord)
  /-- FEXP2 (R236). -/
  | fexp2 (w : SlotWord)
  /-- FLOG2 (R236). -/
  | flog2 (w : SlotWord)
  /-- FSUM (R238). -/
  | fsum (w : SlotWord)
  /-- FDOT (R238). -/
  | fdot (w : SlotWord)
  /-- FMAXA (R238). -/
  | fmaxa (w : SlotWord)
  /-- CVT (R239). -/
  | cvt (w : SlotWord)
  /-- FTOI (R240). -/
  | ftoi (w : SlotWord)
  /-- ITOF (R240). -/
  | itof (w : SlotWord)
  /-- SXPK (R241). -/
  | sxpk (w : SlotWord)
  /-- SXUP (R242). -/
  | sxup (w : SlotWord)
  /-- SXEX (R242). -/
  | sxex (w : SlotWord)
  /-- ALLOC (R186). -/
  | alloc (w : SlotWord)
  /-- SEAL (R187). -/
  | seal (w : SlotWord)
  /-- RELEASE (R187). -/
  | release (w : SlotWord)
  /-- RETAIN (R187). -/
  | retain (w : SlotWord)
  /-- TLD (R188). -/
  | tld (w : SlotWord)
  /-- TST (R188). -/
  | tst (w : SlotWord)
  /-- TLDW (R188). -/
  | tldw (w : SlotWord)
  /-- TSTW (R188). -/
  | tstw (w : SlotWord)
  /-- TZERO (R189). -/
  | tzero (w : SlotWord)
  /-- TINFO (R190). -/
  | tinfo (w : SlotWord)
  /-- TPLN (R191). -/
  | tpln (w : SlotWord)
  /-- POOL (R192). -/
  | pool (w : SlotWord)
  /-- ACCA (R193). -/
  | acca (w : SlotWord)
  /-- ACCF (R193). -/
  | accf (w : SlotWord)
  /-- LD (R146). -/
  | ld (w : SlotWord)
  /-- LDT (R146). -/
  | ldt (w : SlotWord)
  /-- LDA (R148). -/
  | lda (w : SlotWord)
  /-- ST (R147). -/
  | st (w : SlotWord)
  /-- STT (R147). -/
  | stt (w : SlotWord)
  /-- STL (R147). -/
  | stl (w : SlotWord)
  /-- PREF (R149). -/
  | pref (w : SlotWord)
  /-- FENCE (R150). -/
  | fence (w : SlotWord)
  /-- AADD (R151). -/
  | aadd (w : SlotWord)
  /-- AMIN (R151). -/
  | amin (w : SlotWord)
  /-- AMAX (R151). -/
  | amax (w : SlotWord)
  /-- AAND (R151). -/
  | aand (w : SlotWord)
  /-- AOR (R151). -/
  | aor (w : SlotWord)
  /-- AXOR (R151). -/
  | axor (w : SlotWord)
  /-- AXCHG (R151). -/
  | axchg (w : SlotWord)
  /-- ACAS (R152). -/
  | acas (w : SlotWord)
  /-- AFADD (R153). -/
  | afadd (w : SlotWord)
  /-- RED (R154). -/
  | red (w : SlotWord)
  /-- FLUSH (R132). -/
  | flush (w : SlotWord)
  /-- INVL (R132). -/
  | invl (w : SlotWord)
  /-- MMA (R259). -/
  | mma (w : SlotWord)
  /-- MMAZ (R259). -/
  | mmaz (w : SlotWord)
  /-- ACCRD (R264). -/
  | accrd (w : SlotWord)
  /-- ACCRDN (R264). -/
  | accrdn (w : SlotWord)
  /-- ACCWR (R264). -/
  | accwr (w : SlotWord)
  /-- ACCZ (R264). -/
  | accz (w : SlotWord)
  /-- ACCCV (R265). -/
  | acccv (w : SlotWord)
  /-- MTCFG (R252). -/
  | mtcfg (w : SlotWord)
  /-- COPY (R158). -/
  | copy (w : SlotWord)
  /-- GATH (R158). -/
  | gath (w : SlotWord)
  /-- SCAT (R158). -/
  | scat (w : SlotWord)
  /-- XCOL (R296). -/
  | xcol (w : SlotWord)
  /-- ENGQ (R343). -/
  | engq (w : SlotWord)
  /-- SPAWN (R341). -/
  | spawn (w : SlotWord)
  /-- TASKD (R342). -/
  | taskd (w : SlotWord)
  /-- SYNCA (R346). -/
  | synca (w : SlotWord)
  /-- SYNCI (R346). -/
  | synci (w : SlotWord)
  /-- EXIT (R320). -/
  | exit (w : SlotWord)
  /-- EXIT2 (R320). -/
  | exit2 (w : SlotWord)
  /-- EXITS (R320). -/
  | exits (w : SlotWord)
  /-- DONE (R320). -/
  | done (w : SlotWord)
  /-- SAFE (R367). -/
  | safe (w : SlotWord)
  /-- TRAP (R368). -/
  | trap (w : SlotWord)
  /-- SYSRD (R393). -/
  | sysrd (w : SlotWord)
  /-- SYSWR (R393). -/
  | syswr (w : SlotWord)
  /-- RSPLIT (R106). -/
  | rsplit (w : SlotWord)
  /-- RMERGE (R106). -/
  | rmerge (w : SlotWord)
  /-- RINV (R107). -/
  | rinv (w : SlotWord)
  /-- RDISC (R109). -/
  | rdisc (w : SlotWord)
  /-- RMOVE (R110). -/
  | rmove (w : SlotWord)
  /-- RPROBE (R111). -/
  | rprobe (w : SlotWord)
  /-- RWIN (R108). -/
  | rwin (w : SlotWord)
  /-- CFGLD (R326). -/
  | cfgld (w : SlotWord)
  /-- CFGINV (R327). -/
  | cfginv (w : SlotWord)
  /-- ERET (R370). -/
  | eret (w : SlotWord)
  /-- TRACEW (R393). -/
  | tracew (w : SlotWord)
  /-- FREEZE (R378). -/
  | freeze (w : SlotWord)
  /-- THAW (R378). -/
  | thaw (w : SlotWord)
  /-- RESULT_PLACEMENT (R204). -/
  | resultPlacement (core site idx : Nat)
  /-- PASS_THROUGH (R200). -/
  | passThrough (core site dir : Nat)
  /-- STEERED_TOKEN (R233). -/
  | steeredToken (core site dir : Nat)
  /-- WIDE_BEAT_PLACEMENT (R250). -/
  | wideBeatPlacement (core idx : Nat)
  /-- TILE_WRITE (R184). -/
  | tileWrite (core idx : Nat)
  /-- CHUNK_COMPLETE (R261). -/
  | chunkComplete (core idx : Nat)
  /-- JOURNAL_COPY (R266). -/
  | journalCopy (core bank : Nat)
  /-- ALLOC_GRANT (R179). -/
  | allocGrant (core pool : Nat)
  /-- COMPACTION (R181). -/
  | compaction (core pool : Nat)
  /-- COMPACTION_COMPLETE (R181). -/
  | compactionComplete (core : Nat)
  /-- ALLOC_DEADLOCK (R182). -/
  | allocDeadlock (core : Nat)
  /-- PACKET_SEND (R114). -/
  | packetSend (chan : Nat)
  /-- GETS_PACKET (R120). -/
  | getsPacket (slice : Nat) (at_ : SliceRead)
  /-- GETX (R120). -/
  | getx (slice : Nat) (at_ : SliceRead)
  /-- STORE (R120). -/
  | store (slice : Nat) (at_ : SliceRead)
  /-- RED_PACKET (R120). -/
  | redPacket (slice : Nat) (at_ : SliceRead)
  /-- WB (R120). -/
  | wb (slice idx : Nat)
  /-- EVN (R120). -/
  | evn (slice idx : Nat)
  /-- DISC (R109). -/
  | disc (slice idx : Nat)
  /-- OWNER_REPLY (R121). -/
  | ownerReply (slice idx : Nat)
  /-- INVALIDATION_ACK (R119). -/
  | invalidationAck (slice idx : Nat)
  /-- INVALIDATION (R119). -/
  | invalidation (core idx : Nat)
  /-- RECALL (R124). -/
  | recall (core idx : Nat)
  /-- PROXY_REQUEST (R125). -/
  | proxyRequest (slice : Nat) (at_ : SliceRead)
  /-- LOAD_REPLY (R127). -/
  | loadReply (core idx : Nat)
  /-- STORE_ACK (R128). -/
  | storeAck (core idx : Nat)
  /-- GETX_GRANT (R129). -/
  | getxGrant (core idx : Nat)
  /-- ERROR_REPLY (R85). -/
  | errorReply (core idx : Nat)
  /-- HBM_READ_COMPLETE (R84). -/
  | hbmReadComplete (line : Nat) (fail retryFail : BitVec 4) (onDie corrected : Nat)
  /-- REFRESH_INTERVAL (R81). -/
  | refreshInterval (chan pc : Nat)
  /-- REFPB (R80). -/
  | refpb (chan pc : Nat)
  /-- REFAB (R81). -/
  | refab (chan pc : Nat)
  /-- TEMPERATURE_CHANGE (R80). -/
  | temperatureChange (stack : Nat) (hot : Bool)
  /-- PATROL_SCRUB (R87). -/
  | patrolScrub (line : Nat) (fail : ReadFail) (corrected : Corrections)
  /-- RANGE_TABLE_MISS (R95). -/
  | rangeTableMiss (die : Nat)
  /-- WALK_INSTALL (R95). -/
  | walkInstall (die idx : Nat)
  /-- INVALIDATION_COMPLETE (R102). -/
  | invalidationComplete (idx : Nat)
  /-- RMOVE_COPY_COMPLETE (R110). -/
  | rmoveCopyComplete (idx : Nat)
  /-- ENGINE_JOB_ACCEPT (R161). -/
  | engineJobAccept (queue : Nat)
  /-- LINEAR (R157). -/
  | linear (die : Nat) (at_ : JobTurn)
  /-- TOPLANES (R248). -/
  | toplanes (die : Nat) (at_ : JobTurn)
  /-- FROMPLANES (R248). -/
  | fromplanes (die : Nat) (at_ : JobTurn)
  /-- GATHER (R160). -/
  | gather (die : Nat) (at_ : JobTurn)
  /-- SCATTER (R160). -/
  | scatter (die : Nat) (at_ : JobTurn)
  /-- ALLREDUCE (R298). -/
  | allreduce (die : Nat) (at_ : JobTurn)
  /-- REDUCE (R298). -/
  | reduce (die : Nat) (at_ : JobTurn)
  /-- BCAST (R298). -/
  | bcast (die : Nat) (at_ : JobTurn)
  /-- ALLGATHER (R298). -/
  | allgather (die : Nat) (at_ : JobTurn)
  /-- REDUCESCATTER (R298). -/
  | reducescatter (die : Nat) (at_ : JobTurn)
  /-- RGET (R301). -/
  | rget (die : Nat) (at_ : JobTurn) (remote : RemoteReply)
  /-- RPUT (R301). -/
  | rput (die : Nat) (at_ : JobTurn) (remote : RemoteReply)
  /-- COLLECTIVE_INSTANCE_FILL (R300). -/
  | collectiveInstanceFill (group seq : Nat) (remote : List RankData)
  /-- ENGINE_JOB_COMPLETE (R163). -/
  | engineJobComplete (die idx : Nat)
  /-- ENGINE_ACTIVATION (R362). -/
  | engineActivation (core : Nat)
  /-- BLOCK_DEMAND (R307). -/
  | blockDemand (core graph block : Nat)
  /-- PREFETCH_DEMAND (R308). -/
  | prefetchDemand (core : Nat)
  /-- BLOCK_VALIDATION_COMPLETE (R307). -/
  | blockValidationComplete (core ctx : Nat)
  /-- STALE_CONTEXT_RETIRE (R327). -/
  | staleContextRetire (core ctx : Nat)
  /-- VECTOR_FETCH (R312). -/
  | vectorFetch (core : Nat)
  /-- SELECTOR_CHOICE (R316). -/
  | selectorChoice (core : Nat)
  /-- SELECTOR_QUANTUM_EXPIRY (R315). -/
  | selectorQuantumExpiry (core : Nat)
  /-- THREAD_INJECTION (R314). -/
  | threadInjection (core : Nat)
  /-- EXIT_COMPLETE (R320). -/
  | exitComplete (core tid : Nat)
  /-- GATE_REGISTRATION (R345). -/
  | gateRegistration (die idx : Nat)
  /-- THREAD_FAULT (R322). -/
  | threadFault (core tid : Nat) (err : Option SoftErr)
  /-- FREEZE_PROPAGATION (R376). -/
  | freezePropagation (core space : Nat)
  /-- SAFE_DISTANCE (R365). -/
  | safeDistance (core tid : Nat)
  /-- TIMER_EXPIRY (R369). -/
  | timerExpiry (core : Nat)
  /-- PREEMPTION_REQUEST (R372). -/
  | preemptionRequest (core : Nat)
  /-- THREAD_PARK (R372). -/
  | threadPark (core tid : Nat)
  /-- SAVE_IMAGE (R373). -/
  | saveImage (core : Nat)
  /-- RESUMPTION (R374). -/
  | resumption (core : Nat)
  /-- RESUME_INJECTION (R366). -/
  | resumeInjection (core tid : Nat)
  /-- TASK_DECREMENT (R342). -/
  | taskDecrement (die idx : Nat)
  /-- TASK_DISPATCH (R338). -/
  | taskDispatch (die : Nat)
  /-- TASK_COMPLETE (R333). -/
  | taskComplete (die slot : Nat)
  /-- SYNC_ARRIVAL (R346). -/
  | syncArrival (die idx : Nat)
  /-- SYNC_INIT (R346). -/
  | syncInit (die idx : Nat)
  /-- SYNC_CACHE_FILL (R345). -/
  | syncCacheFill (die index : Nat)
  /-- BOUNDARY_TOKEN_DELIVERY (R349). -/
  | boundaryTokenDelivery (core be : Nat)
  /-- MT_START_GRANT (R350). -/
  | mtStartGrant (die : Nat)
  /-- LANE_RETRAIN (R292). -/
  | laneRetrain (port lane : Nat) (errs : LaneErrs)
  /-- LANE_HANDBACK (R292). -/
  | laneHandback (port lane : Nat)
  /-- LANE_SIGNAL_LOSS (R293). -/
  | laneSignalLoss (port lane : Nat)
  /-- LINK_TRAINING (R291). -/
  | linkTraining (port : Nat) (trelpin : Bool)
  /-- REMOTE_RMA_WRITE (R290). -/
  | remoteRmaWrite (port : Nat) (at_ : RmaPiece) (data : List Byte)
  /-- REMOTE_RMA_READ (R290). -/
  | remoteRmaRead (port : Nat) (at_ : RmaPiece) (len : Nat)
  /-- HELLO (R381). -/
  | hello (flow : Nat) (key : List Byte)
  /-- PROVE (R381). -/
  | prove (flow : Nat) (sig : List Byte)
  /-- CLAIM (R384). -/
  | claim (session : Nat)
  /-- HANDOVER (R384). -/
  | handover (session target : Nat)
  /-- ACCEPT (R384). -/
  | accept (session : Nat)
  /-- BEAT (R384). -/
  | beat (session : Nat)
  /-- STATUS (R383). -/
  | status (session : Nat)
  /-- TELEM (R383). -/
  | telem (session : Nat)
  /-- TRACE (R383). -/
  | trace (session die offset len : Nat)
  /-- QUOTE (R387). -/
  | quote (session : Nat) (nonce : List Byte) (space : Nat)
  /-- SPACE (R387). -/
  | space (session : Nat) (req : SpaceReq)
  /-- QUEUE (R383). -/
  | queue (session space : Nat) (create : Bool)
  /-- ADMIT (R386). -/
  | admitGraph (session graph dir : Nat) (sig : List Byte)
  /-- MGMT (R385). -/
  | mgmt (session addr : Nat) (value : BitVec 64)
  /-- LAUNCH (R334). -/
  | launch (session queue port : Nat) (records : List (List Byte)) (map : List Byte)
  /-- OWNERSHIP_TIMEOUT (R384). -/
  | ownershipTimeout
  /-- SESSION_CLOSE (R384). -/
  | sessionClose (session : Nat)
  /-- TELEMETRY_SAMPLE (R388). -/
  | telemetrySample (die iavg pavg pmax : Nat)
  /-- TRACE_RECORD_APPEND (R390). -/
  | traceRecordAppend (die : Nat)
  /-- MODULE_RESET (R395). -/
  | moduleReset (cause : ResetCause) (cfg : BootInputs)
  /-- DIE_RESET (R396). -/
  | dieReset (idx : Nat)
  /-- CORE_RESET (R396). -/
  | coreReset (idx : Nat)
  /-- DCBOOT_CLEAR (R401). -/
  | dcbootClear (idx : Nat)
  /-- SERVICE_CORE_RELEASE (R404). -/
  | serviceCoreRelease (idx : Nat)
  /-- READ_SWEEP (R408). -/
  | readSweep (idx : Nat)
  /-- WRITE_SWEEP (R408). -/
  | writeSweep (idx : Nat)
  /-- PATTERN_TEST (R408). -/
  | patternTest (idx : Nat)
  /-- PHY_COMMAND_COMPLETE (R407). -/
  | phyCommandComplete (slice : Nat) (eyes : List (BitVec 16)) (errs : Nat)
  /-- PHREP_WRITE (R411). -/
  | phrepWrite (idx : Nat)
  /-- TRAINED_WRITE (R412). -/
  | trainedWrite (idx : Nat)
  /-- PC_INIT_COMPLETE (R412). -/
  | pcInitComplete (chan pc : Nat)
  /-- REGISTER_WRITE (R5). -/
  | registerWrite (idx : Nat)
  /-- FABRIC_CLOCK_CHANGE (R390). -/
  | fabricClockChange (core : Nat)
  /-- HBM_WRITE_COMPLETE (R132). -/
  | hbmWriteComplete (line : Nat)
  /-- CONNECTION_SETUP (R289). -/
  | connectionSetup (port : Nat) (features : List Feature)
  deriving DecidableEq, Repr

/-- What a step does next: a site chooses among its slots (R203), an event happens, or the cycle moves on. -/
inductive Turn where
  | site (core site : Nat)
  | event (i : Instr)
  | edge
  deriving DecidableEq, Repr, Inhabited

end Sys2Proof
end

