-- ==== Sys2Proof/Config.lean ====
section
/-! DEFINITION. What an implementation fixes and what the manual leaves open. Every constant of this file is opaque: it has
no body that a proof could use, so a claim holds whatever its value is (log 1, 2, 8, 9, 10). -/

namespace Sys2Proof

/-- A value the manual leaves open, by the number of the free value (log 2). -/
opaque Config.free (n : Nat) : Nat

/-- The bytes of a granule that a grant hands out without clearing it (R186, log 8). -/
opaque Config.freeGranule (n : Nat) : BitVec 256

/-- Whether an Ed25519 signature of a message under a public key verifies (R381, R386, R399, log 10). -/
opaque Config.ed25519Verify (key msg sig : Bytes) : Bool

/-- The device's identity signature over a message (R382, R387, log 10). -/
opaque Config.identitySign (msg : Bytes) : Bytes

/-- The device's identity public key (R381, log 10). -/
opaque Config.identityKey : Bytes

/-- The random challenge of a HELLO, by number (R381, log 10). -/
opaque Config.challenge (n : Nat) : Bytes

/-- The public key in the control unit's boot ROM (R399, log 10). -/
opaque Config.kerperKey : Bytes

/-- Where a flash copy holds its product configuration (false) and its firmware image (true), from the copy's start (R399, log 24). -/
opaque Config.imageOffset (firmware : Bool) : Nat

/-- What a product configuration's body says: whether a core is enabled, whether a key is a management key, a PHY slice's
permanent repair, and the lanes of a port that its permanent repair takes out (R18, R381, R387, R398, log 24). -/
opaque Config.coreEnabled (cfg : Bytes) (core : Nat) : Bool
opaque Config.managementKey (cfg key : Bytes) : Bool
opaque Config.laneRepair (cfg : Bytes) (slice : Nat) : BitVec 64
opaque Config.portRepair (cfg : Bytes) (port : Nat) : BitVec 8

/-- What a firmware image's body says for a die: the bytes of its graphs, each graph's id with its directory's offset in them, and the
entry block, thread count, graph, argument pointer and pools of its task (R398, R402, log 24). -/
opaque Config.firmwareGraphs (fw : Bytes) (die : Nat) : Bytes
opaque Config.firmwareDirs (fw : Bytes) (die : Nat) : List (Nat × Nat)
opaque Config.firmwareTask (fw : Bytes) (die : Nat) : Nat × Nat × Nat × Nat
opaque Config.firmwarePools (fw : Bytes) (die : Nat) : List (Nat × Nat)

/-- The reference ticks that pass in a fabric cycle, by its number (R1, R2, log 4). -/
opaque Config.ticks (cycle : Nat) : Nat

/-- What a device is to do next once its agenda is empty, by the number of the turn (log 1). -/
opaque Config.nextTurn (n : Nat) : Turn

end Sys2Proof
end

