-- ==== Sys2Proof/WellFormed.lean ====
section
/-! DEFINITION. Which site words the loader accepts (R65, R71, R206, R249 and the refusals of each instruction's own
description), and which event numbers name a unit the device has. The rules that need the routing word or the rest of the
image (R66, R67, SAFE's descriptor, R251, R348's common count) stand with the loader in Machine/Loader.lean. -/

namespace Sys2Proof

/-- Site kinds (R12). -/
inductive SiteKind where
  | pe | mt | me | ep | be
  deriving DecidableEq, Repr

/-- The kind of each site, by its id 16·row + col (R9, R20). -/
def siteKind (sid : Nat) : SiteKind :=
  let r := sid / 16
  let c := sid % 16
  if (c = 0 ∨ c = 15) ∧ 4 ≤ r ∧ r ≤ 11 then .me
  else if (r = 2 ∨ r = 7 ∨ r = 12) ∧ (c = 3 ∨ c = 6 ∨ c = 9 ∨ c = 12) then .mt
  else if (r = 0 ∨ r = 15) ∧ (c = 4 ∨ c = 11) then .ep
  else if (r = 0 ∧ c = 7) ∨ (r = 15 ∧ c = 8) then .be
  else .pe

/-- Latency classes of the opcode map (R69, R70): a number, variable, or no token emitted. -/
inductive Latency where
  | num (n : Nat)
  | var
  | none
  deriving DecidableEq, Repr

namespace SlotWord

/-- The channel guard on input `n`. -/
def cg (w : SlotWord) (n : Nat) : Guard :=
  match n with
  | 0 => w.cg0
  | 1 => w.cg1
  | 2 => w.cg2
  | _ => w.cg3

/-- Whether DQ names input `n`. -/
def deq (w : SlotWord) (n : Nat) : Bool := w.dq.getLsbD n

/-- Whether a source selector of the word names input `n`. -/
def reads (w : SlotWord) (n : Nat) : Bool :=
  let hit (x : Src) : Bool := match x with
    | .i k => k.val == n
    | _ => false
  hit w.sa || hit w.sb || hit w.sc

/-- The inputs 0 to 3. -/
def inputs : List Nat := [0, 1, 2, 3]

/-- The word reads or dequeues some head (R35). -/
def usesHead (w : SlotWord) : Bool := inputs.any fun n => w.reads n || w.deq n

/-- All four inputs are guarded with code 1 or 2 and dequeued (R158, R340). -/
def takesFour (w : SlotWord) : Bool :=
  inputs.all fun n => w.deq n && (w.cg n == .any || w.cg n == .kind .dat)

/-- The lane type of class L is one of the six (R71). -/
def laneOk (w : SlotWord) : Bool := (w.mod.extractLsb' 0 3).toNat < 6

/-- .sat of classes L and F (R71). -/
def sat (w : SlotWord) : Bool := w.mod.getLsbD 3

/-- The lane type code of class L (R71). -/
def laneCode (w : SlotWord) : Nat := (w.mod.extractLsb' 0 3).toNat

/-- The scope code of classes A and S (R71). -/
def scopeCode (w : SlotWord) : Nat := (w.mod.extractLsb' 0 3).toNat

/-- Class N: MOD is 0. -/
def classN (w : SlotWord) : Bool := w.mod == 0

/-- Class L; `s` says whether .sat is accepted. -/
def classL (w : SlotWord) (s : Bool) : Bool := w.laneOk && (s || !w.sat)

/-- Class F: bit 2 is 0. -/
def classF (w : SlotWord) : Bool := !w.mod.getLsbD 2

/-- Class A: a scope 0 to 4. -/
def classA (w : SlotWord) : Bool := w.scopeCode < 5

/-- Class S with its scope between `lo` and `hi`. -/
def classS (w : SlotWord) (lo hi : Nat) : Bool := !w.mod.getLsbD 3 && lo ≤ w.scopeCode && w.scopeCode ≤ hi

/-- Class Y: a layout 0 to 6. -/
def classY (w : SlotWord) : Bool := !w.mod.getLsbD 3 && w.scopeCode < 7

/-- Class M: a format tag 3 to 7. -/
def classM (w : SlotWord) : Bool := !w.mod.getLsbD 3 && 3 ≤ w.scopeCode

/-- The source is not written: selector 14. -/
def isZero (x : Src) : Bool := x == .zero

/-- The source is an input channel. -/
def isInput (x : Src) : Bool := match x with
  | .i _ => true
  | _ => false

/-- The source is a d-register. -/
def isDreg (x : Src) : Bool := match x with
  | .d _ => true
  | _ => false

/-- The source is an input that the slot guards with the given code and dequeues. -/
def takenWith (w : SlotWord) (x : Src) (g : Guard) : Bool := match x with
  | .i k => w.cg k.val == g && w.deq k.val
  | _ => false

/-- The source is an input guarded with any nonzero code. -/
def guarded (w : SlotWord) (x : Src) : Bool := match x with
  | .i k => w.cg k.val != .off
  | _ => false

/-- The source is an input guarded with a nonzero code and dequeued. -/
def guardedTaken (w : SlotWord) (x : Src) : Bool := match x with
  | .i k => w.cg k.val != .off && w.deq k.val
  | _ => false

/-- FMT is RAW. -/
def raw (w : SlotWord) : Bool := w.fmt == .raw

/-- No d-register is written. -/
def noDr (w : SlotWord) : Bool := w.dr == none

/-- IMM bits from `lo` upward are zero. -/
def immBelow (w : SlotWord) (lo : Nat) : Bool := w.imm.toNat < 2 ^ lo

/-- IMM[lo + n − 1 : lo] as a number. -/
def immAt (w : SlotWord) (lo n : Nat) : Nat := (w.imm.extractLsb' lo n).toNat

/-- Exactly the first `k` sources are used; the others are 14 (R214, R235). -/
def uses (w : SlotWord) (k : Nat) : Bool :=
  (k ≥ 1 || isZero w.sa) && (k ≥ 2 || isZero w.sb) && (k ≥ 3 || isZero w.sc)

/-- A literal stands in a source. -/
def hasLit (w : SlotWord) : Bool := w.sa == .lit || w.sb == .lit || w.sc == .lit

/-- Selectors 12 and 13 are not used (R249). -/
def noWide (w : SlotWord) : Bool :=
  let nw (x : Src) : Bool := x != .wa && x != .wb
  nw w.sa && nw w.sb && nw w.sc

/-- The checks of R65 and R206 that hold for every instruction. `puOk` says whether PU is allowed, `ownImm` whether the
description lays out IMM, and `heads` whether the word reads or dequeues a head. -/
def common (w : SlotWord) (puOk ownImm : Bool) (heads : Bool := w.usesHead) : Bool :=
  (w.pv &&& ~~~ w.pm) == 0
  && (w.pu != .none || w.pd == 0)
  && (w.sq != .none || w.ps == 0)
  && (w.om != 0 || w.ok == .dat)
  && (w.om == 0 || heads)
  && (w.pu == .none || puOk)
  && (ownImm || w.hasLit || w.imm == 0)

/-- A memory access's ordering token (R136): SC is an input guarded with code 7 and dequeued. -/
def ordTok (w : SlotWord) : Bool := w.takenWith w.sc (.kind .ord)

/-- The format has one of the tags from `lo` to `hi`. -/
def fmtIn (w : SlotWord) (l : List Fmt) : Bool := l.contains w.fmt

/-- A control, move or integer word of class L with `k` sources. -/
def alu (w : SlotWord) (s : Bool) (k : Nat) (puOk : Bool := true) : Bool :=
  w.common puOk false && w.noWide && w.raw && w.classL s && w.uses k

/-- A floating-point word of class F or N with `k` sources (R235). -/
def fp (w : SlotWord) (f : Bool) (k : Nat) (puOk : Bool := false) : Bool :=
  w.common puOk false && w.noWide && (if f then w.classF else w.classN) && w.uses k && w.fmtIn [.f32, .bf16]

/-- An exit word (R319). -/
def exitForm (w : SlotWord) (lit : Bool) : Bool :=
  w.common false lit && w.noWide && w.classN && w.raw && w.noDr && w.om == 0 && w.ok == .dat && w.guardedTaken w.sa

/-- A privileged word of class N with the given sources unused (R103, R325, R377, R393). -/
def priv (w : SlotWord) (k : Nat) : Bool :=
  w.common false false && w.noWide && w.raw && w.uses k

end SlotWord

open SlotWord

/-- The literal forms of a counted operand: a literal within its limits, or a source with no literal. -/
def litIn (w : SlotWord) (x : Src) (lo hi : Nat) : Bool :=
  x != .lit || (lo ≤ w.imm.toNat && w.imm.toNat ≤ hi)

/-- Whether a slot instruction's own description and R65 accept its word at a site. `sid` is the site id and `prv` is
FLAGS.PRIV of the image. Events are well formed when they name a unit the device has. -/
def Instr.wfAt (sid : Nat) (prv : Bool) (i : Instr) : Bool :=
  let k := siteKind sid
  let pe := k == .pe
  let me := k == .me
  let mt := k == .mt
  let ep := k == .ep
  let home := sid == 251                        -- engine port (15,11)
  match i with
  | .mov w => w.common true false && w.noWide && w.classN && w.uses 1
  | .movi w => w.common true true && w.classN && w.sa == .lit && isZero w.sb && isZero w.sc
  | .sel w => w.common true false && w.noWide && w.classL false
  | .selk w => w.common true false && w.noWide && w.classN
  | .drop w => w.common false false && w.classN && w.raw && w.uses 0 && w.dq != 0 && w.om == 0
  | .emit w => w.common true true && w.noWide && w.classN && w.sa != .lit && w.sb == .lit && isZero w.sc
      && w.immBelow 8 && w.imm != 0
  | .plog w => w.common true true && w.classN && w.raw && w.sa == .lit && isZero w.sb && isZero w.sc && w.immBelow 10
      && w.pu == .lane0 && w.noDr
  | .pset w => w.common true true && w.classN && w.raw && w.sa == .lit && isZero w.sb && isZero w.sc && w.immBelow 16
      && w.noDr && w.om == 0
  | .ptest w => w.alu false 1 && w.pu != .none && w.noDr && w.om == 0
  | .lane w => w.common true false && w.noWide && w.classL false && w.uses 2
  | .shuf w => w.common true false && w.noWide && w.classL false && w.uses 2
  | .pack w => w.alu true 2 false && w.laneCode < 4
  | .unpk w => w.alu false 2 false && 2 ≤ w.laneCode
  | .gets w => w.common true false && w.classN && w.raw && w.uses 1 && isInput w.sa
  | .tagf w => w.common true false && w.classN && w.raw && w.uses 1 && isInput w.sa
  | .add w => pe && w.alu true 3
  | .sub w => pe && w.alu true 3
  | .addc w => pe && w.alu false 3
  | .subb w => pe && w.alu false 3
  | .mul w => pe && w.alu true 2 false
  | .mulh w => pe && w.alu false 2 false
  | .mad w => pe && w.alu true 3 false
  | .absd w => pe && w.alu true 2
  | .min w => pe && w.alu false 2
  | .max w => pe && w.alu false 2
  | .abs w => pe && w.alu true 1
  | .neg w => pe && w.alu true 1
  | .avg w => pe && w.alu false 2
  | .indx w => pe && w.alu true 2
  | .clamp w => pe && w.alu false 3
  | .dot4 w => pe && w.alu true 3 false && 4 ≤ w.laneCode
  | .and w => pe && w.alu false 2
  | .or w => pe && w.alu false 2
  | .xor w => pe && w.alu false 2
  | .andn w => pe && w.alu false 2
  | .orn w => pe && w.alu false 2
  | .not w => pe && w.alu false 1
  | .shl w => pe && w.alu true 2
  | .shr w => pe && w.alu false 2
  | .sar w => pe && w.alu false 2
  | .rol w => pe && w.alu false 2
  | .clz w => pe && w.alu false 1
  | .popc w => pe && w.alu false 1
  | .brev w => pe && w.alu false 1
  | .extr w => pe && w.alu false 2
  | .insr w => pe && w.alu false 3
  | .bsel w => pe && w.alu false 3
  | .cmpeq w => pe && w.alu false 2
  | .cmpne w => pe && w.alu false 2
  | .cmplt w => pe && w.alu false 2
  | .cmple w => pe && w.alu false 2
  | .cmpgt w => pe && w.alu false 2
  | .cmpge w => pe && w.alu false 2
  | .tstz w => pe && w.alu false 1
  | .cnt w => pe && w.alu false 1 && w.laneCode < 2 && w.noDr && w.ok == .dat && counterForm w
  | .cnt2 w => pe && w.alu false 1 && w.laneCode < 2 && w.noDr && w.ok == .dat && counterForm w
  | .step w => pe && w.alu false 3 && (match w.sa with
      | .d n => w.dr == some n
      | _ => false)
  | .joink w => (pe || k == .be) && w.common true true && w.noWide && w.classN && w.raw && w.noDr && w.guardedTaken w.sa
      && w.sb == .lit && isZero w.sc && w.immBelow 16 && w.imm != 0
  | .ordj w => (pe || me) && w.common true false && w.classN && w.raw && w.noDr && w.ok == .ord && w.om != 0
      && w.takenWith w.sa (.kind .ord) && w.takenWith w.sb (.kind .ord) && w.sa != w.sb
      && (isZero w.sc || (w.takenWith w.sc (.kind .ord) && w.sc != w.sa && w.sc != w.sb))
  | .fadd w => pe && w.fp true 2
  | .fsub w => pe && w.fp true 2
  | .fmul w => pe && w.fp true 2
  | .fma w => pe && w.fp true 3
  | .fnma w => pe && w.fp true 3
  | .fms w => pe && w.fp true 3
  | .fmin w => pe && w.fp false 2
  | .fmax w => pe && w.fp false 2
  | .fabs w => pe && w.fp false 1 true
  | .fneg w => pe && w.fp false 1 true
  | .fcmpeq w => pe && w.fp false 2
  | .fcmplt w => pe && w.fp false 2
  | .fcmple w => pe && w.fp false 2
  | .fcmpun w => pe && w.fp false 2
  | .fclass w => pe && w.fp false 1 true
  | .fscale w => pe && w.fp true 2
  | .frnd w => pe && w.fp true 1
  | .frcp w => pe && w.fp true 1
  | .frsq w => pe && w.fp true 1
  | .fsqrt w => pe && w.fp true 1
  | .fdiv w => pe && w.fp true 2
  | .fexp2 w => pe && w.fp true 1
  | .flog2 w => pe && w.fp true 1
  | .fsum w => pe && w.fp true 3
  | .fdot w => pe && w.fp true 3
  | .fmaxa w => pe && w.fp false 3
  | .cvt w => pe && w.common false true && w.classF && w.fmtIn [.f32, .bf16, .e4m3, .e5m2] && isInput w.sa && w.sb == .lit
      && isZero w.sc && w.immBelow 2 && (w.fmt != .bf16 || w.immBelow 1)
  | .ftoi w => pe && w.common false false && w.noWide && w.uses 1 && w.fmtIn [.f32, .bf16]
  | .itof w => pe && w.common false false && w.noWide && w.uses 1 && w.fmtIn [.f32, .bf16]
  | .sxpk w => pe && w.common false false true && w.classF && w.uses 0 && w.fmtIn [.sx7, .sx4, .sx2] && w.noDr && w.ok == .dat
      && w.om != 0 && inputs.all fun n => w.cg n == .any || w.cg n == .kind .dat
  | .sxup w => pe && w.common false true && w.classN && w.fmtIn [.sx7, .sx4, .sx2] && datInput w && w.sb == .lit
      && isZero w.sc && w.immBelow 2
  | .sxex w => pe && w.common false false && w.classN && w.fmtIn [.sx7, .sx4, .sx2] && datInput w && w.uses 1
  | .alloc w => me && w.common false true && w.noWide && w.classY && w.raw && w.noDr && w.ok == .dat && w.sa == .lit
      && w.immBelow 20 && w.immAt 0 4 < 15 && w.dq != 0
      && (if w.sb == .lit then 1 ≤ w.immAt 4 16 && w.immAt 4 16 ≤ 32768
          else (isInput w.sb || isDreg w.sb) && w.immAt 4 16 == 0)
  | .seal w => me && w.common false false && w.noWide && w.classN && w.raw && w.noDr && (w.ok == .dat || w.ok == .ord)
      && litIn w w.sb 1 255
  | .release w => me && w.common false false && w.noWide && w.classN && w.raw && w.noDr && (w.ok == .dat || w.ok == .ord)
  | .retain w => me && w.common false false && w.noWide && w.classN && w.raw && w.noDr && (w.ok == .dat || w.ok == .ord)
  | .tld w => me && w.common false false && w.noWide && w.classY && w.noDr && w.ok == .dat
  | .tst w => me && w.common false false && w.noWide && w.classY && w.raw && w.noDr && w.ok == .dat
  | .tldw w => me && w.common false false && w.noWide && w.classY && w.noDr && w.ok == .dat && w.om == 0
  | .tstw w => me && w.common false false && w.classY && w.raw && w.noDr && w.ok == .dat && w.sc == .wb
      && w.sa != .wa && w.sa != .wb && w.sb != .wa && w.sb != .wb
  | .tzero w => me && w.common false false && w.noWide && w.classN && w.raw && w.noDr && w.ok == .dat && w.om == 0
  | .tinfo w => me && w.common false false && w.noWide && w.classN && w.raw && w.noDr && w.ok == .dat
  | .tpln w => me && w.common false false && w.noWide && w.mod == 2 && w.noDr && w.ok == .dat
  | .pool w => me && w.common false true && w.noWide && w.classN && w.raw && w.noDr && w.ok == .dat && w.sa == .lit
      && w.immBelow 4 && w.usesHead
  | .acca w => me && w.common false true && w.noWide && w.classN && w.raw && w.noDr && w.ok == .dat && isZero w.sa && isZero w.sc
      && w.usesHead && (if w.sb == .lit then w.imm.toNat ≤ 192 && w.imm != 0 else (isInput w.sb || isDreg w.sb) && w.imm == 0)
  | .accf w => me && w.common false false && w.noWide && w.classN && w.raw && w.noDr && w.ok == .dat
  | .ld w => me && w.common false false && w.noWide && w.classL false && w.noDr && w.ordTok && isZero w.sb
      && (w.raw || (w.fmt == .f32 && w.laneCode < 2)) && (w.ok == .dat || w.ok == .scl)
  | .ldt w => me && w.common false false && w.noWide && w.classL false && w.noDr && w.ordTok && isZero w.sb
      && (w.ok == .dat || w.ok == .scl)
  | .lda w => me && w.common false false && w.noWide && w.classA && w.raw && w.noDr && w.ordTok && isZero w.sb && w.ok == .dat
  | .st w => me && w.common false false && w.noWide && w.classL false && w.raw && w.noDr && w.ordTok && w.ok == .ord
  | .stt w => me && w.common false false && w.noWide && w.classL false && w.raw && w.noDr && w.ordTok && w.ok == .ord
  | .stl w => me && w.common false false && w.noWide && w.classA && w.raw && w.noDr && w.ordTok && w.ok == .ord
  | .pref w => me && w.common false false && w.noWide && w.classN && w.raw && w.noDr && w.uses 1 && w.om == 0 && w.usesHead
  | .fence w => me && w.common false false && w.classS 0 4 && w.raw && isZero w.sa && isZero w.sb && w.ordTok && w.ok == .ord
  | .aadd w => me && atomicForm w
  | .amin w => me && atomicForm w
  | .amax w => me && atomicForm w
  | .aand w => me && atomicForm w
  | .aor w => me && atomicForm w
  | .axor w => me && atomicForm w
  | .axchg w => me && atomicForm w
  | .acas w => me && atomicForm w
  | .afadd w => me && atomicForm w && !w.mod.getLsbD 3
  | .red w => me && w.common false true && w.noWide && w.classA && w.raw && w.noDr && w.ordTok && w.ok == .ord && w.sb != .lit
      && w.immBelow 3 && w.imm != 7 && (w.imm != 6 || !w.mod.getLsbD 3)
  | .flush w => me && w.common false false && w.noWide && w.classS 1 4 && w.raw && w.noDr && (w.om == 0 || w.ok == .ord)
  | .invl w => me && w.common false false && w.noWide && w.classS 1 3 && w.raw && w.noDr && (w.om == 0 || w.ok == .ord)
  | .mma w => mt && mmaForm w
  | .mmaz w => mt && mmaForm w
  | .accrd w => mt && accForm w && isZero w.sb
  | .accrdn w => mt && accForm w && isZero w.sb
  | .accwr w => mt && accForm w
  | .accz w => mt && accForm w && isZero w.sb
  | .acccv w => mt && w.common false false && w.noWide && w.classF && w.fmt != .raw && w.fmt != .f32
  | .mtcfg w => mt && w.common false true && w.classN && w.raw && w.noDr && w.sa == .lit && isZero w.sb && isZero w.sc && w.immBelow 4
  | .copy w => (sid == 4 || sid == 11) && engineForm w && w.classN
  | .gath w => sid == 244 && engineForm w && w.classN
  | .scat w => sid == 244 && engineForm w && w.classN
  | .xcol w => home && engineForm w && w.classS 2 4
  | .engq w => ep && w.common false false && w.classN && w.raw && w.noDr && w.ok == .dat && w.uses 1 && isInput w.sa
  | .spawn w => home && w.common false false && w.classN && w.raw && w.noDr && w.ok == .dat && w.uses 0 && w.takesFour
  | .taskd w => home && w.common false false && w.noWide && w.classN && w.raw && w.noDr && w.ok == .dat && w.uses 2
      && w.usesHead && litIn w w.sb 1 65535
  | .synca w => home && syncForm w && isZero w.sc
  | .synci w => home && syncForm w
  | .exit w => pe && w.exitForm true && w.sb == .lit && isZero w.sc && w.immBelow 12
  | .exit2 w => pe && w.exitForm true && w.sb == .lit && w.sc == .lit && w.immBelow 24
  | .exits w => pe && w.exitForm true && w.sb == .lit && w.sc == .lit && w.immBelow 28
  | .done w => pe && w.exitForm false && isZero w.sb && isZero w.sc
  | .safe w => pe && safeForm w && w.immBelow 8
  | .trap w => pe && safeForm w && w.immBelow 16
  | .sysrd w => pe && prv && w.priv 1 && w.classN
  | .syswr w => pe && prv && w.priv 2 && w.classN
  | .rsplit w => pe && prv && w.priv 3 && w.classN
  | .rmerge w => pe && prv && w.priv 3 && w.classN
  | .rinv w => pe && prv && w.priv 3 && w.classS 1 3
  | .rdisc w => pe && prv && w.priv 3 && w.classN
  | .rmove w => pe && prv && w.priv 3 && w.classN
  | .rprobe w => pe && w.priv 3 && w.classN
  | .rwin w => pe && prv && w.priv 3 && w.classN
  | .cfgld w => pe && prv && w.priv 2 && w.classN && w.noDr
  | .cfginv w => pe && prv && w.priv 1 && w.classN && w.noDr
  | .eret w => pe && prv && w.common false false && w.classN && w.raw && w.noDr && w.om == 0 && w.ok == .dat && w.guardedTaken w.sa
      && isZero w.sb && isZero w.sc
  | .tracew w => pe && prv && w.common false true && w.noWide && w.classN && w.raw && w.sb == .lit && isZero w.sc && w.immBelow 8
      && w.immAt 6 2 < 3
  | .freeze w => pe && prv && w.priv 1 && w.classN && w.noDr
  | .thaw w => pe && prv && w.priv 2 && w.classN && w.noDr
  | _ => true
where
  /-- CNT and CNT2 (R253): a start slot guards with code 2 and emits, a bound slot guards with code 6 and does not. -/
  counterForm (w : SlotWord) : Bool := match w.sa with
    | .i n => (w.cg n.val == .kind .dat && w.om != 0) || (w.cg n.val == .kind .bnd && w.om == 0)
    | _ => false
  /-- SXUP and SXEX (R242): SA is an input guarded with code 2. -/
  datInput (w : SlotWord) : Bool := match w.sa with
    | .i n => w.cg n.val == .kind .dat
    | _ => false
  /-- The value-returning atomics (R136, R151). -/
  atomicForm (w : SlotWord) : Bool :=
    w.common false false && w.noWide && w.classA && w.raw && w.noDr && w.ordTok && w.ok == .dat
  /-- MMA and MMAZ (R257). -/
  mmaForm (w : SlotWord) : Bool :=
    w.common false false && w.classM && w.fmtIn [.e4m3, .e5m2, .sx7, .sx4, .sx2] && w.noDr && w.ok == .dat && w.sa == .wa
      && w.sb == .wb && (match w.sc with
        | .i n => w.cg n.val == .kind .dat
        | _ => false)
  /-- ACCRD, ACCRDN, ACCWR and ACCZ (R264). -/
  accForm (w : SlotWord) : Bool :=
    w.common false false && w.noWide && w.classN && w.raw && w.noDr && (w.ok == .dat || w.ok == .ord) && isZero w.sc
  /-- COPY, GATH, SCAT and XCOL (R158, R296). -/
  engineForm (w : SlotWord) : Bool :=
    w.common false false && w.raw && w.noDr && w.om == 0 && w.uses 0 && w.takesFour
  /-- SYNCA and SYNCI (R346). -/
  syncForm (w : SlotWord) : Bool :=
    w.common false true && w.noWide && w.classS 1 4 && w.raw && w.noDr && w.om == 0 && w.guardedTaken w.sa && w.sb == .lit
      && w.immBelow 16 && w.imm != 0xFFFF
  /-- SAFE and TRAP (R367, R368). -/
  safeForm (w : SlotWord) : Bool :=
    w.common false true && w.noWide && w.classN && w.raw && w.noDr && w.om == 0 && w.ok == .dat && w.guarded w.sa
      && w.sb == .lit && isZero w.sc && w.immAt 0 8 < 255

end Sys2Proof
end

