-- ==== Sys2Proof/Decode.lean ====
section
/-! DEFINITION. Site words: the decoder, total on any 128 bits and refusing by name, and the encoder, both written from the
field table of R53, the codes of R13, R14, R54 to R56 and the opcode map of R70. -/

namespace Sys2Proof

/-- Why 128 bits are no instruction (R65 and the table under R68). -/
inductive DecodeErr where
  | nop                -- the all-zero word, which never fires (R33)
  | badNop             -- OP = 0x000 with another bit set
  | unassigned         -- OP unassigned in the opcode map
  | reservedBits       -- a bit of [40:32] set
  | reservedSource     -- a source selector 24 to 63
  | reservedDest       -- DR 9 to 15
  | reservedKind       -- OK 6 or 7
  deriving DecidableEq, Repr

/-- Bits [hi:lo] of a word as a number (R6). -/
def field (w : SiteWord) (hi lo : Nat) : Nat := w.toNat / 2 ^ lo % 2 ^ (hi + 1 - lo)

/-- Token kinds by code (R13). -/
def Kind.ofCode (n : Nat) : Option Kind :=
  match n with
  | 0 => some .dat
  | 1 => some .scl
  | 2 => some .eor
  | 3 => some .eok
  | 4 => some .bnd
  | 5 => some .ord
  | _ => none

/-- The code of a token kind (R13). -/
def Kind.code (k : Kind) : Nat :=
  match k with
  | .dat => 0
  | .scl => 1
  | .eor => 2
  | .eok => 3
  | .bnd => 4
  | .ord => 5

/-- Format tags by code (R14). -/
def Fmt.ofCode (n : Nat) : Fmt :=
  match n with
  | 0 => .raw
  | 1 => .f32
  | 2 => .bf16
  | 3 => .e4m3
  | 4 => .e5m2
  | 5 => .sx7
  | 6 => .sx4
  | _ => .sx2

/-- The code of a format tag (R14). -/
def Fmt.code (f : Fmt) : Nat :=
  match f with
  | .raw => 0
  | .f32 => 1
  | .bf16 => 2
  | .e4m3 => 3
  | .e5m2 => 4
  | .sx7 => 5
  | .sx4 => 6
  | .sx2 => 7

/-- Channel guard codes (R54): 0 none, 1 any, 2 + kind. -/
def Guard.ofCode (n : Nat) : Guard :=
  match n with
  | 0 => .off
  | 1 => .any
  | 2 => .kind .dat
  | 3 => .kind .scl
  | 4 => .kind .eor
  | 5 => .kind .eok
  | 6 => .kind .bnd
  | _ => .kind .ord

/-- The code of a channel guard (R54). -/
def Guard.code (g : Guard) : Nat :=
  match g with
  | .off => 0
  | .any => 1
  | .kind k => 2 + k.code

/-- Source selectors by code (R55). -/
def Src.ofCode (n : Nat) : Option Src :=
  if h : n < 8 then some (.d ⟨n, h⟩)
  else match n with
  | 8 => some (.i 0)
  | 9 => some (.i 1)
  | 10 => some (.i 2)
  | 11 => some (.i 3)
  | 12 => some .wa
  | 13 => some .wb
  | 14 => some .zero
  | 15 => some .lit
  | 16 => some .tid
  | 17 => some .bid
  | 18 => some .sid
  | 19 => some .ctx
  | 20 => some .cyc
  | 21 => some .lix
  | 22 => some .spc
  | 23 => some .cid
  | _ => none

/-- The code of a source selector (R55). -/
def Src.code (x : Src) : Nat :=
  match x with
  | .d n => n.val
  | .i n => 8 + n.val
  | .wa => 12
  | .wb => 13
  | .zero => 14
  | .lit => 15
  | .tid => 16
  | .bid => 17
  | .sid => 18
  | .ctx => 19
  | .cyc => 20
  | .lix => 21
  | .spc => 22
  | .cid => 23

/-- DR by code (R56): 8 writes no register, 9 to 15 are reserved. -/
def drOfCode (n : Nat) : Option (Option (Fin 8)) :=
  if h : n < 8 then some (some ⟨n, h⟩) else if n = 8 then some none else none

/-- The code of DR (R56). -/
def drCode (d : Option (Fin 8)) : Nat :=
  match d with
  | some n => n.val
  | none => 8

/-- PU by code (R56). -/
def PredUpd.ofCode (n : Nat) : PredUpd :=
  match n with
  | 0 => .none
  | 1 => .lane0
  | 2 => .any
  | _ => .all

/-- The code of PU (R56). -/
def PredUpd.code (p : PredUpd) : Nat :=
  match p with
  | .none => 0
  | .lane0 => 1
  | .any => 2
  | .all => 3

/-- SQ by code (R56). -/
def SeqAct.ofCode (n : Nat) : SeqAct :=
  match n with
  | 0 => .none
  | 1 => .set
  | 2 => .clr
  | _ => .tog

/-- The code of SQ (R56). -/
def SeqAct.code (q : SeqAct) : Nat :=
  match q with
  | .none => 0
  | .set => 1
  | .clr => 2
  | .tog => 3

/-- The fields of a word, at the bits of R53, where no code is reserved. -/
def decodeFields (w : SiteWord) : Except DecodeErr SlotWord :=
  if field w 40 32 ≠ 0 then .error .reservedBits
  else match Src.ofCode (field w 83 78), Src.ofCode (field w 77 72), Src.ofCode (field w 71 66) with
  | some sa, some sb, some sc =>
    match drOfCode (field w 65 62), Kind.ofCode (field w 57 55) with
    | some dr, some ok => .ok
        { pm := .ofNat 8 (field w 127 120), pv := .ofNat 8 (field w 119 112)
          cg3 := .ofCode (field w 111 109), cg2 := .ofCode (field w 108 106)
          cg1 := .ofCode (field w 105 103), cg0 := .ofCode (field w 102 100)
          fmt := .ofCode (field w 90 88), mod := .ofNat 4 (field w 87 84)
          sa, sb, sc, dr
          om := .ofNat 4 (field w 61 58), ok
          dq := .ofNat 4 (field w 54 51)
          pd := .ofNat 3 (field w 50 48), pu := .ofCode (field w 47 46)
          sq := .ofCode (field w 45 44), ps := .ofNat 3 (field w 43 41)
          imm := .ofNat 32 (field w 31 0) }
    | none, _ => .error .reservedDest
    | _, none => .error .reservedKind
  | _, _, _ => .error .reservedSource

/-- The instruction of an opcode (R70); `none` for the unassigned values and for 0x000, the NOP that never fires (R33). -/
def Instr.ofOpcode (op : Nat) (w : SlotWord) : Option Instr :=
  match op with
  | 0x001 => some (.mov w)
  | 0x002 => some (.movi w)
  | 0x003 => some (.sel w)
  | 0x004 => some (.selk w)
  | 0x005 => some (.drop w)
  | 0x006 => some (.emit w)
  | 0x007 => some (.plog w)
  | 0x008 => some (.pset w)
  | 0x009 => some (.ptest w)
  | 0x00A => some (.lane w)
  | 0x00B => some (.shuf w)
  | 0x00C => some (.pack w)
  | 0x00D => some (.unpk w)
  | 0x00E => some (.gets w)
  | 0x00F => some (.tagf w)
  | 0x020 => some (.add w)
  | 0x021 => some (.sub w)
  | 0x022 => some (.addc w)
  | 0x023 => some (.subb w)
  | 0x024 => some (.mul w)
  | 0x025 => some (.mulh w)
  | 0x026 => some (.mad w)
  | 0x027 => some (.absd w)
  | 0x028 => some (.min w)
  | 0x029 => some (.max w)
  | 0x02A => some (.abs w)
  | 0x02B => some (.neg w)
  | 0x02C => some (.avg w)
  | 0x02D => some (.indx w)
  | 0x02E => some (.clamp w)
  | 0x02F => some (.dot4 w)
  | 0x030 => some (.and w)
  | 0x031 => some (.or w)
  | 0x032 => some (.xor w)
  | 0x033 => some (.andn w)
  | 0x034 => some (.orn w)
  | 0x035 => some (.not w)
  | 0x036 => some (.shl w)
  | 0x037 => some (.shr w)
  | 0x038 => some (.sar w)
  | 0x039 => some (.rol w)
  | 0x03A => some (.clz w)
  | 0x03B => some (.popc w)
  | 0x03C => some (.brev w)
  | 0x03D => some (.extr w)
  | 0x03E => some (.insr w)
  | 0x03F => some (.bsel w)
  | 0x040 => some (.cmpeq w)
  | 0x041 => some (.cmpne w)
  | 0x042 => some (.cmplt w)
  | 0x043 => some (.cmple w)
  | 0x044 => some (.cmpgt w)
  | 0x045 => some (.cmpge w)
  | 0x046 => some (.tstz w)
  | 0x050 => some (.cnt w)
  | 0x051 => some (.cnt2 w)
  | 0x052 => some (.step w)
  | 0x053 => some (.joink w)
  | 0x054 => some (.ordj w)
  | 0x060 => some (.fadd w)
  | 0x061 => some (.fsub w)
  | 0x062 => some (.fmul w)
  | 0x063 => some (.fma w)
  | 0x064 => some (.fnma w)
  | 0x065 => some (.fms w)
  | 0x066 => some (.fmin w)
  | 0x067 => some (.fmax w)
  | 0x068 => some (.fabs w)
  | 0x069 => some (.fneg w)
  | 0x06A => some (.fcmpeq w)
  | 0x06B => some (.fcmplt w)
  | 0x06C => some (.fcmple w)
  | 0x06D => some (.fcmpun w)
  | 0x06E => some (.fclass w)
  | 0x06F => some (.fscale w)
  | 0x070 => some (.frnd w)
  | 0x071 => some (.frcp w)
  | 0x072 => some (.frsq w)
  | 0x073 => some (.fsqrt w)
  | 0x074 => some (.fdiv w)
  | 0x075 => some (.fexp2 w)
  | 0x076 => some (.flog2 w)
  | 0x077 => some (.fsum w)
  | 0x078 => some (.fdot w)
  | 0x079 => some (.cvt w)
  | 0x07A => some (.ftoi w)
  | 0x07B => some (.itof w)
  | 0x07C => some (.sxpk w)
  | 0x07D => some (.sxup w)
  | 0x07E => some (.sxex w)
  | 0x07F => some (.fmaxa w)
  | 0x0A0 => some (.alloc w)
  | 0x0A1 => some (.seal w)
  | 0x0A2 => some (.release w)
  | 0x0A3 => some (.retain w)
  | 0x0A4 => some (.tld w)
  | 0x0A5 => some (.tst w)
  | 0x0A6 => some (.tldw w)
  | 0x0A7 => some (.tstw w)
  | 0x0A8 => some (.tzero w)
  | 0x0A9 => some (.tinfo w)
  | 0x0AA => some (.tpln w)
  | 0x0AB => some (.pool w)
  | 0x0AC => some (.acca w)
  | 0x0AD => some (.accf w)
  | 0x0C0 => some (.ld w)
  | 0x0C1 => some (.st w)
  | 0x0C2 => some (.lda w)
  | 0x0C3 => some (.stl w)
  | 0x0C4 => some (.ldt w)
  | 0x0C5 => some (.stt w)
  | 0x0C6 => some (.pref w)
  | 0x0C7 => some (.fence w)
  | 0x0C8 => some (.aadd w)
  | 0x0C9 => some (.amin w)
  | 0x0CA => some (.amax w)
  | 0x0CB => some (.aand w)
  | 0x0CC => some (.aor w)
  | 0x0CD => some (.axor w)
  | 0x0CE => some (.axchg w)
  | 0x0CF => some (.acas w)
  | 0x0D0 => some (.afadd w)
  | 0x0D1 => some (.red w)
  | 0x0D2 => some (.flush w)
  | 0x0D3 => some (.invl w)
  | 0x0E0 => some (.mma w)
  | 0x0E1 => some (.mmaz w)
  | 0x0E2 => some (.accrd w)
  | 0x0E3 => some (.accrdn w)
  | 0x0E4 => some (.accwr w)
  | 0x0E5 => some (.accz w)
  | 0x0E6 => some (.acccv w)
  | 0x0E7 => some (.mtcfg w)
  | 0x100 => some (.copy w)
  | 0x101 => some (.gath w)
  | 0x102 => some (.scat w)
  | 0x103 => some (.xcol w)
  | 0x104 => some (.engq w)
  | 0x105 => some (.spawn w)
  | 0x106 => some (.taskd w)
  | 0x107 => some (.synca w)
  | 0x108 => some (.synci w)
  | 0x120 => some (.exit w)
  | 0x121 => some (.exit2 w)
  | 0x122 => some (.exits w)
  | 0x123 => some (.done w)
  | 0x124 => some (.safe w)
  | 0x125 => some (.trap w)
  | 0x180 => some (.sysrd w)
  | 0x181 => some (.syswr w)
  | 0x182 => some (.rsplit w)
  | 0x183 => some (.rmerge w)
  | 0x184 => some (.rinv w)
  | 0x185 => some (.rdisc w)
  | 0x186 => some (.rmove w)
  | 0x187 => some (.rprobe w)
  | 0x188 => some (.rwin w)
  | 0x189 => some (.cfgld w)
  | 0x18A => some (.cfginv w)
  | 0x18B => some (.eret w)
  | 0x18C => some (.tracew w)
  | 0x18D => some (.freeze w)
  | 0x18E => some (.thaw w)
  | _ => none

/-- The opcode and the word fields of a slot instruction (R70); an event has none. -/
def Instr.opcode (i : Instr) : Option (Nat × SlotWord) :=
  match i with
  | .mov w => some (0x001, w)
  | .movi w => some (0x002, w)
  | .sel w => some (0x003, w)
  | .selk w => some (0x004, w)
  | .drop w => some (0x005, w)
  | .emit w => some (0x006, w)
  | .plog w => some (0x007, w)
  | .pset w => some (0x008, w)
  | .ptest w => some (0x009, w)
  | .lane w => some (0x00A, w)
  | .shuf w => some (0x00B, w)
  | .pack w => some (0x00C, w)
  | .unpk w => some (0x00D, w)
  | .gets w => some (0x00E, w)
  | .tagf w => some (0x00F, w)
  | .add w => some (0x020, w)
  | .sub w => some (0x021, w)
  | .addc w => some (0x022, w)
  | .subb w => some (0x023, w)
  | .mul w => some (0x024, w)
  | .mulh w => some (0x025, w)
  | .mad w => some (0x026, w)
  | .absd w => some (0x027, w)
  | .min w => some (0x028, w)
  | .max w => some (0x029, w)
  | .abs w => some (0x02A, w)
  | .neg w => some (0x02B, w)
  | .avg w => some (0x02C, w)
  | .indx w => some (0x02D, w)
  | .clamp w => some (0x02E, w)
  | .dot4 w => some (0x02F, w)
  | .and w => some (0x030, w)
  | .or w => some (0x031, w)
  | .xor w => some (0x032, w)
  | .andn w => some (0x033, w)
  | .orn w => some (0x034, w)
  | .not w => some (0x035, w)
  | .shl w => some (0x036, w)
  | .shr w => some (0x037, w)
  | .sar w => some (0x038, w)
  | .rol w => some (0x039, w)
  | .clz w => some (0x03A, w)
  | .popc w => some (0x03B, w)
  | .brev w => some (0x03C, w)
  | .extr w => some (0x03D, w)
  | .insr w => some (0x03E, w)
  | .bsel w => some (0x03F, w)
  | .cmpeq w => some (0x040, w)
  | .cmpne w => some (0x041, w)
  | .cmplt w => some (0x042, w)
  | .cmple w => some (0x043, w)
  | .cmpgt w => some (0x044, w)
  | .cmpge w => some (0x045, w)
  | .tstz w => some (0x046, w)
  | .cnt w => some (0x050, w)
  | .cnt2 w => some (0x051, w)
  | .step w => some (0x052, w)
  | .joink w => some (0x053, w)
  | .ordj w => some (0x054, w)
  | .fadd w => some (0x060, w)
  | .fsub w => some (0x061, w)
  | .fmul w => some (0x062, w)
  | .fma w => some (0x063, w)
  | .fnma w => some (0x064, w)
  | .fms w => some (0x065, w)
  | .fmin w => some (0x066, w)
  | .fmax w => some (0x067, w)
  | .fabs w => some (0x068, w)
  | .fneg w => some (0x069, w)
  | .fcmpeq w => some (0x06A, w)
  | .fcmplt w => some (0x06B, w)
  | .fcmple w => some (0x06C, w)
  | .fcmpun w => some (0x06D, w)
  | .fclass w => some (0x06E, w)
  | .fscale w => some (0x06F, w)
  | .frnd w => some (0x070, w)
  | .frcp w => some (0x071, w)
  | .frsq w => some (0x072, w)
  | .fsqrt w => some (0x073, w)
  | .fdiv w => some (0x074, w)
  | .fexp2 w => some (0x075, w)
  | .flog2 w => some (0x076, w)
  | .fsum w => some (0x077, w)
  | .fdot w => some (0x078, w)
  | .fmaxa w => some (0x07F, w)
  | .cvt w => some (0x079, w)
  | .ftoi w => some (0x07A, w)
  | .itof w => some (0x07B, w)
  | .sxpk w => some (0x07C, w)
  | .sxup w => some (0x07D, w)
  | .sxex w => some (0x07E, w)
  | .alloc w => some (0x0A0, w)
  | .seal w => some (0x0A1, w)
  | .release w => some (0x0A2, w)
  | .retain w => some (0x0A3, w)
  | .tld w => some (0x0A4, w)
  | .tst w => some (0x0A5, w)
  | .tldw w => some (0x0A6, w)
  | .tstw w => some (0x0A7, w)
  | .tzero w => some (0x0A8, w)
  | .tinfo w => some (0x0A9, w)
  | .tpln w => some (0x0AA, w)
  | .pool w => some (0x0AB, w)
  | .acca w => some (0x0AC, w)
  | .accf w => some (0x0AD, w)
  | .ld w => some (0x0C0, w)
  | .ldt w => some (0x0C4, w)
  | .lda w => some (0x0C2, w)
  | .st w => some (0x0C1, w)
  | .stt w => some (0x0C5, w)
  | .stl w => some (0x0C3, w)
  | .pref w => some (0x0C6, w)
  | .fence w => some (0x0C7, w)
  | .aadd w => some (0x0C8, w)
  | .amin w => some (0x0C9, w)
  | .amax w => some (0x0CA, w)
  | .aand w => some (0x0CB, w)
  | .aor w => some (0x0CC, w)
  | .axor w => some (0x0CD, w)
  | .axchg w => some (0x0CE, w)
  | .acas w => some (0x0CF, w)
  | .afadd w => some (0x0D0, w)
  | .red w => some (0x0D1, w)
  | .flush w => some (0x0D2, w)
  | .invl w => some (0x0D3, w)
  | .mma w => some (0x0E0, w)
  | .mmaz w => some (0x0E1, w)
  | .accrd w => some (0x0E2, w)
  | .accrdn w => some (0x0E3, w)
  | .accwr w => some (0x0E4, w)
  | .accz w => some (0x0E5, w)
  | .acccv w => some (0x0E6, w)
  | .mtcfg w => some (0x0E7, w)
  | .copy w => some (0x100, w)
  | .gath w => some (0x101, w)
  | .scat w => some (0x102, w)
  | .xcol w => some (0x103, w)
  | .engq w => some (0x104, w)
  | .spawn w => some (0x105, w)
  | .taskd w => some (0x106, w)
  | .synca w => some (0x107, w)
  | .synci w => some (0x108, w)
  | .exit w => some (0x120, w)
  | .exit2 w => some (0x121, w)
  | .exits w => some (0x122, w)
  | .done w => some (0x123, w)
  | .safe w => some (0x124, w)
  | .trap w => some (0x125, w)
  | .sysrd w => some (0x180, w)
  | .syswr w => some (0x181, w)
  | .rsplit w => some (0x182, w)
  | .rmerge w => some (0x183, w)
  | .rinv w => some (0x184, w)
  | .rdisc w => some (0x185, w)
  | .rmove w => some (0x186, w)
  | .rprobe w => some (0x187, w)
  | .rwin w => some (0x188, w)
  | .cfgld w => some (0x189, w)
  | .cfginv w => some (0x18A, w)
  | .eret w => some (0x18B, w)
  | .tracew w => some (0x18C, w)
  | .freeze w => some (0x18D, w)
  | .thaw w => some (0x18E, w)
  | _ => none

/-- The latency of the opcode map (R69, R70). TZERO's is 6 + ⌈g/32⌉, of which this is the constant part; SXPK and ACCCV
place a second token one cycle later. -/
def Instr.latency (i : Instr) : Latency :=
  match i with
  | .mov _ | .movi _ | .sel _ | .selk _ | .emit _ | .plog _ => .num 1
  | .pset _ | .ptest _ | .lane _ | .shuf _ | .gets _ | .tagf _ => .num 1
  | .add _ | .sub _ | .addc _ | .subb _ | .absd _ | .min _ => .num 1
  | .max _ | .abs _ | .neg _ | .avg _ | .indx _ | .clamp _ => .num 1
  | .and _ | .or _ | .xor _ | .andn _ | .orn _ | .not _ => .num 1
  | .shl _ | .shr _ | .sar _ | .rol _ | .clz _ | .popc _ => .num 1
  | .brev _ | .extr _ | .insr _ | .bsel _ | .cmpeq _ | .cmpne _ => .num 1
  | .cmplt _ | .cmple _ | .cmpgt _ | .cmpge _ | .tstz _ | .cnt _ => .num 1
  | .cnt2 _ | .step _ | .joink _ | .ordj _ | .fabs _ | .fneg _ => .num 1
  | .fclass _ => .num 1
  | .drop _ | .pref _ | .copy _ | .gath _ | .scat _ | .xcol _ => .none
  | .synca _ | .synci _ | .exit _ | .exit2 _ | .exits _ | .done _ => .none
  | .safe _ | .trap _ | .eret _ => .none
  | .pack _ | .unpk _ | .fmin _ | .fmax _ | .fcmpeq _ | .fcmplt _ => .num 2
  | .fcmple _ | .fcmpun _ | .fscale _ | .frnd _ | .fmaxa _ | .cvt _ => .num 2
  | .ftoi _ | .itof _ | .sxup _ | .sxex _ | .seal _ | .release _ => .num 2
  | .retain _ | .tinfo _ | .pool _ | .accf _ | .st _ | .stt _ => .num 2
  | .red _ | .mtcfg _ | .tracew _ => .num 2
  | .mul _ | .mulh _ | .mad _ | .dot4 _ => .num 3
  | .fadd _ | .fsub _ | .fmul _ | .fma _ | .fnma _ | .fms _ => .num 4
  | .alloc _ | .acca _ | .accz _ | .engq _ | .cfginv _ => .num 4
  | .frcp _ | .frsq _ | .accrd _ | .accrdn _ | .accwr _ | .spawn _ => .num 8
  | .taskd _ => .num 8
  | .fsqrt _ | .fdiv _ => .num 14
  | .fexp2 _ | .flog2 _ | .acccv _ => .num 10
  | .fsum _ | .fdot _ | .sxpk _ | .tld _ | .tst _ | .tldw _ => .num 6
  | .tstw _ | .tzero _ | .tpln _ => .num 6
  | .ld _ | .ldt _ | .lda _ | .stl _ | .fence _ | .aadd _ => .var
  | .amin _ | .amax _ | .aand _ | .aor _ | .axor _ | .axchg _ => .var
  | .acas _ | .afadd _ | .flush _ | .invl _ | .sysrd _ | .syswr _ => .var
  | .rsplit _ | .rmerge _ | .rinv _ | .rdisc _ | .rmove _ | .rprobe _ => .var
  | .rwin _ | .cfgld _ | .freeze _ | .thaw _ => .var
  | .mma _ | .mmaz _ => .num 40
  | _ => .none

/-- The instruction of a site word, or the name of what is wrong with it. -/
def decodeWord (w : SiteWord) : Except DecodeErr Instr :=
  if w = 0 then .error .nop
  else if field w 99 91 = 0 then .error .badNop
  else match decodeFields w with
  | .error e => .error e
  | .ok f => match Instr.ofOpcode (field w 99 91) f with
    | some i => .ok i
    | none => .error .unassigned

/-- A site word from its opcode and fields (R53). -/
def encodeFields (op : Nat) (f : SlotWord) : SiteWord :=
  .ofNat 128
    (f.imm.toNat + f.ps.toNat * 2 ^ 41 + f.sq.code * 2 ^ 44 + f.pu.code * 2 ^ 46 + f.pd.toNat * 2 ^ 48
      + f.dq.toNat * 2 ^ 51 + f.ok.code * 2 ^ 55 + f.om.toNat * 2 ^ 58 + drCode f.dr * 2 ^ 62
      + f.sc.code * 2 ^ 66 + f.sb.code * 2 ^ 72 + f.sa.code * 2 ^ 78 + f.mod.toNat * 2 ^ 84
      + f.fmt.code * 2 ^ 88 + op * 2 ^ 91 + f.cg0.code * 2 ^ 100 + f.cg1.code * 2 ^ 103
      + f.cg2.code * 2 ^ 106 + f.cg3.code * 2 ^ 109 + f.pv.toNat * 2 ^ 112 + f.pm.toNat * 2 ^ 120)

/-- The word of a slot instruction; an event has none. -/
def encode (i : Instr) : Option SiteWord := i.opcode.map fun p => encodeFields p.1 p.2

/-- Little-endian bytes of a word, lowest address first (R3, R53). -/
def wordBytes (w : SiteWord) : Bytes := (List.range 16).map fun k => .ofNat 8 (field w (8 * k + 7) (8 * k))

/-- The instruction the decoder reads from `nbits` bits numbered as the opcode table numbers them; the bits above are zero. -/
def decodeTableWord (nbits w : Nat) : Option Instr :=
  match decodeWord (.ofNat 128 (w % 2 ^ nbits)) with
  | .ok i => some i
  | .error _ => none

end Sys2Proof
end

