-- ==== Sys2Proof/Machine/Map.lean ====
section
/-! DEFINITION. Sparse tables, bit fields and little-endian bytes (R3). -/

namespace Sys2Proof.Machine

/-- The entry of a table, or the table's default. -/
def tblGet {α : Type} (d : α) (t : Tbl α) (k : Nat) : α :=
  match t with
  | [] => d
  | (j, x) :: r => if j = k then x else tblGet d r k

/-- The table with one entry written; entries stay in rising order of number. -/
def tblSet {α : Type} (t : Tbl α) (k : Nat) (v : α) : Tbl α :=
  match t with
  | [] => [(k, v)]
  | (j, x) :: r => if j = k then (k, v) :: r else if k < j then (k, v) :: (j, x) :: r else (j, x) :: tblSet r k v

/-- The table without one entry. -/
def tblDel {α : Type} (t : Tbl α) (k : Nat) : Tbl α := t.filter fun p => p.1 != k

/-- Whether a table lists an entry. -/
def tblHas {α : Type} (t : Tbl α) (k : Nat) : Bool := t.any fun p => p.1 == k

/-- Every entry changed by a function of its number. -/
def tblMap {α : Type} (t : Tbl α) (f : Nat → α → α) : Tbl α := t.map fun p => (p.1, f p.1 p.2)

/-- Bits [hi:lo] of a number (R6). -/
def bits (n hi lo : Nat) : Nat := n / 2 ^ lo % 2 ^ (hi + 1 - lo)

/-- Bits [hi:lo] of a number replaced by the low bits of another. -/
def setBits (n hi lo v : Nat) : Nat :=
  n / 2 ^ (hi + 1) * 2 ^ (hi + 1) + v % 2 ^ (hi + 1 - lo) * 2 ^ lo + n % 2 ^ lo

/-- One bit of a number. -/
def bit (n k : Nat) : Bool := n / 2 ^ k % 2 == 1

/-- sext(x, w) of R7. -/
def sext (x w : Nat) : Int := if bit x (w - 1) && 0 < w then (x % 2 ^ w : Nat) - (2 ^ w : Nat) else ((x % 2 ^ w : Nat) : Int)

/-- wrap(x, w) of R7. -/
def wrap (x : Int) (w : Nat) : Nat := (x % (2 ^ w : Nat)).toNat

/-- sats(x, w) of R7. -/
def sats (x : Int) (w : Nat) : Nat := wrap (max (-(2 ^ (w - 1) : Nat)) (min x ((2 ^ (w - 1) : Nat) - 1))) w

/-- satn(x, w) of R7. -/
def satn (x : Int) (w : Nat) : Nat := wrap (max 0 (min x ((2 ^ w : Nat) - 1))) w

/-- Little-endian bytes of a number, lowest address first (R3). -/
def leBytes (n k : Nat) : Bytes :=
  match k with
  | 0 => []
  | k + 1 => .ofNat 8 (n % 256) :: leBytes (n / 256) k

/-- The number of a little-endian sequence of bytes (R3). -/
def leNat (bs : Bytes) : Nat :=
  match bs with
  | [] => 0
  | b :: r => b.toNat + 256 * leNat r

/-- A counter that saturates at w ones (R89). -/
def satAdd (n k w : Nat) : Nat := min (n + k) (2 ^ w - 1)

/-- The first element of a list that meets a test, with its place. -/
def findIdx {α : Type} (l : List α) (p : α → Bool) (start : Nat := 0) : Option (Nat × α) :=
  match l with
  | [] => none
  | x :: r => if p x then some (start, x) else findIdx r p (start + 1)

/-- A list with the element at a place replaced. -/
def setAt {α : Type} (l : List α) (k : Nat) (x : α) : List α :=
  match l, k with
  | [], _ => []
  | _ :: r, 0 => x :: r
  | y :: r, k + 1 => y :: setAt r k x

/-- A list without the element at a place. -/
def dropAt {α : Type} (l : List α) (k : Nat) : List α :=
  match l, k with
  | [], _ => []
  | _ :: r, 0 => r
  | y :: r, k + 1 => y :: dropAt r k

end Sys2Proof.Machine
end

