-- ==== Sys2Proof/Machine/State.lean ====
section
/-! DEFINITION. The state of the device as plain data: everything the spec gives it (INVENTORY.md, State), and the few
fields the model keeps for itself (agenda, turnNo, freeNo, loc, endPhase; log 1, 2, 4). -/

namespace Sys2Proof.Machine

/-- Why the machine stops. -/
inductive Fault where
  /-- Raised by no definition of the model: every exception of the spec is taken, so it is a next state, and every access of physical
  memory is checked before it is made (R94, R95). It is there because the interface asks for a fault type. Safe: nothing stops. -/
  | stopped
  deriving DecidableEq, Repr

/-- Why an instruction has no meaning. -/
inductive Refusal where
  /-- Raised by an arm of `exec` that has no meaning yet. Safe: nothing is claimed of it. -/
  | notModelled (mnemonic : String)
  deriving DecidableEq, Repr

/-! ### Fabric (R196 to R207) -/

/-- A 128-bit value and the residues of its four 32-bit lanes (R210). -/
structure Val where
  bits : Payload
  res  : BitVec 8
  deriving DecidableEq, Repr

/-- A token (R197). -/
structure Token where
  val  : Val
  kind : Kind
  tag  : Fmt
  ctx  : Nat
  tid  : Nat
  deriving DecidableEq, Repr

/-- A buffer entry: the token, the first cycle in which it can be a head, and the cycle at whose end it has left. -/
structure BufEntry where
  tok   : Token
  since : Nat
  gone  : Option Nat
  deriving DecidableEq, Repr

/-- A beat of 128 bytes in a wide buffer (R250). -/
structure Beat where
  data  : Bytes
  ctx   : Nat
  tid   : Nat
  since : Nat
  gone  : Option Nat
  deriving DecidableEq, Repr

/-- A scale latch that is valid (R234). -/
structure Latch where
  e   : Nat
  d   : Nat
  tid : Nat
  deriving DecidableEq, Repr

/-- Counter state (R255), with the slot and thread of the pass in progress. -/
structure Counter where
  n      : Nat
  m      : Nat
  pn     : Nat
  pm     : Nat
  pendM  : Bool
  j      : Nat
  i      : Nat
  active : Bool
  pend   : Bool
  slot   : Nat
  tid    : Nat
  sn     : Nat
  sm     : Nat
  deriving DecidableEq, Repr

/-- A counter after its context is loaded (R255). -/
def Counter.zero : Counter :=
  { n := 0, m := 0, pn := 0, pm := 0, pendM := false, j := 0, i := 0, active := false, pend := false, slot := 0, tid := 0,
    sn := 0, sm := 0 }

/-- A JOINK count: heads counted and the thread of the last (R348). -/
structure Join where
  count : Nat
  tid   : Nat
  deriving DecidableEq, Repr

/-- One context of one site (R196). `stall` is, for a slot, what it last waited for: 0 and a missing head, or 1 and an output
without room (R392). -/
structure SiteCtx where
  words : Tbl SiteWord
  route : BitVec 64
  dreg  : Tbl Val
  preds : BitVec 8
  entry : Tbl (List BufEntry)
  emit  : Tbl (Nat × Nat)
  cnt   : Counter
  join  : Tbl Join
  latch : Tbl Latch
  mtsrc : Option (Nat × Nat)
  stall : Tbl (Nat × Nat)
  deriving DecidableEq, Repr

/-- A context that holds nothing (R53, R57, R35). -/
def SiteCtx.empty : SiteCtx :=
  { words := [], route := 0, dreg := [], preds := 0, entry := [], emit := [], cnt := Counter.zero, join := [], latch := [],
    mtsrc := none, stall := [] }

/-- A result in flight (R201, R204): the cycle at whose end it is placed, or none while a result of variable latency is
not yet known; the outputs, the token, the register and the flags it sets; and the entries it reserves. -/
structure Flight where
  slot  : Nat
  ctx   : Nat
  tid   : Nat
  due   : Option Nat
  ready : Bool
  key   : Nat
  om    : BitVec 4
  tok   : Token
  dr    : Option (Fin 8)
  room  : Bool
  flags : BitVec 5
  deriving DecidableEq, Repr

/-- A site: its link buffers by direction (0 north, 1 east, 2 south, 3 west), its contexts, its results in flight, the
cycle of its last firing, its wide buffer, its plane array and the last firing of each slot (R392). -/
structure Site where
  bufs   : Tbl (List BufEntry)
  ctxs   : Tbl SiteCtx
  flight : List Flight
  fired  : Option Nat
  wb     : List Beat
  busy   : Nat
  lastMma : Option Nat
  starts : Tbl Nat
  bound  : List BufEntry
  deriving DecidableEq, Repr

/-- A site after core reset (R396). -/
def Site.empty : Site :=
  { bufs := [], ctxs := [], flight := [], fired := none, wb := [], busy := 0, lastMma := none, starts := [], bound := [] }

/-! ### Blocks and threads (R305 to R323, R356 to R366) -/

/-- A block of a graph. -/
structure BlockRef where
  graph : Nat
  block : Nat
  deriving DecidableEq, Repr

/-- A route entry (R62). -/
structure RouteEntry where
  site : Nat
  kind : Nat
  ch   : Nat
  slot : Nat
  deriving DecidableEq, Repr

/-- An item of a safe-point descriptor (R63). -/
structure SafeItem where
  type  : Nat
  site  : Nat
  index : Nat
  deriving DecidableEq, Repr

/-- A safe-point descriptor (R63). -/
structure SafeDesc where
  k      : Nat
  site   : Nat
  rin    : Nat
  stub   : Option Nat
  lvmask : BitVec 32
  items  : List SafeItem
  deriving DecidableEq, Repr

/-- Where a thread goes back to (R364): a block and a safe point of it, or its entry. -/
structure Resume where
  blk : BlockRef
  k   : Option Nat
  deriving DecidableEq, Repr

/-- A source-table node of an image (R60): for a site and slot, the node and the loop index. -/
structure NodeRef where
  site : Nat
  slot : Nat
  node : Nat
  loop : Nat
  deriving DecidableEq, Repr

/-- A context of the core: the block it holds and what the image says of it (R61, R308); `loadEnd` is the cycle in which the validation
of a load completes (R307), and `reading` until the directory entry and the image's first line have come; `fresh` until a thread is injected
into it (R366), `cfgOnly` while only a CFGLD has demanded it, and `refusal` what its validation has found (code, site, slot). -/
structure Ctx where
  blk      : BlockRef
  validFrom : Option Nat
  loading  : Bool
  reading  : Bool
  loadEnd  : Nat
  stamp    : Nat
  priv     : Bool
  stub     : Bool
  ii       : Nat
  maxsafe  : Nat
  commit   : Nat
  livein   : BitVec 32
  liveout  : BitVec 32
  routes   : List RouteEntry
  safes    : List SafeDesc
  sites    : List Nat
  nodes    : List NodeRef
  pinned   : Bool
  stale    : Bool
  lastAct  : Nat
  fresh    : Bool
  cfgOnly  : Bool
  refusal  : Option (Nat × Nat × Nat)
  deriving DecidableEq, Repr

/-- A context that holds no block (R396). -/
def Ctx.empty : Ctx :=
  { blk := ⟨0, 0⟩, validFrom := none, loading := false, reading := false, loadEnd := 0, stamp := 0, priv := false, stub := false, ii := 1, maxsafe := 1,
    commit := 0, livein := 0, liveout := 0, routes := [], safes := [], sites := [], nodes := [], pinned := false,
    stale := false, lastAct := 0, fresh := false, cfgOnly := false, refusal := none }

/-- A fault record (R359). -/
structure FaultRec where
  code    : Nat
  persist : Bool
  engine  : Bool
  write   : Bool
  irrev   : Bool
  num     : Nat
  space   : Nat
  block   : Nat
  site    : Nat
  slot    : Nat
  ctx     : Nat
  tid     : Nat
  addr    : Nat
  detail  : Nat
  data    : Payload
  region  : Nat
  ridx    : Nat
  deriving DecidableEq, Repr

/-- A record that names nothing but a code. -/
def FaultRec.zero : FaultRec :=
  { code := 0, persist := false, engine := false, write := false, irrev := false, num := 0, space := 0, block := 0, site := 0,
    slot := 0, ctx := 0, tid := 0, addr := 0, detail := 0, data := 0, region := 0, ridx := 0 }

/-- A commit-area entry (R139); `signed` is the type of a reduction (R154), `id` matches the entry with its
acknowledgement, `node` is the source node of the slot that entered it (R391), `held` marks an STL's own entry, which has its room
but has not entered the area yet (R147, R271), `go` that a commit has let the entry go (R141), and `vas` are the
virtual addresses of the word through which it was entered (R102). -/
structure AreaEntry where
  oper  : Nat
  scope : Nat
  signed : Bool
  sent  : Bool
  mask  : BitVec 16
  pwa   : Nat
  data  : Payload
  id    : Nat
  node  : Nat
  held  : Bool
  go    : Bool
  vas   : List Nat
  deriving DecidableEq, Repr

/-- States of a thread (R311). -/
inductive ThreadState where
  | waiting | gated | inBlock | parked | retired
  deriving DecidableEq, Repr

/-- A gate (R321): the sync entry, the phase once its home has recorded it, and whether it has. -/
structure Gate where
  sync  : Nat
  phase : Nat
  known : Bool
  deriving DecidableEq, Repr

/-- What an exit does when its commit completes (R320). -/
inductive ExitAct where
  | done
  | next (block : Nat)
  | gated (block sync phase : Nat)
  | stubEnd
  deriving DecidableEq, Repr

/-- A live-value slot (R310). -/
structure Slot where
  val : Val
  tag : Fmt
  deriving DecidableEq, Repr

/-- How far the resumption of R366 has come. -/
inductive ResumeStep where
  | none | stub | main
  deriving DecidableEq, Repr

/-- A thread of the core. Of its commit area (R138), `runs` are the granules of its block, `grown` those it grew by, `past` those of blocks
it has left, each with the number past the last entry that may stand in them, and `from_` the number from which entries stand in its
block's. `parkHead` is the site, context and input of the head that a SAFE or TRAP holds (R372), `hblk` the handler block that a
handler was entered at (R360), `owed` a fault to be delivered after resumption (R372), and `inVec` that a thread parked by a freeze keeps its
bit in its block's vector (R375). -/
structure Thread where
  st      : ThreadState
  blk     : BlockRef
  ctx     : Nat
  resume  : Resume
  token   : Slot
  rstep   : ResumeStep
  stubOut : BitVec 32
  items   : List (SafeItem × Nat)
  slots   : Tbl Slot
  record  : Option FaultRec
  handler : Bool
  hblk    : BlockRef
  owed    : Option FaultRec
  inVec   : Bool
  activation : Option Nat
  area    : List AreaEntry
  runs    : List (Nat × Nat)
  grown   : List (Nat × Nat)
  past    : List (Nat × Nat × Nat)
  from_   : Nat
  shrink  : Bool
  commitHeld : Bool
  irrev   : Bool
  safeAt  : Nat
  wakeAt  : Nat
  gate    : Option Gate
  hold    : Bool
  moving  : Bool
  movedVa : Nat
  revoked : Bool
  exiting : Option (ExitAct × Nat)
  pending : Option FaultRec
  parkAt  : Option Nat
  parkHead : Option (Nat × Nat × Nat)
  allocAt : Option (Nat × Nat × Nat)
  deriving DecidableEq, Repr

/-- A thread id that no thread uses. -/
def Thread.none : Thread :=
  { st := .retired, blk := ⟨0, 0⟩, ctx := 0, resume := ⟨⟨0, 0⟩, .none⟩, token := ⟨⟨0, 0⟩, .raw⟩, rstep := .none, stubOut := 0, items := [],
    slots := [], record := .none, handler := false, hblk := ⟨0, 0⟩, owed := .none, inVec := false, activation := .none, area := [], runs := [], grown := [], past := [], from_ := 0, shrink := false,
    commitHeld := false,
    irrev := false, safeAt := 0, wakeAt := 0, gate := .none, hold := false, moving := false, movedVa := 0, revoked := false,
    exiting := .none, pending := .none, parkAt := .none, parkHead := .none, allocAt := .none }

/-! ### Tiles and allocation (R167 to R194) -/

/-- Tile states (R170). -/
inductive TileState where
  | empty | filling | ready | draining
  deriving DecidableEq, Repr

/-- A tile table entry (R170). PIN is computed (R181); `pinTo` is the cycle to which a narrow or wide read or a move by
compaction holds it. -/
structure Tile where
  space  : Nat
  gen    : Nat
  pool   : Nat
  owner  : Nat
  cons   : Nat
  layout : Nat
  state  : TileState
  wout   : Bool
  size   : Nat
  base   : Nat
  pinTo  : Nat
  deriving DecidableEq, Repr

/-- An entry after core reset (R170). -/
def Tile.empty : Tile :=
  { space := 0, gen := 0, pool := 0, owner := 0, cons := 0, layout := 0, state := .empty, wout := false, size := 0, base := 0,
    pinTo := 0 }

/-- A pool (R175, R194). -/
structure Pool where
  base    : Nat
  size    : Nat
  reserve : Nat
  deriving DecidableEq, Repr

/-- Who asks the allocator (R178, R266). -/
inductive ReqKind where
  | alloc (site ctx slot layout : Nat)
  | acca (site ctx slot : Nat)
  | commit
  | grow (site ctx slot : Nat)
  | journal (bank site slot : Nat)
  deriving DecidableEq, Repr

/-- A request in the waiting list: pool 0 to 15, or 16 for accumulator banks. -/
structure Req where
  kind : ReqKind
  tid  : Nat
  pool : Nat
  size : Nat
  at_  : Nat
  deriving DecidableEq, Repr

/-- A grant held for a slot until it fires (R179): a tile handle's index, or the first bank. -/
structure Grant where
  kind : ReqKind
  tid  : Nat
  num  : Nat
  deriving DecidableEq, Repr

/-- A compaction in progress (R181). -/
structure Compaction where
  pool : Nat
  ends : Nat
  moves : List (Nat × Nat)
  deriving DecidableEq, Repr

/-- A tile write on its way (R184): at the end of cycle `due`, bytes from a logical offset. -/
structure TileWrite where
  due  : Nat
  tile : Nat
  off  : Nat
  data : Bytes
  tid  : Nat
  deriving DecidableEq, Repr

/-- A beat on its way (R250). -/
structure WideSend where
  due   : Nat
  src   : Nat
  dests : List Nat
  beat  : Beat
  deriving DecidableEq, Repr

/-! ### Engines (R155 to R165, R296 to R302) -/

/-- A footprint region after its checks (R156). -/
structure Region where
  base : Nat
  tile : Bool
  w    : Bool
  len  : Nat
  deriving DecidableEq, Repr

/-- RMOVE's copy (R110): the old and the new span of a range of `len` bytes, and the resident window that is copied, `n` bytes from `off`. -/
structure MoveCopy where
  src : Nat
  dst : Nat
  len : Nat
  off : Nat
  n   : Nat
  deriving DecidableEq, Repr

/-- An engine message or job (R155 to R164). `queue` names its engine: 4k + e for engine e of core k (0 and 1 copy, 2
gather/scatter), 1536 + 2d + e for a collective engine of die d. `core` is the sending core, `task` the task it belongs to, `moved`
that its bytes are moved, `begun` that the engine has started it, `waits` the STORE packets it has sent and that are not acknowledged (number,
virtual address and physical address; R163), `attached` that it is its tile's write-out, `cb` the control block a collective job has read, `arrived` that it has arrived at its occurrence,
`got` the bytes read of its source so far (R27), `scat` whether SCAT, or else GATH, has sent it (none where neither has; R157),
`target` the device and die that RGET's or RPUT's names (R301), `flags` what it raises at its completion, and `move` RMOVE's copy. -/
structure Job where
  msg    : Bytes
  opc    : Nat
  queue  : Nat
  core   : Nat
  space  : Nat
  priv   : Bool
  tid    : Nat
  block  : Nat
  graph  : Nat
  task   : Option Nat
  map    : List MapEntry
  held   : Bool
  revoked : Bool
  transit : Bool
  frozen  : Bool
  begun  : Bool
  moved  : Bool
  waits  : List (Nat × Nat × Nat)
  attached : Bool
  cb     : Bytes
  arrived : Bool
  got    : Bytes
  scat   : Option Bool
  target : Option (Nat × Nat)
  flags  : BitVec 5
  seq    : Nat
  scope  : Nat
  move   : Option MoveCopy
  deriving DecidableEq, Repr

/-- Why a core is being pre-empted (R371). -/
inductive PreemptFor where
  | distributor
  | hold (task : Nat)
  deriving DecidableEq, Repr

/-- What takes effect at the end of the cycle in which it was fired (R158, R184, R192, R263, R320, R343, R372): a seal, a release or a
retain of a tile, a write of a bank's word or of all of it, a message to an engine, the values that POOL and ENGQ report, what an exit leaves
behind (with the sync entry of an EXITS), and a pre-emption. -/
inductive EndOp where
  | seal (tile n : Nat)
  | release (tile : Nat)
  | retain (tile : Nat)
  | word (bank w : Nat) (v : Payload)
  | zero (bank : Nat)
  | send (job : Job)
  | pool (site slot k : Nat)
  | engines (site slot q : Nat)
  | exit (tid ctx : Nat) (done : Bool) (gate : Option Nat)
  | preempt (f : PreemptFor)
  deriving DecidableEq, Repr

/-- An accumulator bank (R262): word w holds elements 4w to 4w + 3. -/
structure Bank where
  words   : Tbl Payload
  holder  : Option Nat
  first   : Nat
  count   : Nat
  journal : Option (Tbl Payload)
  jrun    : Option (Nat × Nat)
  grantFrom : Nat
  deriving DecidableEq, Repr

/-- A bank after core reset (R396). -/
def Bank.empty : Bank :=
  { words := [], holder := none, first := 0, count := 0, journal := none, jrun := none, grantFrom := 0 }

/-- A chunk in flight (R259): results are exact and rounded once when it fires; they are added when it completes. `reads` is the cycle in
which its last slab is read (R261). -/
structure Chunk where
  site  : Nat
  fired : Nat
  due   : Nat
  reads : Nat
  bank  : Nat
  zero  : Bool
  tile  : Nat
  tid   : Nat
  q     : List (BitVec 32)
  flags : BitVec 5
  deriving DecidableEq, Repr

/-! ### Memory, caches and crossbar (R25, R84, R113 to R130) -/

/-- Main memory: HBM bytes by physical address, addresses strictly rising, none equal to what an unlisted address reads as. -/
abbrev Memory := List Host.Cell

/-- What an HBM byte that nothing has written reads as (R10, R412; log 5). -/
def Memory.unlisted : Byte := 0

/-- The canonical form of memory. -/
def Memory.wf : Memory → Bool
  | [] => true
  | [c] => c.2 != Memory.unlisted
  | c :: d :: r => c.2 != Memory.unlisted && decide (c.1 < d.1) && Memory.wf (d :: r)

/-- States of a copy (R118). -/
inductive CopyState where
  | i | s | e | m | o
  deriving DecidableEq, Repr

/-- Packets of the crossbar and of the links between dies (R113, R120 to R129). -/
inductive PktKind where
  | gets | getx | store | red (op : Nat) | wb | evn | disc | ownerData | invAck
  | loadReply | storeAck | grant | error | inval | recall | ask
  deriving DecidableEq, Repr

/-- A packet. `src` is the core (0 to 383) or 384 + the die it comes from; `dst` likewise for a reply. `id` is the access or
commit entry it belongs to, `keep` that the sender keeps a shared copy, `dirty` that the line it carries is dirty,
`hasData` that it carries one, `poison` marks the 16-byte words it carries as uncorrectable (R86), and `came` is the cycle in which a packet
for a core reached it (R124). -/
structure Pkt where
  kind    : PktKind
  line    : Nat
  src     : Nat
  dst     : Nat
  tid     : Nat
  id      : Nat
  word    : Nat
  mask    : BitVec 16
  data    : Payload
  scope   : Nat
  lineData : Bytes
  poison  : BitVec 8
  keep    : Bool
  dirty   : Bool
  hasData : Bool
  tag     : Nat
  die     : Nat
  slice   : Nat
  persist : Bool
  addr    : Nat
  came    : Nat
  deriving DecidableEq, Repr

/-- A channel (R114, R115): the stop that holds the optical token, and each writer's packets in order. -/
structure Chan where
  token : Nat
  fifo  : Tbl (List Pkt)
  deriving DecidableEq, Repr

/-- A channel after reset (log 7). -/
def Chan.empty : Chan := { token := 0, fifo := [] }

/-- What a line waits for (R121). -/
structure Pend where
  hbm    : Bool
  rcl    : Bool
  ask    : Bool
  home   : Bool
  acks   : List Nat
  done   : Option Pkt
  deriving DecidableEq, Repr

/-- A line at its home slice or at a proxy: the data held there, and its directory entry (R117, R118, R125). `owner` is a
core, or 384 + a die; `copy` is the state in which a proxy's die holds the line. `dev` is the outcome of an HBM read made for an
access of the device itself (R85, log 15): the bursts that failed, none of them when the line was installed. `asked` is the cycle from which
a request of the line has waited at its controller (R89). -/
structure Line where
  data    : Option Bytes
  dirty   : Bool
  poison  : BitVec 8
  st      : CopyState
  sharers : BitVec 27
  owner   : Nat
  copy    : CopyState
  pend    : Option Pend
  hbmWrite : List (Nat × Nat)
  dev     : Option (BitVec 4)
  asked   : Option Nat
  deriving DecidableEq, Repr

/-- A line that is absent everywhere. -/
def Line.absent : Line :=
  { data := none, dirty := false, poison := 0, st := .i, sharers := 0, owner := 0, copy := .i, pend := none, hbmWrite := [],
    dev := none, asked := none }

/-- A slice: packets arrived and its registers (R123, R133). -/
structure Slice where
  inbox   : List Pkt
  seq     : Nat
  hits    : Nat
  misses  : Nat
  inv     : Nat
  recalls : Nat
  ce      : Nat
  ue      : Nat
  deriving DecidableEq, Repr

/-- A slice after module reset (R133). -/
def Slice.empty : Slice := { inbox := [], seq := 0, hits := 0, misses := 0, inv := 0, recalls := 0, ce := 0, ue := 0 }

/-- A line of an L1 (R118, R130). -/
structure L1Line where
  st     : CopyState
  data   : Bytes
  poison : BitVec 8
  deriving DecidableEq, Repr

/-! ### Accesses of memory elements (R135 to R154) -/

/-- The accesses that have variable latency. -/
inductive MemOp where
  | ld | ldt | lda | stl | fence | flush | invl
  | aadd | amin | amax | aand | aor | axor | axchg | acas | afadd | pref
  deriving DecidableEq, Repr

/-- How far an access has come. -/
inductive AccStage where
  | walk      -- waiting for a range walk
  | commit    -- waiting for its commit to complete
  | order     -- waiting for earlier loads of the core that wait for the same line (R127)
  | wait      -- waiting for packets to return
  | done
  deriving DecidableEq, Repr

/-- One line's part of an access: its physical address, its place in the access, its length, and the bytes once read. -/
structure Part where
  pa  : Nat
  off : Nat
  len : Nat
  got : Option Bytes
  deriving DecidableEq, Repr

/-- An access in progress at a memory element. `bound` is past the entries that its commit waits for, `entry` and `left` number an STL's
own entries, and `left` counts what a FLUSH or INVL waits for. `getx` names the GETX that serves an atomic and `old` says that it left
before a later STORE or RED of the core for the line (R128); `gone` says that the thread has left its block (R320). -/
structure Access where
  id     : Nat
  site   : Nat
  ctx    : Nat
  slot   : Nat
  tid    : Nat
  op     : MemOp
  word   : SlotWord
  va     : Nat
  n      : Nat
  data   : Payload
  scope  : Nat
  parts  : List Part
  fwd    : List (Option Byte)
  stage  : AccStage
  left   : Nat
  noL1   : Bool
  bound  : Nat
  entry  : Nat
  getx   : Nat
  old    : Bool
  gone   : Bool
  deriving DecidableEq, Repr

/-! ### Range translation (R90 to R110) -/

/-- A range descriptor (R93): its four 8-byte words. -/
structure Desc where
  w0 : BitVec 64
  w1 : BitVec 64
  w2 : BitVec 64
  w3 : BitVec 64
  deriving DecidableEq, Repr

/-- An entry of a core's range table (R95): the space it is tagged with, or none for global; where its descriptor lies. -/
structure RangeEntry where
  space : Option Nat
  desc  : Desc
  deriving DecidableEq, Repr

/-- Who waits for a walk. -/
inductive WalkFor where
  | access (id : Nat)
  | slot (site ctx slot tid : Nat) (write atomic : Bool)
  | probe (site ctx slot tid key half : Nat) (own : Bool)
  deriving DecidableEq, Repr

/-- A walk request (R95). -/
structure Walk where
  core   : Nat
  space  : Nat
  va     : Nat
  who    : List WalkFor
  asked  : Nat
  active : Bool
  deriving DecidableEq, Repr

/-- An operation of variable latency at a processing element that waits for something (R103, R326, R378, R393). -/
structure PendOp where
  key  : Nat
  core : Nat
  site : Nat
  slot : Nat
  deriving DecidableEq, Repr

/-- An instruction that names one space, waiting for the lines of its directory or of the space table to be quiet (R104): kind 0 RSPLIT, 1
RMERGE, 2 RDISC, 3 RMOVE, 4 RWIN, 7 RINV; 5 FREEZE and 6 THAW (R377), `arg` then being THAW's options. -/
structure RangeOp where
  op    : PendOp
  kind  : Nat
  space : Nat
  va    : Nat
  arg   : Nat
  tid   : Nat
  scope : Nat
  deriving DecidableEq, Repr

/-- An invalidation in progress (R102): the translated work it still waits for. -/
structure Inval where
  die   : Nat
  cores : List Nat
  space : Option Nat
  lo    : Nat
  hi    : Nat
  waitAcc : List (Nat × Nat)
  waitEnt : List (Nat × Nat)
  /-- What follows: report DONE, discard the lines of a span, or go on with a move. -/
  next  : Nat
  op    : Option PendOp
  span  : Nat × Nat
  move  : Option (Nat × Nat × Nat)
  deriving DecidableEq, Repr

/-! ### Activations (R362) -/

/-- An engine fault on its way to a handler (R362). -/
structure Activation where
  record : FaultRec
  job    : Job
  deriving DecidableEq, Repr

/-! ### Cores (R19) -/

/-- The part of a fabric task that a core runs (R305, R337). `started` is the place of its dispatch in the order of dispatches. -/
structure RunPart where
  task    : Nat
  part    : Nat
  level   : Nat
  graph   : Nat
  space   : Nat
  priv    : Bool
  session : Nat
  count   : Nat
  slots   : Nat
  entry   : Nat
  args    : Nat
  pools   : List (Nat × Nat)
  map     : List MapEntry
  started : Nat
  deriving DecidableEq, Repr

/-- The state of one waiting vector beyond its bits (R312, R308): 1 + the last thread injected, or 0; 1 + the cycle in which an exit last
named the block, or 0; and the bits that the vector area last took, as a number. -/
structure VecState where
  last  : Nat
  named : Nat
  mem   : Nat
  deriving DecidableEq, Repr

/-- One core. -/
structure Core where
  disabled : Bool
  start    : Nat
  sites    : Tbl Site
  ctxs     : Tbl Ctx
  stamps   : Nat
  part     : Option RunPart
  threads  : Tbl Thread
  -- selector (R312 to R316, R328): SELAGE and SELQ as written and as they act since the last choice, the prefetch target last found, and
  -- the blocks that had an injectable waiter in the cycle before
  active   : Option BlockRef
  chosenAt : Nat
  injectAt : Nat
  vecs     : List (BlockRef × VecState)
  cached   : List BlockRef
  prefetch : Option BlockRef
  preFound : Option BlockRef
  had      : List BlockRef
  lastInj  : Nat
  selAge   : Nat
  selQ     : Nat
  ageNow   : Nat
  qNow     : Nat
  selVec   : Nat
  selLoads : Nat
  selChoices : Nat
  selStray : Nat
  demands  : List BlockRef
  cfgWait  : List (PendOp × BlockRef × Bool)
  -- scratchpad and allocator (R167 to R194)
  granules : Tbl (BitVec 256)
  tiles    : Tbl Tile
  pools    : Tbl Pool
  runs     : List (Nat × Nat)
  freed    : List (Nat × Nat × Nat)
  waiting  : List Req
  grants   : List Grant
  compact  : List Compaction
  noCompact : List Nat
  grantedAt : Tbl Nat
  idleFrom : Nat
  alcMoved : Nat
  alcRuns  : Nat
  alcDl    : Nat
  writes   : List TileWrite
  wide     : List WideSend
  endq     : List EndOp
  -- accumulators (R262 to R267)
  banks    : Tbl Bank
  chunks   : List Chunk
  copies   : List (Nat × Nat × Nat)
  mtChunk  : Nat
  mtWait   : Nat
  mtRestore : Nat
  mtSaves  : Nat
  -- floating-point flags, those of this cycle, those that its end sets, and residue counters (R212, R230, R231)
  fpFlag   : BitVec 5
  fpNew    : BitVec 5
  fpLate   : BitVec 5
  elLvs    : Nat
  elDreg   : Nat
  elHead   : Nat
  elResult : Nat
  -- memory (R95, R127, R133, R135)
  l1       : Tbl L1Line
  inbox    : List Pkt
  l1Ack    : Option (Nat × Nat × Nat)
  l1Pred   : Bool
  rtab     : List RangeEntry
  accesses : List Access
  nextId   : Nat
  -- engines (R158, R362)
  queues   : Tbl (List Job)
  activations : List Activation
  -- boundary elements (R352)
  beRoute0 : BitVec 64
  beRoute1 : BitVec 64
  beDrop   : Nat
  -- traps and pre-emption (R369 to R379)
  svBase   : Nat
  svSaves  : Nat
  svSize   : Nat
  tmrEn    : Bool
  tmrPend  : Bool
  tmrPeriod : Nat
  tmrFrom  : Nat
  hnd      : Tbl (BitVec 64)
  preempt  : Option PreemptFor
  heldFor  : Option Nat
  frozen   : List Nat
  deriving DecidableEq, Repr

/-- A core after core reset (R328, R396; log 6). `start` is the cycle of its reset (R55). -/
def Core.reset : Core :=
  { disabled := false, start := 0, sites := [], ctxs := [], stamps := 0, part := none, threads := []
    active := none, chosenAt := 0, injectAt := 0, vecs := [], cached := [], prefetch := none, preFound := none, had := [], lastInj := 0
    selAge := 0x10000, selQ := 0x1000, ageNow := 0x10000, qNow := 0x1000, selVec := 0, selLoads := 0, selChoices := 0, selStray := 0, demands := [], cfgWait := []
    granules := [], tiles := [], pools := [], runs := [], freed := [], waiting := [], grants := [], compact := [], noCompact := []
    grantedAt := [], idleFrom := 0, alcMoved := 0, alcRuns := 0, alcDl := 0, writes := [], wide := [], endq := []
    banks := [], chunks := [], copies := [], mtChunk := 0, mtWait := 0, mtRestore := 0, mtSaves := 0
    fpFlag := 0, fpNew := 0, fpLate := 0, elLvs := 0, elDreg := 0, elHead := 0, elResult := 0
    l1 := [], inbox := [], l1Ack := none, l1Pred := false, rtab := [], accesses := [], nextId := 1
    queues := [], activations := [], beRoute0 := 0, beRoute1 := 0, beDrop := 0
    svBase := 0, svSaves := 0, svSize := 0, tmrEn := false, tmrPend := false, tmrPeriod := 0, tmrFrom := 0, hnd := []
    preempt := none, heldFor := none, frozen := [] }

/-! ### Dies (R19, R92, R332 to R351, R389, R403) -/

/-- States of a task (R333). -/
inductive TaskState where
  | free | waiting | ready | running
  deriving DecidableEq, Repr

/-- A task table slot (R332, R333): `runs` is the die it runs on, `left` the parts or jobs it waits for. -/
structure Task where
  gen    : Nat
  st     : TaskState
  record : Bytes
  deps   : Nat
  succ   : List Nat
  pools  : List (Nat × Nat)
  map    : List MapEntry
  priv   : Bool
  session : Nat
  runs   : Nat
  left   : Nat
  deriving DecidableEq, Repr

/-- A task slot that is free. -/
def Task.free : Task :=
  { gen := 0, st := .free, record := [], deps := 0, succ := [], pools := [], map := [], priv := false, session := 0, runs := 0, left := 0 }

/-- What a save image does not hold of a thread and the device keeps beside it: the range move or revocation that parked it, its IRREV
bit, the engine job whose fault it handles, and the tile granted to the ALLOC at which it resumes (site, slot and tile; R324); the
handler block it entered, a fault that is still to be delivered, whether it is held and keeps its bit, and whether what held it has released it
since. -/
structure SavedThread where
  tid     : Nat
  moving  : Bool
  movedVa : Nat
  revoked : Bool
  irrev   : Bool
  activation : Option Nat
  grant   : Option (Nat × Nat × Nat)
  hblk    : Option BlockRef
  owed    : Option FaultRec
  hold    : Bool
  inVec   : Bool
  retry   : Bool
  deriving DecidableEq, Repr

/-- An element of a ready queue (R337, R338): a task's part, and the address of its save image once it was pre-empted. -/
structure Ready where
  task  : Nat
  part  : Nat
  space : Nat
  saved : Option Nat
  kept  : List SavedThread
  deriving DecidableEq, Repr

/-- A decrement on its way (R342), with the issuing thread's space and privilege. -/
structure Decrement where
  task  : Nat
  n     : Nat
  space : Option Nat
  core  : Nat
  tid   : Nat
  deriving DecidableEq, Repr

/-- What is on its way to a sync unit (R345, R346): an arrival, an initialisation, or the registration of a gate. -/
inductive SyncMsg where
  | arrive (index : Nat) (space : Option Nat) (core tid : Nat)
  | init (index target task space : Nat) (priv : Bool) (own core tid : Nat)
  | gate (index core tid : Nat)
  deriving DecidableEq, Repr

/-- A gate recorded at its home (R345). -/
structure GateRec where
  index : Nat
  phase : Nat
  core  : Nat
  tid   : Nat
  deriving DecidableEq, Repr

/-- A trace record that has reached the trace unit (R390): its type, its INFO field and its further words. -/
structure TraceRec where
  type  : Nat
  info  : Nat
  words : List (BitVec 64)
  deriving DecidableEq, Repr

/-- A start waiting at the stagger unit (R350). -/
structure StartReq where
  at_  : Nat
  core : Nat
  site : Nat
  ctx  : Nat
  slot : Nat
  tid  : Nat
  deriving DecidableEq, Repr

/-- A collective occurrence that has filled (R300): what every rank brings; no rank at all where its arrivals differ. -/
structure Colle where
  group : Nat
  seq   : Nat
  ranks : List RankData
  deriving DecidableEq, Repr

/-- One die. Credit is counted in units of 1/384,000 A (R350). -/
structure Die where
  inReset  : Bool
  failed   : Bool
  sptBase  : BitVec 64
  gdir     : BitVec 64
  gdirN    : Nat
  wkCnt    : Nat
  wkCyc    : Nat
  xgtBase  : BitVec 64
  walks    : List Walk
  jobs     : List Job
  collect  : Tbl (List Job)
  jobSeq   : Nat
  tdBase   : BitVec 64
  syncBase : BitVec 64
  cstart   : Nat
  limit    : Nat
  tdErr    : Nat
  syncMiss : Nat
  slWait   : Nat
  tasks    : Tbl Task
  ready    : Tbl (List Ready)
  decq     : List Decrement
  syncq    : List SyncMsg
  syncCache : List (Nat × BitVec 128)
  gates    : List GateRec
  credit   : Nat
  creditAt : Nat
  starts   : List StartReq
  granted  : List StartReq
  lastGrant : Option Nat
  trBuf    : BitVec 64
  trRd     : Nat
  trWr     : Nat
  trCtl    : BitVec 64
  trLost   : Nat
  trPend   : Nat
  trLast   : Nat
  trSync   : Bool
  trq      : List TraceRec
  boot     : Bool
  svcCore  : Nat
  svcRel   : Bool
  svcRelAt : Nat
  deriving DecidableEq, Repr

/-- The largest credit of a stagger unit (R350): 4 times CSTART, CSTART counted in 1/256 A and 0 acting as 1. -/
def creditCap (cstart : Nat) : Nat := 4 * 1500 * max cstart 1

/-- A die after module reset (R92, R295, R351, R389, R403). -/
def Die.reset : Die :=
  { inReset := false, failed := false, sptBase := 0, gdir := 0, gdirN := 0, wkCnt := 0, wkCyc := 0, xgtBase := 0, walks := []
    jobs := [], collect := [], jobSeq := 0, tdBase := 0, syncBase := 0, cstart := 0x80, limit := 100, tdErr := 0, syncMiss := 0
    slWait := 0, tasks := [], ready := [], decq := [], syncq := [], syncCache := [], gates := []
    credit := creditCap 0x80, creditAt := 0, starts := [], granted := [], lastGrant := none
    trBuf := 0, trRd := 0, trWr := 0, trCtl := 0x0010000000000000, trLost := 0, trPend := 0, trLast := 0, trSync := true
    trq := [], boot := true, svcCore := 0, svcRel := false, svcRelAt := 0 }

/-! ### Main memory controllers and PHY (R88, R89, R406) -/

/-- One pseudo-channel: refresh debt, a forced refresh in progress, the forced refreshes counted, whether it is initialised, the bank
that the next REFpb takes, and the reference tick to which the last REFpb and the last REFab hold their banks (R80, R81, R412). -/
structure Pc where
  debt   : Nat
  forced : Bool
  force  : Nat
  init   : Bool
  bank   : Nat
  pbUntil : Nat
  abUntil : Nat
  deriving DecidableEq, Repr

/-- A pseudo-channel after module reset. -/
def Pc.reset : Pc := { debt := 0, forced := false, force := 0, init := false, bank := 0, pbUntil := 0, abUntil := 0 }

/-- One controller channel (R89). -/
structure Ctrl where
  hot     : Bool
  scrub   : Bool
  pc0     : Pc
  pc1     : Pc
  stall   : Nat
  dieCe   : Nat
  ce      : Nat
  retry   : Nat
  ue      : Nat
  ueAddr  : Nat
  ueValid : Bool
  deriving DecidableEq, Repr

/-- A controller channel after module reset (R89; log 6 for HMUEADDR.ADDR). -/
def Ctrl.reset : Ctrl :=
  { hot := false, scrub := true, pc0 := Pc.reset, pc1 := Pc.reset, stall := 0, dieCe := 0, ce := 0, retry := 0, ue := 0,
    ueAddr := 0, ueValid := false }

/-- One PHY slice (R406): what firmware wrote, what the PHY now applies (R409), and the command it runs; `held` says that a command of it has started and that
its channel has had commands running ever since (R407). -/
structure Phy where
  eye     : BitVec 64
  spare   : BitVec 16
  rdly    : BitVec 64
  wdly    : BitVec 64
  rep     : BitVec 64
  useR    : BitVec 64
  useW    : BitVec 64
  useRep  : BitVec 64
  pat     : Nat
  busy    : Option Nat
  held    : Bool
  trained : Bool
  deriving DecidableEq, Repr

/-- A PHY slice after module reset (R406; log 6 for PHREP). -/
def Phy.reset : Phy :=
  { eye := 0, spare := 0, rdly := 0x0008000800080008, wdly := 0x0008000800080008, rep := 0, useR := 0x0008000800080008,
    useW := 0x0008000800080008, useRep := 0, pat := 0, busy := none, held := false, trained := false }

/-! ### Ports and module (R288 to R294, R381 to R399) -/

/-- One optical port (R294); `window` counts each lane's errors in the window that runs (R292). -/
structure Port where
  lanes   : BitVec 8
  retrain : Option Nat
  kls     : Bool
  up      : Bool
  limit   : Nat
  back    : Nat
  out     : Nat
  errs    : Tbl Nat
  window  : Tbl Nat
  deriving DecidableEq, Repr

/-- A port after module reset (R294). -/
def Port.reset : Port :=
  { lanes := 0, retrain := none, kls := false, up := false, limit := 0x10000, back := 0, out := 0, errs := [], window := [] }

/-- Kinds of session (R381). -/
inductive SessionKind where
  | hello | management | tenant (space : Nat)
  deriving DecidableEq, Repr

/-- A Clotis session (R381, R385). -/
structure Session where
  kind      : SessionKind
  key       : Bytes
  challenge : Bytes
  flow      : Nat
  frozen    : Bool
  deriving DecidableEq, Repr

/-- An admitted graph (R306, R386): its directory, measurement and space, and what R177 and R309 take from its images: the
live-slot count, the largest COMMIT, and the pool and literal size of each ALLOC slot. -/
structure Graph where
  dir     : Nat
  measure : Bytes
  space   : Option Nat
  slots   : Nat
  cmax    : Nat
  allocs  : List (Nat × Option Nat)
  deriving DecidableEq, Repr

/-- A message the device sends on a session (R382, R383). -/
structure Message where
  session : Nat
  code    : Nat
  status  : Nat
  body    : Bytes
  deriving DecidableEq, Repr

/-- A launch that stands in a queue and is not yet admitted (R334, R387): its session, the die of its port, whether it is the owner's, its
records and its placement map. -/
structure Launch where
  session : Nat
  die     : Nat
  priv    : Bool
  records : List Bytes
  map     : List MapEntry
  deriving DecidableEq, Repr

/-- A queue of a space (R383), with the launches that wait in it. -/
structure Queue where
  space   : Nat
  num     : Nat
  waiting : List Launch
  deriving DecidableEq, Repr

/-- The module control unit, flash and power stage (R381 to R399). `heard` is the reference tick of the owner's last command, `tlmSeq` the
samples that each die has made, and `bootStep` the last step of R398 that the control unit has ended; `sent` holds the messages that the device has sent, as bytes (R382). -/
structure Control where
  sessions : Tbl Session
  closed   : List Nat
  owner    : Option Nat
  offer    : Option Nat
  heard    : Nat
  ownTo    : Nat
  keys     : Tbl Bytes
  queues   : List Queue
  tlm      : Tbl (BitVec 64)
  tlmSeq   : Tbl Nat
  flash    : Memory
  fwMeasure : Bytes
  cfgMeasure : Bytes
  config   : Bytes
  bootStep : Nat
  recovery : Bool
  sent     : List Bytes
  deriving DecidableEq, Repr

/-- The module's control unit before a boot (R388; log 6). -/
def Control.reset : Control :=
  { sessions := [], closed := [], owner := none, offer := none, heard := 0, ownTo := 5000, keys := [], queues := [], tlm := [], tlmSeq := [],
    flash := [], fwMeasure := [], cfgMeasure := [], config := [], bootStep := 0, recovery := false, sent := [] }

/-- Who waits for a register access (R383, R393): a site's operation, or a session's MGMT. -/
inductive SysFrom where
  | site (core site key : Nat)
  | session (n : Nat)
  deriving DecidableEq, Repr

/-- A register access on its way (R393): a write of `data`, or a read; `started` marks a PHY command that runs. -/
structure SysWrite where
  who     : SysFrom
  addr    : Nat
  data    : Option (BitVec 64)
  started : Bool
  deriving DecidableEq, Repr

/-! ### The device -/

/-- The firing that `exec` runs (R203). -/
structure Loc where
  core : Nat
  site : Nat
  ctx  : Nat
  slot : Nat
  deriving DecidableEq, Repr

/-- A range being moved (R110): the issuing operation, space, descriptor before the move, the new base, and its state. -/
structure Move where
  op     : PendOp
  tid    : Nat
  die    : Nat
  space  : Nat
  vbase  : Nat
  len    : Nat
  oldPa  : Nat
  newPa  : Nat
  lo     : Nat
  hi     : Nat
  phase  : Nat
  deriving DecidableEq, Repr

/-- A freeze on its way to a core (R376). -/
structure FreezeMsg where
  core  : Nat
  space : Nat
  deriving DecidableEq, Repr

/-- The whole device. `wire` is what each die has sent to remote devices, in order (log 23), `nacks` the faults that its dies, as targets, have
answered with (R301: die, code and detail), and `rmaNext` the message of each ordered flow whose turn it is (R290: die, flow and message; a flow not listed is at message 0). -/
structure State where
  agenda   : List Turn
  turnNo   : Nat
  freeNo   : Nat
  loc      : Loc
  endPhase : Bool
  cycle    : Nat
  refTick  : Nat
  mem      : Memory
  hbmBad   : List Nat
  lines    : Tbl Line
  proxies  : Tbl Line
  chans    : Tbl Chan
  slices   : Tbl Slice
  cores    : Tbl Core
  dies     : Tbl Die
  ctrls    : Tbl Ctrl
  phys     : Tbl Phy
  ports    : Tbl Port
  conns    : List (Nat × List Feature)
  wire     : List (Nat × Bytes)
  nacks    : List (Nat × Nat × Nat)
  rmaNext  : List (Nat × Nat × Nat)
  graphs   : Tbl Graph
  frozen   : List Nat
  sysq     : List SysWrite
  rewrites : List (Nat × BitVec 64)
  rangeq   : List RangeOp
  invals   : List Inval
  moves    : List Move
  freezing : List FreezeMsg
  freezeOps : List (PendOp × Nat)
  insts    : List Colle
  modl     : Control
  deriving DecidableEq, Repr

/-- The device right after module reset (R396): every register at the value its table gives, HBM with nothing listed,
nothing running. The reference counter is 0 too, which R2 does not say (DESIGN CHOICE, log 4). -/
def State.reset : State :=
  { agenda := [], turnNo := 0, freeNo := 0, loc := ⟨0, 0, 0, 0⟩, endPhase := false, cycle := 0, refTick := 0, mem := [],
    hbmBad := [], lines := [], proxies := [], chans := [], slices := [], cores := [], dies := [], ctrls := [], phys := [],
    ports := [], conns := [], wire := [], nacks := [], rmaNext := [], graphs := [], frozen := [], sysq := [], rewrites := [], rangeq := [], invals := [], moves := [], freezing := [],
    freezeOps := [], insts := [], modl := Control.reset }

end Sys2Proof.Machine
end

