-- ==== Sys2Proof/Machine/Ops.lean ====
section
/-! DEFINITION. The named operations over the state: cores, sites, buffers, results in flight, free values. -/

namespace Sys2Proof.Machine

/-! ### Reaching the parts of the state -/

def State.core (s : State) (c : Nat) : Core := tblGet Core.reset s.cores c
def State.setCore (s : State) (c : Nat) (x : Core) : State := { s with cores := tblSet s.cores c x }
def State.modCore (s : State) (c : Nat) (f : Core → Core) : State := s.setCore c (f (s.core c))

def State.die (s : State) (d : Nat) : Die := tblGet Die.reset s.dies d
def State.setDie (s : State) (d : Nat) (x : Die) : State := { s with dies := tblSet s.dies d x }
def State.modDie (s : State) (d : Nat) (f : Die → Die) : State := s.setDie d (f (s.die d))

def State.slice (s : State) (n : Nat) : Slice := tblGet Slice.empty s.slices n
def State.modSlice (s : State) (n : Nat) (f : Slice → Slice) : State := { s with slices := tblSet s.slices n (f (s.slice n)) }

def State.ctrl (s : State) (ch : Nat) : Ctrl := tblGet Ctrl.reset s.ctrls ch
def State.modCtrl (s : State) (ch : Nat) (f : Ctrl → Ctrl) : State := { s with ctrls := tblSet s.ctrls ch (f (s.ctrl ch)) }

def State.phy (s : State) (n : Nat) : Phy := tblGet Phy.reset s.phys n
def State.modPhy (s : State) (n : Nat) (f : Phy → Phy) : State := { s with phys := tblSet s.phys n (f (s.phy n)) }

def State.port (s : State) (p : Nat) : Port := tblGet Port.reset s.ports p
def State.modPort (s : State) (p : Nat) (f : Port → Port) : State := { s with ports := tblSet s.ports p (f (s.port p)) }

def State.modl_ (s : State) (f : Control → Control) : State := { s with modl := f s.modl }

def Core.site (c : Core) (k : Nat) : Site := tblGet Site.empty c.sites k
def Core.setSite (c : Core) (k : Nat) (x : Site) : Core := { c with sites := tblSet c.sites k x }
def Core.modSite (c : Core) (k : Nat) (f : Site → Site) : Core := c.setSite k (f (c.site k))
def Core.ctx (c : Core) (x : Nat) : Ctx := tblGet Ctx.empty c.ctxs x
def Core.modCtx (c : Core) (x : Nat) (f : Ctx → Ctx) : Core := { c with ctxs := tblSet c.ctxs x (f (c.ctx x)) }
def Core.thread (c : Core) (t : Nat) : Thread := tblGet Thread.none c.threads t
def Core.modThread (c : Core) (t : Nat) (f : Thread → Thread) : Core := { c with threads := tblSet c.threads t (f (c.thread t)) }
def Core.tile (c : Core) (i : Nat) : Tile := tblGet Tile.empty c.tiles i
def Core.modTile (c : Core) (i : Nat) (f : Tile → Tile) : Core := { c with tiles := tblSet c.tiles i (f (c.tile i)) }
def Core.bank (c : Core) (b : Nat) : Bank := tblGet Bank.empty c.banks b
def Core.modBank (c : Core) (b : Nat) (f : Bank → Bank) : Core := { c with banks := tblSet c.banks b (f (c.bank b)) }
def Core.pool (c : Core) (k : Nat) : Pool := tblGet ⟨0, 0, 0⟩ c.pools k

def Site.ctx (x : Site) (k : Nat) : SiteCtx := tblGet SiteCtx.empty x.ctxs k
def Site.modCtx (x : Site) (k : Nat) (f : SiteCtx → SiteCtx) : Site := { x with ctxs := tblSet x.ctxs k (f (x.ctx k)) }
def Site.buf (x : Site) (d : Nat) : List BufEntry := tblGet [] x.bufs d
def Site.setBuf (x : Site) (d : Nat) (b : List BufEntry) : Site := { x with bufs := tblSet x.bufs d b }

def SiteCtx.entryBuf (x : SiteCtx) (n : Nat) : List BufEntry := tblGet [] x.entry n
def SiteCtx.setEntry (x : SiteCtx) (n : Nat) (b : List BufEntry) : SiteCtx := { x with entry := tblSet x.entry n b }
def SiteCtx.d (x : SiteCtx) (n : Nat) : Val := tblGet ⟨0, 0⟩ x.dreg n
def SiteCtx.setD (x : SiteCtx) (n : Nat) (v : Val) : SiteCtx := { x with dreg := tblSet x.dreg n v }

def State.modSite (s : State) (c k : Nat) (f : Site → Site) : State := s.modCore c fun x => x.modSite k f
def State.modSiteCtx (s : State) (c k x : Nat) (f : SiteCtx → SiteCtx) : State := s.modSite c k fun y => y.modCtx x f
def State.modThread (s : State) (c t : Nat) (f : Thread → Thread) : State := s.modCore c fun x => x.modThread t f

/-- The firing's core, site and context. -/
def State.here (s : State) : Core := s.core s.loc.core
def State.hereSite (s : State) : Site := s.here.site s.loc.site
def State.hereCtx (s : State) : SiteCtx := s.hereSite.ctx s.loc.ctx
def State.modHere (s : State) (f : Core → Core) : State := s.modCore s.loc.core f
def State.modHereSite (s : State) (f : Site → Site) : State := s.modSite s.loc.core s.loc.site f
def State.modHereCtx (s : State) (f : SiteCtx → SiteCtx) : State := s.modSiteCtx s.loc.core s.loc.site s.loc.ctx f

/-- The die of a core, and its number in the die (R17). -/
def dieOf (c : Nat) : Nat := c / 96

/-- The source node and loop index of a slot of a context's block (R392). -/
def Ctx.nodeOf (x : Ctx) (site slot : Nat) : Nat × Nat :=
  match x.nodes.find? fun n => n.site == site && n.slot == slot with
  | some n => (n.node, n.loop)
  | none => (0xFFFF, 0xFFFF)

/-- A record sent to a die's trace unit while trace and the type's bit of TRCTL are on (R389, R390). -/
def State.record (s : State) (d gate : Nat) (r : TraceRec) : State :=
  s.modDie d fun x => if x.trCtl.getLsbD 0 && x.trCtl.getLsbD gate then { x with trq := x.trq ++ [r] } else x

/-- A fresh free value (log 2). -/
def State.free (s : State) : Nat × State := (Config.free s.freeNo, { s with freeNo := s.freeNo + 1 })

/-- Floating-point flags set, now and for the rest of the cycle (R231). -/
def Core.flag (c : Core) (f : BitVec 5) : Core := { c with fpFlag := c.fpFlag ||| f, fpNew := c.fpNew ||| f }

/-- Floating-point flags set at the end of this cycle (R230). -/
def Core.flagLate (c : Core) (f : BitVec 5) : Core := { c with fpLate := c.fpLate ||| f }

/-! ### Residues (R210) -/

/-- The residue of each 32-bit lane of a payload, 2 bits per lane. -/
def residues (p : Payload) : BitVec 8 :=
  .ofNat 8 (bits p.toNat 31 0 % 3 + bits p.toNat 63 32 % 3 * 4 + bits p.toNat 95 64 % 3 * 16 + bits p.toNat 127 96 % 3 * 64)

/-- A value with the residues its bits have. -/
def mkVal (p : Payload) : Val := ⟨p, residues p⟩

/-- Whether every lane's residue agrees with its value. -/
def Val.ok (v : Val) : Bool := v.res == residues v.bits

/-! ### Directions and links (R20, R21, R57) -/

/-- The direction a link comes in by at the other end: north and south, east and west. -/
def opposite (d : Nat) : Nat := (d + 2) % 4

/-- The neighbour a site's outward link leads to (R21); none at an edge. -/
def neighbour (k d : Nat) : Option Nat :=
  match d with
  | 0 => if k < 16 then none else some (k - 16)
  | 1 => if k % 16 = 15 then none else some (k + 1)
  | 2 => if 240 ≤ k then none else some (k + 16)
  | _ => if k % 16 = 0 then none else some (k - 1)

/-- Whether an outward link is a boundary link (R21): north of (0,7), south of (15,8). -/
def isBoundary (k d : Nat) : Bool := (k == 7 && d == 0) || (k == 248 && d == 2)

/-- The source code of an outgoing link in a routing word (R57). -/
def routeOut (r : BitVec 64) (d : Nat) : Nat := bits r.toNat (47 - 4 * d) (44 - 4 * d)

/-- The source code of an input in a routing word (R57). -/
def routeIn (r : BitVec 64) (n : Nat) : Nat := bits r.toNat (31 - 4 * n) (28 - 4 * n)

/-- The format acceptance mask and steer direction of a routing word (R57). -/
def routeFA (r : BitVec 64) : Nat := bits r.toNat 63 56
def routeFS (r : BitVec 64) : Nat := bits r.toNat 55 54

/-- The links that an output mask drives under a routing word. -/
def linksOf (r : BitVec 64) (om : BitVec 4) : List Nat :=
  [0, 1, 2, 3].filter fun d => 1 ≤ routeOut r d && routeOut r d ≤ 4 && om.getLsbD (routeOut r d - 1)

/-! ### Buffers (R198 to R201) -/

/-- The front of a buffer in a cycle: the oldest entry, once it can be a head and while none leaves in this cycle. -/
def bufFront (now : Nat) (b : List BufEntry) : Option Token :=
  match b with
  | [] => none
  | e :: r => match e.gone with
    | none => if e.since ≤ now then some e.tok else none
    | some g => if g < now then bufFront now r else none

/-- The entries that still take room in a cycle. -/
def bufUsed (now : Nat) (b : List BufEntry) : Nat :=
  (b.filter fun e => match e.gone with
    | none => true
    | some g => now ≤ g).length

/-- The buffer with its front leaving at the end of the cycle, and without the entries that have left. -/
def bufTake (now : Nat) (b : List BufEntry) : List BufEntry :=
  match b with
  | [] => []
  | e :: r => match e.gone with
    | none => { e with gone := some now } :: r
    | some g => if g < now then bufTake now r else e :: r

/-- The buffer with a token placed at the end of the cycle: it is a head from the next cycle on (R69). -/
def bufPut (now : Nat) (b : List BufEntry) (t : Token) : List BufEntry :=
  (b.filter fun e => match e.gone with
    | none => true
    | some g => now ≤ g) ++ [⟨t, now + 1, none⟩]

/-- Whether a token was placed in the buffer in this cycle. -/
def bufFresh (now : Nat) (b : List BufEntry) : Bool := b.any fun e => e.since == now + 1

/-- The buffer at the end of a site's outward link: a neighbour's incoming buffer, or the boundary buffer (R349). -/
def Core.farBuf (c : Core) (k d : Nat) : List BufEntry :=
  if isBoundary k d then (c.site k).bound
  else match neighbour k d with
    | none => []
    | some n => (c.site n).buf (opposite d)

/-- That buffer's capacity: 2 tokens, 8 for a boundary buffer, 0 where the link leads nowhere. -/
def farCap (k d : Nat) : Nat :=
  if isBoundary k d then 8 else if (neighbour k d).isSome then 2 else 0

def Core.setFarBuf (c : Core) (k d : Nat) (b : List BufEntry) : Core :=
  if isBoundary k d then c.modSite k fun x => { x with bound := b }
  else match neighbour k d with
    | none => c
    | some n => c.modSite n fun x => x.setBuf (opposite d) b

/-- Whether a result in flight holds a reservation: from its firing, or, the ord token of an access whose value has left, from then on
(R42, R201; log 28). -/
def Flight.holds (f : Flight) : Bool := f.room || (f.key != 0 && f.ready && f.tok.kind == .ord)

/-- How many entries a site's results in flight reserve at the end of one of its links (R201). -/
def Site.reserved (x : Site) (d : Nat) : Nat :=
  (x.flight.filter fun f => f.holds && (linksOf (x.ctx f.ctx).route f.om).contains d).length

/-- Whether an earlier firing has claimed a link for the end of a cycle (R201). -/
def Site.claimed (x : Site) (d due : Nat) : Bool :=
  x.flight.any fun f => f.due == some due && f.om != 0 && (linksOf (x.ctx f.ctx).route f.om).contains d

/-- Free entries at the end of a link (R201). -/
def Core.roomAt (c : Core) (now k d : Nat) : Nat :=
  farCap k d - (bufUsed now (c.farBuf k d) + (c.site k).reserved d)

/-- Whether a link can take a token in this cycle: room, no claim for its end, none placed yet (R198, R200). -/
def Core.linkFree (c : Core) (now k d : Nat) : Bool :=
  1 ≤ c.roomAt now k d && !(c.site k).claimed d now && !bufFresh now (c.farBuf k d)

/-! ### Heads (R199, R59) -/

/-- Whether a context is valid in this cycle (R207). -/
def Ctx.valid (x : Ctx) (now : Nat) : Bool := match x.validFrom with
  | some v => decide (v ≤ now)
  | none => false

/-- Whether a routing word accepts a token as a head (R59). -/
def accepts (r : BitVec 64) (t : Token) : Bool :=
  match t.kind with
  | .dat | .scl => bit (routeFA r) t.tag.code
  | _ => true

/-- The head of an input of a context (R199). A resume token stands at its input whatever feeds that input (R366). -/
def Core.head (c : Core) (now k x n : Nat) : Option Token :=
  let site := c.site k
  let sc := site.ctx x
  match bufFront now (sc.entryBuf n) with
  | some t => if accepts sc.route t then some t else none
  | none =>
    let j := routeIn sc.route n
    if 1 ≤ j && j ≤ 4 then
      match bufFront now (site.buf (j - 1)) with
      | some t => if t.ctx == x && accepts sc.route t then some t else none
      | none => none
    else none

/-- The heads of an input removed at the end of the cycle (R204). -/
def Site.takeHead (site : Site) (now x n : Nat) : Site :=
  let sc := site.ctx x
  if (bufFront now (sc.entryBuf n)).isSome then site.modCtx x fun y => y.setEntry n (bufTake now (y.entryBuf n))
  else
    let j := routeIn sc.route n
    if 1 ≤ j && j ≤ 4 then site.setBuf (j - 1) (bufTake now (site.buf (j - 1))) else site

/-- The inputs a word reads or dequeues (R33). -/
def inputsUsed (w : SlotWord) : List (Fin 4) :=
  [0, 1, 2, 3].filter fun n => w.dq.getLsbD n.val || w.sa == .i n || w.sb == .i n || w.sc == .i n

/-- The heads a word reads or dequeues, when every one is there. -/
def headsOf (c : Core) (now k x : Nat) (ns : List (Fin 4)) : Option (List Token) :=
  match ns with
  | [] => some []
  | n :: r => match c.head now k x n.val, headsOf c now k x r with
    | some t, some ts => some (t :: ts)
    | _, _ => none

/-! ### Messages of the device (R383) -/

/-- A message as it is sent (R382): the 8-byte header and the body. -/
def Message.bytes (m : Message) : Bytes :=
  leBytes m.code 1 ++ leBytes m.status 1 ++ leBytes m.session 2 ++ leBytes m.body.length 4 ++ m.body

/-- A message sent on a session. -/
def State.send (s : State) (session code status : Nat) (body : Bytes) : State :=
  s.modl_ fun m => { m with sent := m.sent ++ [(Message.mk session code status body).bytes] }

/-- The body of an EVENT: what it reports (1 abort report, 2 freeze notice, 3 ownership change) and its numbers, 8 bytes
each (log 11). -/
def eventBody (what : Nat) (nums : List Nat) : Bytes := leBytes what 8 ++ nums.flatMap fun n => leBytes n 8

/-! ### Scratchpad granules (R138, R171, R179) -/

/-- A run of granules of pool 15 given back at the end of this cycle: it can be granted from the next one on. -/
def Core.freeRun (c : Core) (now : Nat) (r : Nat × Nat) : Core :=
  if r.2 = 0 then c else
  { c with runs := c.runs.filter (· != r)
           freed := (r.1, r.2, now) :: c.freed.filter fun f => f.2.2 == now }

/-- The entries of a thread's area that stand in its own block's granules, staged live-outs among them (R138, R318). -/
def Thread.standing (t : Thread) : Nat := (t.area.filter fun e => e.oper == 8 || decide (t.from_ ≤ e.id)).length

/-- Give back what a thread's commit area no longer needs (R138): the granules of each block it has left, once the last entry made there is
acknowledged, and those it grew by, once a commit point has passed and its block's own hold what is left. -/
def Core.releaseArea (c : Core) (now t : Nat) : Core :=
  let th := c.thread t
  let gone := fun (p : Nat × Nat × Nat) => th.area.all fun e => e.oper == 8 || decide (p.2.2 ≤ e.id)
  let c := ((th.past.filter gone).foldl (fun (c : Core) p => c.freeRun now (p.1, p.2.1)) c).modThread t fun th =>
    { th with past := th.past.filter fun p => !gone p }
  if th.shrink && th.standing ≤ (th.runs.map (·.2)).sum then
    (th.grown.foldl (fun (c : Core) r => c.freeRun now r) c).modThread t fun th => { th with grown := [], shrink := false }
  else c

/-- A thread leaves its block: the granules of its area go back once the last entry made there is acknowledged (R138). -/
def Core.leaveArea (c : Core) (now t : Nat) : Core :=
  (c.modThread t fun th => { th with
    past := th.past ++ (th.runs ++ th.grown).map fun r => (r.1, r.2, c.nextId)
    runs := [], grown := [], shrink := false, commitHeld := false, from_ := c.nextId }).releaseArea now t

/-! ### Squashing a thread (R322) -/

/-- A counter whose pass is cut off (R254): pending counts come into force. -/
def Counter.cut (k : Counter) : Counter :=
  { k with active := false, i := 0, j := 0, pend := false, pendM := false
           n := if k.pend then k.pn else k.n, m := if k.pend && k.pendM then k.pm else k.m }

/-- Everything of a thread removed from one site, in the contexts that a test picks. A result in flight goes with the flags that it would have
set (DESIGN CHOICE, log 153). -/
def Site.squash (x : Site) (t : Nat) (inCtx : Nat → Bool) : Site :=
  let keep := fun (e : BufEntry) => !(e.tok.tid == t && inCtx e.tok.ctx)
  { x with
    bufs := tblMap x.bufs fun _ b => b.filter keep
    bound := x.bound.filter keep
    flight := x.flight.filter fun f => !(f.tid == t && inCtx f.ctx)
    wb := x.wb.filter fun b => !(b.tid == t && inCtx b.ctx)
    ctxs := tblMap x.ctxs fun n y =>
      if !inCtx n then y else
      { y with entry := tblMap y.entry fun _ b => b.filter keep
               emit := y.emit.filter fun e => e.2.2 != t
               latch := y.latch.filter fun l => l.2.tid != t
               cnt := if y.cnt.active && y.cnt.tid == t then y.cnt.cut else y.cnt } }

/-- The tokens of a thread in a context taken from one site by its exit (R320): a result in flight emits nothing more, and still writes its
d-register and sets its flags. -/
def Site.squashExit (x : Site) (t k : Nat) : Site :=
  let mine := fun (f : Flight) => f.tid == t && f.ctx == k
  let stays := (x.flight.filter fun f => !mine f || f.key == 0 || f.dr.isSome).map fun f =>
    if mine f then { f with om := 0, room := false } else f
  { x.squash t (· == k) with flight := stays }

/-- How many tokens and beats of a thread stand in one site, in the contexts that a test picks (R320). -/
def Site.tokensOf (x : Site) (t : Nat) (inCtx : Nat → Bool) : Nat :=
  let is := fun (e : BufEntry) => e.tok.tid == t && inCtx e.tok.ctx && (match e.gone with
    | none => true
    | some _ => false)
  (x.bufs.map fun b => (b.2.filter is).length).sum + (x.bound.filter is).length
    + (x.ctxs.map fun y => (y.2.entry.map fun b => (b.2.filter is).length).sum).sum
    + (x.flight.filter fun f => f.tid == t && inCtx f.ctx && f.om != 0).length
    + (x.wb.filter fun b => b.tid == t && inCtx b.ctx && (match b.gone with
        | none => true
        | some _ => false)).length

/-- Everything of a thread removed from every site and from the wide network, in the contexts that a test picks. -/
def Core.squash (c : Core) (t : Nat) (inCtx : Nat → Bool) : Core :=
  { c with sites := tblMap c.sites fun _ x => x.squash t inCtx
           wide := c.wide.filter fun w => !(w.beat.tid == t && inCtx w.beat.ctx)
           accesses := c.accesses.filter fun a => !(a.tid == t && inCtx a.ctx) || a.gone }

/-- The tokens of a thread in a context taken from every site and from the wide network by its exit (R320, R370). Its accesses go on: what
they do to memory is no token. -/
def Core.squashExit (c : Core) (t k : Nat) : Core :=
  { c with sites := tblMap c.sites fun _ x => x.squashExit t k
           wide := c.wide.filter fun w => !(w.beat.tid == t && w.beat.ctx == k)
           accesses := c.accesses.map fun a => if a.tid == t && a.ctx == k then { a with gone := true } else a }

/-- A thread's requests withdrawn from the waiting list, and grants it had not used given back (R322). A tile granted to an
ALLOC that the thread can come back to stays its own (R324). -/
def Core.withdraw (c : Core) (now t : Nat) : Core :=
  let c := { c with waiting := c.waiting.filter fun r => r.tid != t }
  let mine := c.grants.filter fun g => g.tid == t
  let c := mine.foldl (fun c g => match g.kind with
    | .acca _ _ _ => { c with banks := tblMap c.banks fun _ b =>
        if (b.holder == some t && b.first == g.num) then { b with holder := none, grantFrom := now + 1 } else b }
    | _ => c) c
  { c with grants := c.grants.filter fun g => !(g.tid == t && (match g.kind with
      | .alloc _ _ _ _ => false
      | _ => true)) }

/-- A tile that the ALLOC at a thread's last resume point granted and that is still FILLING is held for that ALLOC again
(R324). -/
def Core.regrant (c : Core) (t : Nat) : Core :=
  match (c.thread t).allocAt with
  | some (site, slot, i) =>
    let c := c.modThread t fun th => { th with allocAt := none }
    if (c.tile i).state == .filling && (c.tile i).owner == t then
      { c with grants := c.grants ++ [⟨.alloc site 0 slot (c.tile i).layout, t, i⟩] }
    else c
  | none => c

/-- Journaled banks of a thread copied back, and their granules given back (R266); a copy still under way is dropped. -/
def Core.restoreBanks (c : Core) (now t : Nat) : Core :=
  let c := { c with copies := c.copies.filter fun p => p.2.2 != t }
  c.banks.foldl (fun c b => if b.2.holder != some t then c else
    let c := match b.2.jrun with
      | some r => c.freeRun now r
      | none => c
    match b.2.journal with
    | some j => { c.modBank b.1 fun k => { k with words := j, journal := none, jrun := none } with
        mtRestore := satAdd c.mtRestore 1 32 }
    | none => c.modBank b.1 fun k => { k with jrun := none }) c

/-- A thread's journal copies dropped without copying back (R266). -/
def Core.dropJournals (c : Core) (now t : Nat) : Core :=
  let c := { c with copies := c.copies.filter fun p => p.2.2 != t }
  c.banks.foldl (fun c b => if b.2.holder != some t then c else
    let c := match b.2.jrun with
      | some r => c.freeRun now r
      | none => c
    c.modBank b.1 fun k => { k with journal := none, jrun := none }) c

/-- The IRREV bit of a thread set (R356). -/
def State.setIrrev (s : State) (core t : Nat) : State := s.modThread core t fun th => { th with irrev := true }

/-- A safe point that is a resume point passed (R364): the count restarts, the journal copies are freed and IRREV is cleared. -/
def State.passPoint (s : State) (core t : Nat) : State :=
  s.modCore core fun c => (c.dropJournals s.cycle t).modThread t fun th =>
    { th with safeAt := s.cycle, irrev := false }

/-- A resume point passed, to which a fault returns the thread (R364). -/
def State.resumePoint (s : State) (core t : Nat) (blk : BlockRef) (k : Option Nat) (tok : Slot) (items : List (SafeItem × Nat)) :
    State :=
  (s.passPoint core t).modThread core t fun th => { th with resume := ⟨blk, k⟩, token := tok, items, allocAt := none }

/-! ### Freezing a space (R375, R376) -/

/-- The threads that the selector has parked at an ALLOC, with their requests in the list (R180), have them withdrawn (R372); `hold` keeps
them parked. -/
def Core.withdrawParked (c : Core) (hold : Bool) : Core :=
  let mine := fun (t : Nat) => let th := c.thread t; th.st == .parked && !th.hold && th.pending.isNone
  { c with waiting := c.waiting.filter fun r => !mine r.tid
           threads := tblMap c.threads fun (t : Nat) (th : Thread) => if mine t then { th with hold := hold } else th }

/-- Whether a core runs a part of a frozen space. -/
def Core.standsFrozen (c : Core) : Bool := match c.part with
  | some p => c.frozen.contains p.space
  | none => false

/-- A thread that waits in a vector, gated or not, PARKED by a freeze; its bit stays (R375). -/
def Thread.freeze (t : Thread) : Thread :=
  if t.st == .waiting || t.st == .gated then { t with st := .parked, hold := true, inVec := true } else t

/-- The waiting threads of a part of a frozen space parked. -/
def Core.parkWaiting (c : Core) : Core :=
  if c.standsFrozen then { c with threads := tblMap c.threads fun _ th => th.freeze } else c

/-- A freeze reaches a core: its space is frozen there, and injection of the space's part stops. -/
def Core.freezeHere (c : Core) (space : Nat) : Core :=
  if c.frozen.contains space then c else
  let c := { c with frozen := space :: c.frozen }
  if (match c.part with
    | some p => p.space == space
    | none => false) then (c.withdrawParked true).parkWaiting else c

/-- Freeze a space from a core: at once there, on its way to every other core, and the owner is told once, with a notice. -/
def State.freezeTelling (s : State) (core space : Nat) (notice : List Nat) : State :=
  let s := s.modCore core fun c => c.freezeHere space
  if s.frozen.contains space then s else
  let s := { s with frozen := space :: s.frozen
                    freezing := s.freezing ++ ((List.range 384).filter (· != core)).map fun k => (⟨k, space⟩ : FreezeMsg) }
  match s.modl.owner with
  | some o => s.send o 0x50 0 (eventBody 2 notice)
  | none => s

/-- Freeze a space with the plain notice: the space and the code. -/
def State.freezeSpace (s : State) (core space code : Nat) : State := s.freezeTelling core space [space, code]

/-- Messages that a core has sent in this cycle: nothing that happens to the thread withdraws them (R165). -/
def Core.sent (c : Core) : List EndOp := c.endq.filter fun e => match e with
  | .send _ => true
  | _ => false

/-- A job restarted from its first byte (R164): it is no longer held. -/
def Job.restart (j : Job) : Job := { j with held := false, moved := false, got := [] }

/-! ### Taking a thread's fault (R322, R323, R355 to R361)

`raiseFault` is the one way a thread's exception is taken: the squash, the discard of what was not sent, and then, at once
unless a chunk of the thread is in flight (R266), `takeFault`, which restores its banks and does what the code's class says. -/

/-- Put a thread back in the vector of its last safe point (R323, R364), from a given cycle on; one whose gate is still closed waits for it
(R321). -/
def Core.requeue (c : Core) (t wake : Nat) : Core :=
  c.modThread t fun th => { th with
    st := if th.gate.isSome then .gated else .waiting, blk := th.resume.blk, wakeAt := wake, hold := false, moving := false, revoked := false, handler := false, inVec := false
    pending := none, parkAt := none, parkHead := none, exiting := none
    stubOut := 0
    rstep := match th.resume.k with
      | none => .none
      | some _ => .stub }

/-- Hold a thread at its last safe point (R355). -/
def Core.parkHeld (c : Core) (t : Nat) : Core :=
  c.modThread t fun th => { th with st := .parked, hold := true, pending := none, parkAt := none, parkHead := none, exiting := none }

/-- The handler block registered for a code (R357). -/
def Core.handlerOf (c : Core) (code : Nat) : Option BlockRef :=
  let r := tblGet 0 c.hnd code
  if r.getLsbD 63 then some ⟨bits r.toNat 27 12, bits r.toNat 11 0⟩ else none

/-- Enter the handler of a code: the record is written, and the thread waits in the handler's vector (R358). The bit is set
at the end of four cycles after the fault (R323). -/
def Core.enterHandler (c : Core) (now t : Nat) (h : BlockRef) (r : FaultRec) : Core :=
  c.modThread t fun th => { th with
    st := .waiting, blk := h, handler := true, hblk := h, record := some r, wakeAt := now + 5, pending := none, parkAt := none, parkHead := none
    rstep := .none, exiting := none, hold := false }

/-- The class of a code that a thread can raise (R354). -/
inductive FaultClass where
  | violation | parked | handled | restartable
  deriving DecidableEq, Repr

def faultClass (code : Nat) : FaultClass :=
  match code with
  | 0x13 | 0x14 => .parked
  | 0x32 => .restartable
  | 0x12 | 0x20 | 0x21 | 0x22 | 0x23 | 0x24 | 0x30 | 0x33 | 0x34 => .handled
  | _ => .violation

/-- A RANGE_TRANSIT that waits for its thread's chunks, once the move has ended: the record is never written, and its DETAIL says so. -/
def FaultRec.settled (r : FaultRec) : FaultRec := { r with detail := 1 }

/-- What follows a fault once the thread's chunks have completed: the banks go back, and the class decides (R355). A thread that could not
park within its maxsafe is parked with it, and the fault is delivered after resumption (R372); one whose range has come to rest meanwhile is
re-queued (R110). -/
def State.takeFault (s : State) (core t : Nat) (r : FaultRec) : State :=
  let now := s.cycle
  let s := s.modCore core fun c => (c.restoreBanks now t).releaseArea now t
  let c := s.core core
  let th := c.thread t
  let code := r.code
  if code = 0x30 && (c.preempt.isSome || c.standsFrozen) then
    s.modCore core fun c => (c.parkHeld t).modThread t fun th => { th with hold := c.standsFrozen, owed := some r }
  else if code = 0x13 && !th.handler && r.detail = 1 then s.modCore core fun c => c.requeue t (now + 1) else
  let handle := fun (s : State) =>
    if th.handler then (s.modCore core fun c => c.parkHeld t).freezeSpace core r.space code
    else match c.handlerOf code with
      | some h => s.modCore core fun c => c.enterHandler now t h r
      | none =>
        (s.modCore core fun c => (c.parkHeld t).modThread t fun th => { th with record := some r }).freezeSpace core r.space code
  match faultClass code with
  | .violation =>
    let s := s.modCore core fun c => (c.parkHeld t).modThread t fun th =>
      if th.handler then th else { th with record := some r }
    s.freezeSpace core r.space code
  | .parked => if th.handler then handle s else s.modCore core fun c => (c.parkHeld t).modThread t fun th =>
      { th with moving := code == 0x13, movedVa := r.addr, revoked := code == 0x14 }
  | .restartable =>
    if th.handler && !r.persist then
      s.modCore core fun c => c.modThread t fun th => { th with
        st := .waiting, blk := th.hblk, wakeAt := now + 5, pending := none, rstep := .none }
    else if r.persist || r.irrev then handle s
    else s.modCore core fun c => c.requeue t (now + 5)
  | .handled => handle s

/-- What a thread's slots wait for outside the core withdrawn: walks asked for, RPROBE's too where its result is squashed with the rest, and
starts (R322, R350). -/
def State.dropWaits (s : State) (core t : Nat) (probes : Bool) : State :=
  s.modDie (dieOf core) fun d =>
    { d with starts := d.starts.filter fun r => !(r.core == core && r.tid == t)
             granted := d.granted.filter fun r => !(r.core == core && r.tid == t)
             walks := (d.walks.map fun w => if w.core != core then w else { w with who := w.who.filter fun a => match a with
               | .slot _ _ _ u _ _ => u != t
               | .probe _ _ _ u _ _ _ => u != t || !probes
               | .access _ => true }).filter fun w => !w.who.isEmpty }

/-- The gate of a thread withdrawn, wherever its registration is. -/
def State.dropGate (s : State) (core t : Nat) : State :=
  match ((s.core core).thread t).gate with
  | none => s
  | some g =>
    (s.modDie (g.sync / 16384 % 4) fun d =>
      { d with gates := d.gates.filter fun x => !(x.core == core && x.tid == t)
               syncq := d.syncq.filter fun m => match m with
                 | .gate _ c u => !(c == core && u == t)
                 | _ => true }).modThread core t fun th => { th with gate := none }

/-- A number that is no thread's: that of a firing without heads, and of a job that no thread sent. -/
def noTid : Nat := 2048

/-- Raise a fault of a thread; what no thread fired faults nobody (log 18). A gate that an EXITS which has not completed asked for is withdrawn: the thread asks again. -/
def State.raiseFault (s : State) (core t : Nat) (r : FaultRec) : State :=
  if t = noTid then s else
  let now := s.cycle
  let r := { r with irrev := ((s.core core).thread t).irrev, tid := t }
  let s := s.dropWaits core t true
  let s := if ((s.core core).thread t).st == .inBlock then s.dropGate core t else s
  let s := s.modCore core fun c =>
    let c := ((c.squash t fun _ => true).withdraw now t).regrant t
    (c.modThread t fun th => { th with
      area := th.area.filter fun e => e.sent
      st := .parked, pending := some r, parkAt := none, parkHead := none, exiting := none }).leaveArea now t
  if (s.core core).chunks.any fun k => k.tid == t then s else s.takeFault core t r

/-- A record that names the firing's block, site, slot and context, and the space of the core's part. -/
def State.recHere (s : State) (code : Nat) : FaultRec :=
  { FaultRec.zero with
    code, space := match s.here.part with
      | some p => p.space
      | none => 0
    block := (s.here.ctx s.loc.ctx).blk.block, site := s.loc.site, slot := s.loc.slot, ctx := s.loc.ctx }

/-- The firing's site fires nothing more in this cycle (R203). -/
def State.spendSite (s : State) : State := s.modHereSite fun x => { x with fired := some s.cycle }

/-- A fault of the firing's thread; it is its site's firing in the cycle. -/
def State.faultHere (s : State) (t : Nat) (r : FaultRec) : State :=
  s.spendSite.raiseFault s.loc.core t r

end Sys2Proof.Machine
end

