-- ==== Sys2Proof/Machine/Operands.lean ====
section
/-! DEFINITION. The operand forms: lane types and lanes (R71, R214), and the source selectors (R55). -/

namespace Sys2Proof.Machine

/-! ### Lanes -/

/-- The lane width of a lane type: .s32 .n32 32, .s16 .n16 16, .s8 .n8 8 (R71). -/
def laneWidth (code : Nat) : Nat := if code < 2 then 32 else if code < 4 then 16 else 8

/-- Whether a lane type is signed (R71). -/
def laneSigned (code : Nat) : Bool := code % 2 == 0

/-- Lane i of width w (R4). -/
def lane (p : Payload) (w i : Nat) : Nat := p.toNat / 2 ^ (w * i) % 2 ^ w

/-- A payload from its lanes of width w, lane 0 first. -/
def ofLanes (w : Nat) (vs : List Nat) : Payload :=
  .ofNat 128 (vs.foldr (fun v acc => v % 2 ^ w + 2 ^ w * acc) 0)

/-- A payload from a function of the lane number. -/
def mapLanes (w : Nat) (f : Nat → Nat) : Payload := ofLanes w ((List.range (128 / w)).map f)

/-- The same value in every lane (R55). -/
def fillLanes (w v : Nat) : Payload := mapLanes w fun _ => v

/-- The lane type field of class L (R71). -/
def ltype (w : SlotWord) : Nat := w.mod.toNat % 8

/-- The .sat bit of classes L and F (R71). -/
def satBit (w : SlotWord) : Bool := w.mod.getLsbD 3

/-- num(x, i) of R214. -/
def laneNum (t : Nat) (p : Payload) (i : Nat) : Int :=
  if laneSigned t then sext (lane p (laneWidth t) i) (laneWidth t) else (lane p (laneWidth t) i : Int)

/-- put(v) of R214. -/
def lanePut (t : Nat) (sat : Bool) (v : Int) : Nat :=
  if sat then (if laneSigned t then sats v (laneWidth t) else satn v (laneWidth t)) else wrap v (laneWidth t)

/-! ### Sources -/

/-- What a firing reads: the values of SA, SB and SC, its thread, and the heads by input. -/
structure Ops where
  a     : Payload
  b     : Payload
  c     : Payload
  tid   : Nat
  heads : Tbl Token
  deriving DecidableEq, Repr

/-- Whether a source reads nothing (R55, selector 14). -/
def isNone (x : Src) : Bool := x == .zero

/-- The thread of a firing: the heads it reads or dequeues carry it; without one it is a free value (R35, log 2). -/
def firingTid (s : State) (w : SlotWord) : Option Nat :=
  match headsOf s.here s.cycle s.loc.site s.loc.ctx (inputsUsed w) with
  | some (t :: _) => some t.tid
  | _ => none

/-- The space of the core's part (R55). -/
def State.hereSpace (s : State) : Nat := match s.here.part with
  | some p => p.space
  | none => 0

/-- Whether the firing's block is privileged (R61). -/
def State.herePriv (s : State) : Bool := (s.here.ctx s.loc.ctx).priv

/-- The cycle counter of a core (R55). -/
def State.coreCycle (s : State) (c : Nat) : Nat := (s.cycle - (s.core c).start) % 2 ^ 64

/-- The value a source selector supplies (R55); `w` is the lane width that a literal fills. -/
def srcValue (s : State) (word : SlotWord) (w tid : Nat) (x : Src) : Val :=
  match x with
  | .d n => s.hereCtx.d n.val
  | .i n => match s.here.head s.cycle s.loc.site s.loc.ctx n.val with
    | some t => t.val
    | none => mkVal 0
  | .wa | .wb | .zero => mkVal 0
  | .lit => mkVal (fillLanes w word.imm.toNat)
  | .tid => mkVal (fillLanes 32 tid)
  | .bid => mkVal (fillLanes 32 (s.here.ctx s.loc.ctx).blk.block)
  | .sid => mkVal (fillLanes 32 s.loc.site)
  | .ctx => mkVal (fillLanes 32 s.loc.ctx)
  | .cyc => mkVal (fillLanes 32 (s.coreCycle s.loc.core))
  | .lix => mkVal (ofLanes 32 [0, 1, 2, 3])
  | .spc => mkVal (fillLanes 32 s.hereSpace)
  | .cid => mkVal (fillLanes 32 s.loc.core)

/-- Whether a source is the thread-id selector of a firing that has no thread: a free value (log 2). -/
def readsFreeTid (s : State) (w : SlotWord) : Bool :=
  (w.sa == .tid || w.sb == .tid || w.sc == .tid) && (firingTid s w).isNone

/-- The thread id that the sources of a firing see. -/
def sourceTid (s : State) (w : SlotWord) : Nat :=
  match firingTid s w with
  | some t => t
  | none => Config.free s.freeNo % 2048

/-- The sources of a firing, read at the start of the cycle (R204). -/
def readOps (s : State) (w : SlotWord) (width : Nat) : Ops :=
  let t := sourceTid s w
  { a := (srcValue s w width t w.sa).bits, b := (srcValue s w width t w.sb).bits, c := (srcValue s w width t w.sc).bits
    tid := (firingTid s w).getD noTid
    heads := [0, 1, 2, 3].filterMap fun n => (s.here.head s.cycle s.loc.site s.loc.ctx n).map fun h => (n, h) }

/-- The sources whose residue does not agree with their value (R210): the storage code and number of R359. -/
def residueFault (s : State) (w : SlotWord) : Option (Nat × Nat) :=
  [w.sa, w.sb, w.sc].findSome? fun x => match x with
    | .d n => if (s.hereCtx.d n.val).ok then none else some (2, n.val)
    | .i n => match s.here.head s.cycle s.loc.site s.loc.ctx n.val with
      | some t => if t.val.ok then none else some (1, 0)
      | none => none
    | _ => none

end Sys2Proof.Machine
end

