-- ==== Sys2Proof/Machine/Flags.lean ====
section
/-! DEFINITION. What a firing leaves: predicates (R34, R54, R56), removed heads and scale latches (R204, R234), results in
flight (R201, R204), and the generic conditions of eligibility (R202). -/

namespace Sys2Proof.Machine

/-! ### Predicates -/

/-- The predicates with one bit given. -/
def setPred (p : BitVec 8) (k : Nat) (v : Bool) : BitVec 8 :=
  if v then p ||| (1#8 <<< k) else p &&& ~~~(1#8 <<< k)

/-- What PU makes of a result (R56). -/
def puValue (u : PredUpd) (r : Payload) (w : Nat) : Bool :=
  match u with
  | .none => false
  | .lane0 => lane r w 0 != 0
  | .any => r != 0
  | .all => (List.range (128 / w)).all fun i => lane r w i != 0

/-- Predicates after a firing (R34, R217): PSET's writes, then PU, then SQ. -/
def nextPreds (p : BitVec 8) (w : SlotWord) (mask vals : BitVec 8) (r : Payload) (width : Nat) (sq : Bool) : BitVec 8 :=
  let p := (p &&& ~~~mask) ||| (vals &&& mask)
  let p := if w.pu == .none then p else setPred p w.pd.toNat (puValue w.pu r width)
  if !sq then p else
  match w.sq with
  | .none => p
  | .set => setPred p w.ps.toNat true
  | .clr => setPred p w.ps.toNat false
  | .tog => setPred p w.ps.toNat (!p.getLsbD w.ps.toNat)

/-- Whether every tested predicate has its required value (R54). -/
def predsMeet (p : BitVec 8) (w : SlotWord) : Bool := p &&& w.pm == w.pv &&& w.pm

/-! ### Eligibility (R202) -/

/-- The guard of an input. -/
def guardAt (w : SlotWord) (n : Nat) : Guard :=
  match n with
  | 0 => w.cg0
  | 1 => w.cg1
  | 2 => w.cg2
  | _ => w.cg3

/-- One channel guard (R54). -/
def guardMet (g : Guard) (h : Option Token) : Bool :=
  match g, h with
  | .off, _ => true
  | .any, some _ => true
  | .kind k, some t => t.kind == k
  | _, none => false

/-- The cycle offsets at which an instruction's tokens are placed: SXPK and ACCCV to an SX format place a second one. -/
def placements (i : Instr) (w : SlotWord) : List Nat :=
  match i, i.latency with
  | .sxpk _, _ => [6, 7]
  | .acccv _, _ => if 5 ≤ w.fmt.code then [10, 11] else [10]
  | _, .num n => [n]
  | _, _ => []

/-- Condition 7 of R202: every link that an output in OM drives has room for each token, and is not claimed. -/
def outputsFree (c : Core) (now k x : Nat) (w : SlotWord) (i : Instr) : Bool :=
  let site := c.site k
  let need := max 1 (placements i w).length
  (linksOf (site.ctx x).route w.om).all fun d =>
    need ≤ c.roomAt now k d && (placements i w).all fun p => !site.claimed d (now + p)

/-- The d-registers a slot reads or writes have no write pending (R205). -/
def noPending (site : Site) (x : Nat) (w : SlotWord) : Bool :=
  let used := fun (n : Fin 8) => w.sa == .d n || w.sb == .d n || w.sc == .d n || w.dr == some n
  site.flight.all fun f => match f.dr with
    | some n => !(f.ctx == x && used n)
    | none => true

/-- Whether one of some inputs has the head that a SAFE or TRAP read which fired and has not yet parked (R372). -/
def heldHead (c : Core) (now k x : Nat) (ns : List (Fin 4)) : Bool :=
  ns.any fun n => match c.head now k x n.val with
    | some t => (c.thread t.tid).parkHead == some (k, x, n.val)
    | none => false

/-- Conditions 1 to 8 of R202, of slot word `w` of instruction `i` in context `x` of site `k`. -/
def eligible (c : Core) (now k x : Nat) (w : SlotWord) (i : Instr) : Bool :=
  let site := c.site k
  let sc := site.ctx x
  (c.ctx x).valid now && site.fired != some now && predsMeet sc.preds w
    && ([0, 1, 2, 3].all fun n => guardMet (guardAt w n) (c.head now k x n))
    && (match headsOf c now k x (inputsUsed w) with
      | none => false
      | some ts => (match ts with
          | [] => true
          | t :: r => r.all fun u => u.tid == t.tid) && !heldHead c now k x (inputsUsed w))
    && outputsFree c now k x w i && noPending site x w

/-- What a slot that meets conditions 1 to 8 of R202 does when its site considers it: it fires; or it asks the allocator or a
walker for what it needs; or it is not ready (condition 9). -/
inductive Readiness where
  | fire | ask | wait
  deriving DecidableEq, Repr

/-! ### Results -/

/-- What a firing does with its result. -/
structure Fire where
  res   : Payload
  tag   : Fmt := .raw
  flags : BitVec 5 := 0
  /-- DQ and SQ are applied (R39, R216). -/
  last  : Bool := true
  /-- PU is applied. -/
  pu    : Bool := true
  mask  : BitVec 8 := 0
  vals  : BitVec 8 := 0
  width : Nat := 32
  /-- The token is emitted. -/
  emit  : Bool := true
  kind  : Option Kind := none
  deriving DecidableEq, Repr

/-- Scale latches after heads are dequeued (R234). -/
def latchAfter (x : SiteCtx) (heads : Tbl Token) (dq : BitVec 4) : SiteCtx :=
  heads.foldl (fun x h => if dq.getLsbD h.1 && h.2.kind == .scl then
    { x with latch := tblSet x.latch h.1 ⟨bits h.2.val.bits.toNat 7 0, bits h.2.val.bits.toNat 15 8, h.2.tid⟩ } else x) x

/-- The heads in DQ removed (R204), with their scales latched (R234). -/
def Site.dequeue (site : Site) (now x : Nat) (heads : Tbl Token) (dq : BitVec 4) : Site :=
  let site := site.modCtx x fun y => latchAfter y heads dq
  [0, 1, 2, 3].foldl (fun site n => if dq.getLsbD n then site.takeHead now x n else site) site

/-- A result in flight from this firing. -/
def flightOf (s : State) (tid : Nat) (due : Option Nat) (key : Nat) (om : BitVec 4) (dr : Option (Fin 8))
    (res : Payload) (kind : Kind) (tag : Fmt) (room : Bool) (flags : BitVec 5) : Flight :=
  { slot := s.loc.slot, ctx := s.loc.ctx, tid, due, ready := due.isSome, key, om, dr, room, flags
    tok := { val := mkVal res, kind, tag, ctx := s.loc.ctx, tid } }

/-- The site marked as having fired this cycle, and the slot's firing recorded (R203, R392). -/
def Site.mark (site : Site) (now x slot : Nat) : Site :=
  { site with fired := some now, starts := tblSet site.starts (16 * x + slot) now }

/-- The removal of heads, the predicates and the mark of a firing, without its results. -/
def fireHeads (s : State) (w : SlotWord) (o : Ops) (f : Fire) : State :=
  s.modHereSite fun site =>
    let site := if f.last then site.dequeue s.cycle s.loc.ctx o.heads w.dq else site
    let site := site.modCtx s.loc.ctx fun y =>
      { y with preds := nextPreds y.preds (if f.pu then w else { w with pu := .none }) f.mask f.vals f.res f.width f.last }
    site.mark s.cycle s.loc.ctx s.loc.slot

/-- Results put in flight. -/
def pushFlights (s : State) (fs : List Flight) : State :=
  s.modHereSite fun site => { site with flight := site.flight ++ fs }

/-- A firing of numbered latency (R204): heads, predicates, and the result on its way. -/
def fireWith (s : State) (w : SlotWord) (lat : Nat) (o : Ops) (f : Fire) : State :=
  let om := if f.emit then w.om else 0
  let s := if readsFreeTid s w then { s with freeNo := s.freeNo + 1 } else s
  let s := fireHeads s w o f
  if om == 0 && w.dr.isNone && f.flags == 0 then s
  else pushFlights s [flightOf s o.tid (some (s.cycle + lat)) 0 om w.dr f.res (f.kind.getD w.ok) f.tag true f.flags]

/-- A fault of the firing's thread; a firing without a thread does nothing (log 18). -/
def slotFault (s : State) (w : SlotWord) (code detail : Nat) : State :=
  match firingTid s w with
  | none => s.spendSite
  | some t => s.faultHere t { s.recHere code with detail }

/-- A SOFT_ERROR found in a source before the firing has any effect (R211); a firing without a thread does nothing. -/
def residueTrap (s : State) (w : SlotWord) (p : Nat × Nat) : State :=
  let s := s.modHere fun c => if p.1 = 2 then { c with elDreg := satAdd c.elDreg 1 16 } else { c with elHead := satAdd c.elHead 1 16 }
  match firingTid s w with
  | none => s.spendSite
  | some t => s.faultHere t { s.recHere 0x32 with persist := p.1 == 2, detail := p.1 * 2 ^ 60 + p.2 }

/-- A SOFT_ERROR found in a head that no source selector names. -/
def headTrap (s : State) (t : Nat) : State :=
  let s := s.modHere fun c => { c with elHead := satAdd c.elHead 1 16 }
  s.faultHere t { s.recHere 0x32 with detail := 2 ^ 60 }

/-- A firing whose result is a function of its sources: the shape of the control, move, integer and floating-point
instructions. -/
def fireOp (s : State) (w : SlotWord) (lat width : Nat) (f : Ops → Fire) : State :=
  match residueFault s w with
  | some p => residueTrap s w p
  | none => let o := readOps s w width; fireWith s w lat o (f o)

end Sys2Proof.Machine
end

