-- ==== Sys2Proof/Machine/Allocator.lean ====
section
/-! DEFINITION. The scratchpad, its pools, the waiting list and compaction (R167 to R182, R193, R266). -/

namespace Sys2Proof.Machine

/-! ### Granules and tile bytes (R167, R173) -/

/-- A byte of the scratchpad. -/
def Core.spByte (c : Core) (a : Nat) : Byte := (tblGet 0 c.granules (a / 32)).extractLsb' (8 * (a % 32)) 8

/-- The scratchpad with a byte written. -/
def Core.setSpByte (c : Core) (a : Nat) (v : Byte) : Core :=
  let g := (tblGet (0 : BitVec 256) c.granules (a / 32)).toNat
  { c with granules := tblSet c.granules (a / 32) (.ofNat 256 (setBits g (8 * (a % 32) + 7) (8 * (a % 32)) v.toNat)) }

/-- phys(b) of R173. -/
def physOff (layout b : Nat) : Nat :=
  if layout < 3 then b else let k := layout - 3; b ^^^ (bits b (9 + k) (7 + k) * 16)

/-- Bytes of a tile at logical offsets. -/
def Core.tileRead (c : Core) (t : Tile) (off n : Nat) : Bytes :=
  (List.range n).map fun i => c.spByte (32 * t.base + physOff t.layout (off + i))

/-- Bytes written to a tile at logical offsets. -/
def Core.tilePut (c : Core) (t : Tile) (off : Nat) (bs : Bytes) : Core :=
  match bs with
  | [] => c
  | b :: r => (c.setSpByte (32 * t.base + physOff t.layout off) b).tilePut t (off + 1) r

/-! ### Free granules (R179) -/

/-- The runs of granules that are taken: tiles, commit areas and journals, and runs freed in this cycle. -/
def Core.taken (c : Core) (now : Nat) : List (Nat × Nat) :=
  (c.tiles.filterMap fun t => if t.2.state == .empty then none else some (t.2.base, t.2.size))
    ++ c.runs ++ (c.freed.filter fun f => f.2.2 == now).map fun f => (f.1, f.2.1)

/-- Whether granules [g, g + n) are free. -/
def runFree (taken : List (Nat × Nat)) (g n : Nat) : Bool := taken.all fun r => g + n ≤ r.1 || r.1 + r.2 ≤ g

/-- The lowest run of n free granules of a pool: it begins at the pool's start or at the end of a taken run (R179). -/
def Core.findRun (c : Core) (now pool n : Nat) : Option Nat :=
  let p := c.pool pool
  let taken := c.taken now
  let starts := p.base :: taken.map fun r => r.1 + r.2
  let ok := starts.filter fun g => p.base ≤ g && g + n ≤ p.base + p.size && runFree taken g n
  match ok with
  | [] => none
  | g :: r => some (r.foldl min g)

/-- The free granules of a pool, one flag each, in order. -/
def Core.freeMap (c : Core) (now pool : Nat) : List Bool :=
  let p := c.pool pool
  let taken := c.taken now
  (List.range p.size).map fun i => runFree taken (p.base + i) 1

/-- The free granules of a pool, and the longest free run (R192). -/
def Core.freeCount (c : Core) (now pool : Nat) : Nat := ((c.freeMap now pool).filter id).length

def longestRun (fs : List Bool) (cur best : Nat) : Nat :=
  match fs with
  | [] => max cur best
  | true :: r => longestRun r (cur + 1) best
  | false :: r => longestRun r 0 (max cur best)

/-- The lowest EMPTY entry of the tile table (R172); an entry emptied in this cycle is granted from the next one on. -/
def Core.freeEntry (c : Core) : Option Nat :=
  (List.range 4096).find? fun i => (c.tile i).state == .empty

/-- The lowest run of n free banks (R193). -/
def Core.bankRun (c : Core) (now n : Nat) : Option Nat :=
  (List.range (193 - n)).find? fun b => (List.range n).all fun i =>
    (c.bank (b + i)).holder.isNone && decide ((c.bank (b + i)).grantFrom ≤ now)

/-! ### The waiting list (R178) -/

/-- The place of a request among those that arrive in one cycle: the selector's first, then by site and slot. -/
def ReqKind.rank (k : ReqKind) : Nat :=
  match k with
  | .commit => 0
  | .alloc site _ slot _ | .acca site _ slot | .grow site _ slot | .journal _ site slot => 1 + 16 * site + slot

/-- A request joins the list, after those that arrived before it; of two of one cycle and of equal rank, in two contexts of one slot, the one
that asks first stands first (DESIGN CHOICE, log 152). -/
def joinReq (l : List Req) (r : Req) : List Req :=
  match l with
  | [] => [r]
  | q :: t => if q.at_ == r.at_ && r.kind.rank < q.kind.rank then r :: q :: t else q :: joinReq t r

def Core.join (c : Core) (r : Req) : Core :=
  if c.waiting.any fun q => q.kind == r.kind && q.tid == r.tid then c else { c with waiting := joinReq c.waiting r }

/-- The head of a pool: its oldest request. -/
def Core.headReq (c : Core) (pool : Nat) : Option Req := c.waiting.find? fun r => r.pool == pool

/-! ### Grants (R179, R186, R193) -/

/-- The granules of a grant hold what the manual does not state (R186): free values. -/
def Core.clearRun (c : Core) (base n freeNo : Nat) : Core :=
  (List.range n).foldl (fun c i => { c with granules := tblSet c.granules (base + i) (Config.freeGranule (freeNo + i)) }) c

/-- Whether the head of a pool can be granted now, and where: the run, and the tile entry. -/
def Core.grantable (c : Core) (now pool : Nat) : Option (Req × Nat × Nat) :=
  if tblHas c.grantedAt pool && tblGet 0 c.grantedAt pool == now then none else
  if c.compact.any fun k => k.pool == pool then none else
  match c.headReq pool with
  | none => none
  | some r =>
    if pool = 16 then (c.bankRun now r.size).map fun b => (r, b, 0)
    else match c.findRun now pool r.size with
      | none => none
      | some g => if pool = 15 then some (r, g, 0) else (c.freeEntry).map fun e => (r, g, e)

/-- A grant made (R179): the tile is FILLING and its thread's own (R186), banks have their holder (R193), and the granules
of a commit area or a journal are taken from pool 15. -/
def State.grant (s : State) (core : Nat) (r : Req) (num entry : Nat) : State :=
  let now := s.cycle
  let space := match (s.core core).part with
    | some p => p.space
    | none => 0
  let s := s.modCore core fun c =>
    { c with waiting := c.waiting.erase r, grantedAt := tblSet c.grantedAt r.pool now, noCompact := c.noCompact.filter (· != r.pool) }
  match r.kind with
  | .alloc _ _ _ layout =>
    let s := s.modCore core fun c =>
      -- a thread that the selector parked at this ALLOC goes back to its block's vector (R180)
      let th := c.thread r.tid
      let c := if th.st == .parked && !th.hold && th.pending.isNone then c.requeue r.tid (now + 1) else c
      let c := c.clearRun num r.size s.freeNo
      let c := c.modTile entry fun t => { t with
        state := .filling, owner := r.tid, space, pool := r.pool, size := r.size, base := num, layout, cons := 0, wout := false, pinTo := 0 }
      { c with grants := c.grants ++ [⟨r.kind, r.tid, entry⟩] }
    { s with freeNo := s.freeNo + r.size }
  | .acca _ _ _ => s.modCore core fun c =>
      let c := (List.range r.size).foldl (fun c i => c.modBank (num + i) fun b =>
        { b with holder := some r.tid, first := num, count := r.size, journal := none, jrun := none }) c
      { c with grants := c.grants ++ [⟨r.kind, r.tid, num⟩] }
  | .commit => s.modCore core fun c =>
      ({ c with runs := (num, r.size) :: c.runs }).modThread r.tid fun th => { th with runs := th.runs ++ [(num, r.size)], commitHeld := true }
  | .grow _ _ _ => s.modCore core fun c =>
      ({ c with runs := (num, r.size) :: c.runs }).modThread r.tid fun th => { th with grown := th.grown ++ [(num, r.size)] }
  | .journal bank _ _ => s.modCore core fun c =>
      ({ c with runs := (num, r.size) :: c.runs, copies := c.copies ++ [(bank, now + 16, r.tid)] }).modBank bank fun b =>
        { b with jrun := some (num, r.size) }

/-! ### Compaction (R181) -/

/-- Whether a tile is pinned: FILLING or DRAINING, read by a matrix tile, or named by a read in flight; by a job's reads as well
(`State.pinned`). -/
def Core.pinned (c : Core) (now i : Nat) : Bool :=
  let t := c.tile i
  t.state == .filling || t.state == .draining || now ≤ t.pinTo || c.chunks.any fun k => k.tile == i && decide (now ≤ k.reads)

/-- The tiles of a pool in ascending order of BASE: a tile is its entry's POOL's, and no tile of another POOL is looked at, though an earlier
part may have left it in the pool's granules (DESIGN CHOICE, log 140). -/
def Core.poolTiles (c : Core) (pool : Nat) : List (Nat × Tile) :=
  (c.tiles.filter fun t => t.2.pool == pool && t.2.state != .empty).mergeSort fun a b => decide (a.2.base ≤ b.2.base)

/-- Where each unpinned tile moves: down to the end of the tile before it. -/
def compactMoves (pin : Nat → Bool) (at_ : Nat) (ts : List (Nat × Tile)) : List (Nat × Nat) :=
  match ts with
  | [] => []
  | (i, t) :: r =>
    if pin i || t.base ≤ at_ then compactMoves pin (max at_ (t.base + t.size)) r
    else (i, at_) :: compactMoves pin (at_ + t.size) r

/-- Whether a tile is being moved: from the start of its pool's compaction to its end (DESIGN CHOICE, log 140). -/
def Core.moving (c : Core) (i : Nat) : Bool := c.compact.any fun k => k.moves.any fun m => m.1 == i

/-- Whether compaction of a pool starts: the head fits in total and not in any run, and an entry is free. Pool 15, which holds commit areas
and no tile, is not compacted (DESIGN CHOICE, log 140). -/
def Core.mayCompact (c : Core) (now pool : Nat) : Bool :=
  pool < 15 && !(c.compact.any fun k => k.pool == pool) && !c.noCompact.contains pool && (match c.headReq pool with
    | some r => (c.findRun now pool r.size).isNone && decide (r.size ≤ c.freeCount now pool) && c.freeEntry.isSome
    | none => false)

/-- Compaction starts: 16 cycles and 2 for each granule moved. RUNS and MOVED count it here (DESIGN CHOICE, log 140). -/
def Core.startCompact (c : Core) (now pool : Nat) (pin : Nat → Bool) : Core :=
  let moves := compactMoves pin (c.pool pool).base (c.poolTiles pool)
  let n := (moves.map fun m => (c.tile m.1).size).sum
  { c with compact := c.compact ++ [⟨pool, now + 16 + 2 * n, moves⟩], alcRuns := satAdd c.alcRuns 1 32, alcMoved := satAdd c.alcMoved n 32 }

/-- A granule moved. -/
def Core.moveGranules (c : Core) (src dst n : Nat) : Core :=
  (List.range n).foldl (fun c i => { c with granules := tblSet c.granules (dst + i) (tblGet 0 c.granules (src + i)) }) c

/-- A compaction ends: only BASE changes (R181). The pool is not compacted again until a tile of it is freed or unpinned. -/
def Core.endCompact (c : Core) (k : Compaction) : Core :=
  let c := k.moves.foldl (fun c m =>
    let t := c.tile m.1
    (c.moveGranules t.base m.2 t.size).modTile m.1 fun t => { t with base := m.2 }) c
  { c with compact := c.compact.erase k, noCompact := k.pool :: c.noCompact }

/-- A tile unpinned: its pool may be compacted again. -/
def Core.unpin (c : Core) (i : Nat) : Core := { c with noCompact := c.noCompact.filter (· != (c.tile i).pool) }

/-! ### Tile states (R171) -/

/-- A tile returns to EMPTY: its generation rises and its granules are freed. -/
def Core.emptyTile (c : Core) (now i : Nat) : Core :=
  let t := c.tile i
  let c := { c with freed := (t.base, t.size, now) :: c.freed.filter fun f => f.2.2 == now
                    noCompact := c.noCompact.filter (· != t.pool) }
  c.modTile i fun t => { t with state := .empty, gen := (t.gen + 1) % 16, cons := 0, wout := false }

def Core.sealTile (c : Core) (i n : Nat) : Core :=
  if (c.tile i).state == .filling then
    (c.modTile i fun t => { t with state := .ready, cons := n }).unpin i
  else c

/-- RELEASE at its end of cycle. A second one of the same cycle finds the tile as the first has left it (DESIGN CHOICE, log 141). -/
def Core.releaseTile (c : Core) (now i : Nat) : Core :=
  let t := c.tile i
  if t.state != .ready then c
  else if 1 < t.cons then c.modTile i fun t => { t with cons := t.cons - 1 }
  else if t.wout then c.modTile i fun t => { t with state := .draining, cons := 0 }
  else c.emptyTile now i

/-- RETAIN at its end of cycle: a second one of the same cycle counts too, up to 255 (DESIGN CHOICE, log 141). -/
def Core.retainTile (c : Core) (i : Nat) : Core :=
  c.modTile i fun t => if t.state == .ready then { t with cons := min 255 (t.cons + 1) } else t

/-! ### Banks (R262, R263) -/

/-- The chunks in flight on a bank in a cycle: those fired before it (R259). -/
def Core.inflight (c : Core) (now b : Nat) : Nat :=
  (c.chunks.filter fun k => (k.bank == b || k.bank + 1 == b) && decide (k.fired < now)).length

/-- A bank freed: it can be granted from the next cycle on, and its journal is discarded (R193, R266). -/
def Core.freeBank (c : Core) (now b : Nat) : Core :=
  let c := match (c.bank b).jrun with
    | some r => c.freeRun now r
    | none => c
  { c.modBank b (fun k => { k with holder := none, journal := none, jrun := none, grantFrom := now + 1 }) with
    copies := c.copies.filter fun p => p.1 != b
    waiting := c.waiting.filter fun q => match q.kind with
      | .journal k _ _ => k != b
      | _ => true }

end Sys2Proof.Machine
end

