-- ==== Sys2Proof/Machine/Control.lean ====
section
/-! DEFINITION. The control and move instructions (R36, R215 to R218). -/

namespace Sys2Proof.Machine

/-- The lane width of a class L word. -/
def lwidth (w : SlotWord) : Nat := laneWidth (ltype w)

/-- SEL's result (R36). -/
def selResult (w : Nat) (a b c : Payload) : Payload :=
  mapLanes w fun i => if lane a w i != 0 then lane b w i else lane c w i

/-- SELK's result (R215). -/
def selkResult (a b c : Payload) : Payload := if lane a 32 0 != 0 then b else c

/-- LANE's result (R215). -/
def laneResult (w : Nat) (a b : Payload) : Payload := mapLanes w fun _ => lane a w (lane b w 0 % (128 / w))

/-- SHUF's result (R215). -/
def shufResult (w : Nat) (a b : Payload) : Payload := mapLanes w fun i => lane a w (lane b w i % (128 / w))

/-- PLOG's result (R217): the truth-table bit that two predicates pick. -/
def plogResult (imm : BitVec 32) (p : BitVec 8) : Payload :=
  let pa := (p.getLsbD (bits imm.toNat 6 4)).toNat
  let pb := (p.getLsbD (bits imm.toNat 9 7)).toNat
  ofLanes 32 [(imm.getLsbD (2 * pb + pa)).toNat]

/-- PACK's narrowing of one value (R218). -/
def narrow (t : Nat) (sat : Bool) (v : Int) : Nat :=
  let h := laneWidth t / 2
  if sat then (if laneSigned t then sats v h else satn v h) else wrap v h

/-- PACK's result (R218). -/
def packResult (t : Nat) (sat : Bool) (a b : Payload) : Payload :=
  let n := 128 / laneWidth t
  mapLanes (laneWidth t / 2) fun i => if i < n then narrow t sat (laneNum t a i) else narrow t sat (laneNum t b (i - n))

/-- UNPK's result (R218). -/
def unpkResult (t : Nat) (a b : Payload) : Payload :=
  let w := laneWidth t
  let n := 128 / w
  let h := lane b w 0 % 2
  mapLanes (2 * w) fun i => wrap (laneNum t a (h * (n / 2) + i)) (2 * w)

/-- The head that a source names. -/
def headOf (o : Ops) (x : Src) : Option Token :=
  match x with
  | .i n => (o.heads.find? fun h => h.1 == n.val).map (·.2)
  | _ => none

/-- GETS' result (R218). -/
def getsResult (h : Option Token) : Payload :=
  match h with
  | some t => ofLanes 32 [t.tid, t.kind.code, t.tag.code, t.ctx]
  | none => 0

/-- MOV. -/
def execMov (w : SlotWord) (s : State) : Host.Outcome State Fault Refusal :=
  .next (fireOp s w 1 32 fun o => { res := o.a, tag := w.fmt })

/-- MOVI. -/
def execMovi (w : SlotWord) (s : State) : Host.Outcome State Fault Refusal :=
  .next (fireOp s w 1 32 fun _ => { res := ofLanes 32 [w.imm.toNat], tag := w.fmt })

/-- SEL. -/
def execSel (w : SlotWord) (s : State) : Host.Outcome State Fault Refusal :=
  .next (fireOp s w 1 (lwidth w) fun o => { res := selResult (lwidth w) o.a o.b o.c, tag := w.fmt, width := lwidth w })

/-- SELK. -/
def execSelk (w : SlotWord) (s : State) : Host.Outcome State Fault Refusal :=
  .next (fireOp s w 1 32 fun o => { res := selkResult o.a o.b o.c, tag := w.fmt })

/-- DROP: it has no result, so a register that its word names is not written (R215, R218). -/
def execDrop (w : SlotWord) (s : State) : Host.Outcome State Fault Refusal :=
  .next (fireOp s { w with dr := none } 1 32 fun _ => { res := 0, emit := false })

/-- The firings that an EMIT slot has left after this one (R216). -/
def emitLeft (s : State) (w : SlotWord) : Nat :=
  match s.hereCtx.emit.find? fun e => e.1 == s.loc.slot with
  | some (_, n, _) => n - 1
  | none => bits w.imm.toNat 7 0 - 1

/-- EMIT (R216): one token a firing; DQ and SQ on the last. -/
def execEmit (w : SlotWord) (s : State) : Host.Outcome State Fault Refusal :=
  let left := emitLeft s w
  let t := sourceTid s w
  let s1 := fireOp s w 1 32 fun o => { res := o.a, tag := w.fmt, last := left == 0 }
  if (residueFault s w).isSome then .next s1 else
  .next (s1.modHereCtx fun y =>
    { y with emit := if left = 0 then tblDel y.emit s.loc.slot else tblSet y.emit s.loc.slot (left, t) })

/-- PLOG. -/
def execPlog (w : SlotWord) (s : State) : Host.Outcome State Fault Refusal :=
  .next (fireOp s w 1 32 fun _ => { res := plogResult w.imm s.hereCtx.preds })

/-- PSET. Its word may set PU, though it has no result to test: IMM in every 32-bit lane is tested (DESIGN CHOICE, log 126). -/
def execPset (w : SlotWord) (s : State) : Host.Outcome State Fault Refusal :=
  .next (fireOp s w 1 32 fun o =>
    { res := o.a, mask := .ofNat 8 (bits w.imm.toNat 7 0), vals := .ofNat 8 (bits w.imm.toNat 15 8), emit := false })

/-- PTEST. -/
def execPtest (w : SlotWord) (s : State) : Host.Outcome State Fault Refusal :=
  .next (fireOp s w 1 (lwidth w) fun o => { res := o.a, width := lwidth w, emit := false })

/-- LANE. -/
def execLane (w : SlotWord) (s : State) : Host.Outcome State Fault Refusal :=
  .next (fireOp s w 1 (lwidth w) fun o => { res := laneResult (lwidth w) o.a o.b, tag := w.fmt, width := lwidth w })

/-- SHUF. -/
def execShuf (w : SlotWord) (s : State) : Host.Outcome State Fault Refusal :=
  .next (fireOp s w 1 (lwidth w) fun o => { res := shufResult (lwidth w) o.a o.b, tag := w.fmt, width := lwidth w })

/-- PACK. -/
def execPack (w : SlotWord) (s : State) : Host.Outcome State Fault Refusal :=
  .next (fireOp s w 2 (lwidth w) fun o => { res := packResult (ltype w) (satBit w) o.a o.b })

/-- UNPK. -/
def execUnpk (w : SlotWord) (s : State) : Host.Outcome State Fault Refusal :=
  .next (fireOp s w 2 (lwidth w) fun o => { res := unpkResult (ltype w) o.a o.b })

/-- GETS. -/
def execGets (w : SlotWord) (s : State) : Host.Outcome State Fault Refusal :=
  .next (fireOp s w 1 32 fun o => { res := getsResult (headOf o w.sa) })

/-- TAGF. -/
def execTagf (w : SlotWord) (s : State) : Host.Outcome State Fault Refusal :=
  .next (fireOp s w 1 32 fun o => { res := o.a, tag := match headOf o w.sa with
    | some t => t.tag
    | none => .raw })

end Sys2Proof.Machine
end

