-- ==== Sys2Proof/Machine/Float.lean ====
section
/-! DEFINITION. Number formats and exact arithmetic with one rounding (R224 to R230, R236 to R242). A value is a sign, a
magnitude m × 2^e and a mark that the magnitude lies strictly between m × 2^e and (m + 1) × 2^e. -/

namespace Sys2Proof.Machine

/-- A scalar floating format (R224). -/
structure FpFmt where
  ebits : Nat
  mbits : Nat
  bias  : Nat
  /-- E4M3 has no infinity, and its only NaN is all ones. -/
  e4m3  : Bool
  /-- A NaN with the top mantissa bit clear is signalling (R225). -/
  snan  : Bool
  deriving DecidableEq, Repr

def fpF32 : FpFmt := ⟨8, 23, 127, false, true⟩
def fpBF16 : FpFmt := ⟨8, 7, 127, false, true⟩
def fpE4M3 : FpFmt := ⟨4, 3, 7, true, false⟩
def fpE5M2 : FpFmt := ⟨5, 2, 15, false, false⟩

/-- The format of a tag 1 to 4; the others have none and are read as F32. -/
def fpOf (f : Fmt) : FpFmt :=
  match f with
  | .bf16 => fpBF16
  | .e4m3 => fpE4M3
  | .e5m2 => fpE5M2
  | _ => fpF32

/-- The bits of an element of a format. -/
def FpFmt.width (f : FpFmt) : Nat := 1 + f.ebits + f.mbits

/-- A number read from a format. -/
inductive Num where
  | nan (signalling : Bool)
  | inf (neg : Bool)
  | fin (neg : Bool) (m : Nat) (e : Int)
  deriving DecidableEq, Repr

/-- val(f, bits) of R7. -/
def fpDecode (f : FpFmt) (x : Nat) : Num :=
  let man := x % 2 ^ f.mbits
  let ex := x / 2 ^ f.mbits % 2 ^ f.ebits
  let neg := bit x (f.ebits + f.mbits)
  let top := 2 ^ f.ebits - 1
  if f.e4m3 then
    if ex = top && man = 7 then .nan false
    else if ex = 0 then .fin neg man (1 - f.bias - f.mbits)
    else .fin neg (2 ^ f.mbits + man) ((ex : Int) - f.bias - f.mbits)
  else if ex = top then
    if man = 0 then .inf neg else .nan (f.snan && man < 2 ^ (f.mbits - 1))
  else if ex = 0 then .fin neg man (1 - f.bias - f.mbits)
  else .fin neg (2 ^ f.mbits + man) ((ex : Int) - f.bias - f.mbits)

/-- The canonical NaN (R225). -/
def fpNaN (f : FpFmt) : Nat :=
  if f.e4m3 then 0x7F else (2 ^ f.ebits - 1) * 2 ^ f.mbits + 2 ^ (f.mbits - 1)

/-- A sign bit in place. -/
def fpSign (f : FpFmt) (neg : Bool) : Nat := if neg then 2 ^ (f.ebits + f.mbits) else 0

/-- An infinity; in E4M3, which has none, the NaN (R239). -/
def fpInf (f : FpFmt) (neg : Bool) : Nat :=
  if f.e4m3 then 0x7F else fpSign f neg + (2 ^ f.ebits - 1) * 2 ^ f.mbits

/-- The largest finite magnitude (R224). -/
def fpMax (f : FpFmt) (neg : Bool) : Nat :=
  fpSign f neg + (if f.e4m3 then 0x7E else (2 ^ f.ebits - 1) * 2 ^ f.mbits - 1)

/-! ### Flags (R230, R231) -/

def flagNV : BitVec 5 := 16
def flagDZ : BitVec 5 := 8
def flagOF : BitVec 5 := 4
def flagUF : BitVec 5 := 2
def flagNX : BitVec 5 := 1

/-! ### Rounding -/

/-- Rounding modes by code (R71): .rne, .rtz, .rup, .rdn. -/
inductive Mode where
  | rne | rtz | rup | rdn
  deriving DecidableEq, Repr

def Mode.ofCode (n : Nat) : Mode :=
  match n % 4 with
  | 0 => .rne
  | 1 => .rtz
  | 2 => .rup
  | _ => .rdn

/-- A magnitude m × 2^e, `more` when a smaller positive amount is to be added, rounded to a multiple of 2^q: the multiple,
and whether it differs. -/
def roundTo (mode : Mode) (neg : Bool) (m : Nat) (e : Int) (more : Bool) (q : Int) : Nat × Bool :=
  if q ≤ e then
    let r := m * 2 ^ (e - q).toNat
    (r + (if more && ((mode == .rup && !neg) || (mode == .rdn && neg)) then 1 else 0), more)
  else
    let k := min (q - e).toNat (Nat.log2 m + 3)
    let lo := m % 2 ^ k
    let hi := m / 2 ^ k
    let half := 2 ^ (k - 1)
    let inexact := lo != 0 || more
    let up := match mode with
      | .rne => decide (half < lo) || (lo == half && (more || hi % 2 == 1))
      | .rtz => false
      | .rup => inexact && !neg
      | .rdn => inexact && neg
    (hi + (if up then 1 else 0), inexact)

/-- Whether overflow in a direction gives an infinity (R229). -/
def overToInf (mode : Mode) (neg : Bool) : Bool :=
  match mode with
  | .rne => true
  | .rtz => false
  | .rup => !neg
  | .rdn => neg

/-- rnd(f, mode, sat, x) of R228 and R229, for a nonzero x, with its flags (R230). `conv` marks the 8-bit destinations of
R239, whose overflow does not depend on the mode. Tininess is found after rounding, with the exponent unbounded (log 12). -/
def fpRound (f : FpFmt) (mode : Mode) (sat conv : Bool) (neg : Bool) (m : Nat) (e : Int) (more : Bool) : Nat × BitVec 5 :=
  let big : Int := e + Nat.log2 m
  let qmin : Int := 1 - f.bias - f.mbits
  let q := max (big - f.mbits) qmin
  let (r, nx) := roundTo mode neg m e more q
  let top : Int := (if f.e4m3 then 2 ^ f.ebits - 1 else 2 ^ f.ebits - 2 : Nat)
  let maxMan : Nat := if f.e4m3 then 14 else 2 ^ (f.mbits + 1) - 1
  let emaxQ : Int := top - f.bias - f.mbits
  let r' := if r = 2 ^ (f.mbits + 1) then 2 ^ f.mbits else r
  let q' := if r = 2 ^ (f.mbits + 1) then q + 1 else q
  if emaxQ < q' || (q' = emaxQ && maxMan < r') then
    let fl := flagOF ||| flagNX
    if sat then (fpMax f neg, fl)
    else if conv then (fpInf f neg, fl)
    else if overToInf mode neg then (fpInf f neg, fl) else (fpMax f neg, fl)
  else
    let tiny := nx && decide (big < 1 - (f.bias : Int)) &&
      (decide (big < -(f.bias : Int)) || decide ((roundTo mode neg m e more (big - f.mbits)).1 < 2 ^ (f.mbits + 1)))
    let enc := fpSign f neg + (if r' < 2 ^ f.mbits then r' else ((q' - qmin).toNat + 1) * 2 ^ f.mbits + (r' - 2 ^ f.mbits))
    (enc, (if nx then flagNX else 0) ||| (if tiny then flagUF else 0))

/-- The same for any exact x: an exact zero takes the sign given. -/
def fpRoundZ (f : FpFmt) (mode : Mode) (sat : Bool) (zneg : Bool) (neg : Bool) (m : Nat) (e : Int) (more : Bool) : Nat × BitVec 5 :=
  if m = 0 && !more then (fpSign f zneg, 0) else fpRound f mode sat false neg m e more

/-! ### Sums of products -/

/-- A term: a sign change and the factors of a product (one or two). -/
structure Term where
  neg : Bool
  xs  : List Num
  deriving DecidableEq, Repr

def Num.isNaN : Num → Bool
  | .nan _ => true
  | _ => false

def Num.isSNaN : Num → Bool
  | .nan b => b
  | _ => false

def Num.isInf : Num → Bool
  | .inf _ => true
  | _ => false

def Num.isZero : Num → Bool
  | .fin _ 0 _ => true
  | _ => false

def Num.neg : Num → Bool
  | .nan _ => false
  | .inf b => b
  | .fin b _ _ => b

/-- The sign of a term. -/
def Term.sign (t : Term) : Bool := t.xs.foldl (fun s x => xor s x.neg) t.neg

/-- The exact value of a finite term as a magnitude and an exponent. -/
def Term.exact (t : Term) : Nat × Int :=
  t.xs.foldl (fun p x => match x with
    | .fin _ m e => (p.1 * m, p.2 + e)
    | _ => p) (1, 0)

/-- The exact sum of terms rounded once, with its flags (R228, R236, R238): the shape of FADD to FMS, FSUM and FDOT. `dot`
marks FDOT, whose terms that are all −0 still sum to +0 (R238); no terms at all sum to +0 (log 13), and so
do terms that are all +0 under .rdn (DESIGN CHOICE, log 154). -/
def fpSum (f : FpFmt) (mode : Mode) (sat : Bool) (ts : List Term) (dot : Bool := false) : Nat × BitVec 5 :=
  let all := ts.flatMap (·.xs)
  let snan := all.any Num.isSNaN
  let bad := ts.any fun t => t.xs.any Num.isInf && t.xs.any Num.isZero
  let infs := ts.filter fun t => t.xs.any Num.isInf && !t.xs.any Num.isNaN && !t.xs.any Num.isZero
  let mixed := infs.any Term.sign && infs.any fun t => !t.sign
  if all.any Num.isNaN || bad || mixed then
    (fpNaN f, if snan || bad || mixed then flagNV else 0)
  else match infs with
    | t :: _ => (fpInf f t.sign, 0)
    | [] =>
      let fs := ts.map fun t => (t.sign, t.exact)
      let parts := fs.filter fun p => p.2.1 != 0
      let e := parts.foldl (fun m p => min m p.2.2) (match parts with
        | [] => 0
        | p :: _ => p.2.2)
      let v : Int := parts.foldl (fun s p =>
        let x : Int := (p.2.1 * 2 ^ (p.2.2 - e).toNat : Nat)
        if p.1 then s - x else s + x) 0
      let zneg := if parts.isEmpty then
          (!dot && !fs.isEmpty && fs.all (·.1)) || (mode == .rdn && fs.any (·.1))
        else mode == .rdn
      fpRoundZ f mode sat zneg (decide (v < 0)) v.natAbs e false

/-! ### Quotients, roots, 2^x and log2 x -/

/-- The integer square root: the largest r with r² ≤ n, bit by bit from bit k down. -/
def isqrt (n : Nat) (k : Nat) (r : Nat := 0) : Nat :=
  let r' := if (r + 2 ^ k) * (r + 2 ^ k) ≤ n then r + 2 ^ k else r
  match k with
  | 0 => r'
  | k + 1 => isqrt n k r'

/-- A quotient of magnitudes with 96 further bits (R236). -/
def quot (m1 : Nat) (e1 : Int) (m2 : Nat) (e2 : Int) : Nat × Int × Bool :=
  (m1 * 2 ^ 96 / m2, e1 - e2 - 96, m1 * 2 ^ 96 % m2 != 0)

/-- A magnitude with an even exponent. -/
def evenExp (m : Nat) (e : Int) : Nat × Int := if e % 2 = 0 then (m, e) else (2 * m, e - 1)

/-- A square root with 64 further bits. -/
def sqrtMag (m : Nat) (e : Int) : Nat × Int × Bool :=
  let (m, e) := evenExp m e
  let n := m * 2 ^ 128
  let r := isqrt n (Nat.log2 n / 2 + 1)
  (r, e / 2 - 64, r * r != n)

/-- A reciprocal square root with 96 bits and more. -/
def rsqrtMag (m : Nat) (e : Int) : Nat × Int × Bool :=
  let (m, e) := evenExp m e
  let n := 2 ^ 256 / m
  let r := isqrt n (Nat.log2 n / 2 + 1)
  (r, -(e / 2) - 128, r * r * m != 2 ^ 256)

/-- The natural logarithm of 2, times 2^384, rounded down. -/
def ln2Fix : Nat := 27311389503436327984859642001965014295881604093268141717219425985154158335678826923825841039545353940567474963094288

/-- The terms x^k / k! from k on, x and the terms times 2^384, `fuel` of them summed. -/
def expSeries (x term k fuel : Nat) : Nat :=
  match fuel with
  | 0 => 0
  | fuel + 1 => term + expSeries x (term * x / 2 ^ 384 / (k + 1)) (k + 1) fuel

/-- The terms t^(2k+1) / (2k+1) from a power on, all times 2^384, `fuel` of them summed. -/
def atanhSeries (t2 pow k fuel : Nat) : Nat :=
  match fuel with
  | 0 => 0
  | fuel + 1 => pow / (2 * k + 1) + atanhSeries t2 (pow * t2 / 2 ^ 384) (k + 1) fuel

/-- 2^a of a finite nonzero a (R236): the exact power of two where a is an integer, else 384 fixed-point bits, of which the
first 256 are kept. The exponent is held within ±4096, where every format has over- or underflowed. -/
def exp2Mag (neg : Bool) (m : Nat) (e : Int) : Nat × Int × Bool :=
  -- a as a fixed-point number with 149 fractional bits, or an integer beyond every format's range
  let big := Nat.log2 m + e
  if 12 < big then (1, if neg then -4096 else 4096, false)
  else
    let fx : Nat := if 0 ≤ e + 160 then m * 2 ^ (e + 160).toNat else m / 2 ^ (-(e + 160)).toNat
    let v : Int := if neg then -(fx : Int) else fx
    let n := v / (2 ^ 160 : Nat)
    let frac := (v % (2 ^ 160 : Nat)).toNat
    if frac = 0 then (1, n, false)
    else
      let x := frac * 2 ^ 224 * ln2Fix / 2 ^ 384
      (expSeries x (2 ^ 384) 0 96 / 2 ^ 128, n - 256, true)

/-- log2 a of a finite positive a = m × 2^e (R236): a sign, and a magnitude with 256 fractional bits. -/
def log2Mag (m : Nat) (e : Int) : Bool × Nat × Int × Bool :=
  let k := Nat.log2 m
  let n : Int := e + k
  if m = 2 ^ k then (decide (n < 0), n.natAbs, 0, false)
  else
    -- y = m / 2^k lies strictly between 1 and 2; ln y = 2 atanh((y − 1) / (y + 1))
    let t := (m - 2 ^ k) * 2 ^ 384 / (m + 2 ^ k)
    let lny := 2 * atanhSeries (t * t / 2 ^ 384) t 0 130
    let l : Nat := lny * 2 ^ 256 / ln2Fix
    let v : Int := n * (2 ^ 256 : Nat) + (l : Int)
    if 0 ≤ v then (false, v.toNat, -256, true) else (true, (-v - 1).toNat, -256, true)

/-! ### Lane operations -/

/-- NaN operands give the canonical NaN, and a signalling one NV (R225, R230). -/
def nanOr (f : FpFmt) (xs : List Num) (r : Nat × BitVec 5) : Nat × BitVec 5 :=
  if xs.any Num.isNaN then (fpNaN f, if xs.any Num.isSNaN then flagNV else 0) else r

/-- FDIV's lane (R236); FRCP is FDIV of 1. -/
def fpDiv (f : FpFmt) (mode : Mode) (sat : Bool) (a b : Num) : Nat × BitVec 5 :=
  let s := xor a.neg b.neg
  nanOr f [a, b] <| match a, b with
    | .inf _, .inf _ => (fpNaN f, flagNV)
    | .inf _, _ => (fpInf f s, 0)
    | _, .inf _ => (fpSign f s, 0)
    | .fin _ m1 e1, .fin _ m2 e2 =>
      if m2 = 0 then (if m1 = 0 then (fpNaN f, flagNV) else (fpInf f s, flagDZ))
      else if m1 = 0 then (fpSign f s, 0)
      else
        let q := quot m1 e1 m2 e2
        fpRound f mode sat false s q.1 q.2.1 q.2.2
    | _, _ => (fpNaN f, 0)

/-- FSQRT's lane (R236). -/
def fpSqrt (f : FpFmt) (mode : Mode) (sat : Bool) (a : Num) : Nat × BitVec 5 :=
  nanOr f [a] <| match a with
    | .inf neg => if neg then (fpNaN f, flagNV) else (fpInf f false, 0)
    | .fin neg m e =>
      if m = 0 then (fpSign f neg, 0)
      else if neg then (fpNaN f, flagNV)
      else
        let q := sqrtMag m e
        fpRound f mode sat false false q.1 q.2.1 q.2.2
    | .nan _ => (fpNaN f, 0)

/-- FRSQ's lane (R236). -/
def fpRsqrt (f : FpFmt) (mode : Mode) (sat : Bool) (a : Num) : Nat × BitVec 5 :=
  nanOr f [a] <| match a with
    | .inf neg => if neg then (fpNaN f, flagNV) else (0, 0)
    | .fin neg m e =>
      if m = 0 then (fpInf f neg, flagDZ)
      else if neg then (fpNaN f, flagNV)
      else
        let q := rsqrtMag m e
        fpRound f mode sat false false q.1 q.2.1 q.2.2
    | .nan _ => (fpNaN f, 0)

/-- The value 1 in a format. -/
def numOne : Num := .fin false 1 0

/-- FEXP2's lane (R236). -/
def fpExp2 (f : FpFmt) (mode : Mode) (sat : Bool) (a : Num) : Nat × BitVec 5 :=
  nanOr f [a] <| match a with
    | .inf neg => if neg then (0, 0) else (fpInf f false, 0)
    | .fin neg m e =>
      if m = 0 then fpRound f mode sat false false 1 0 false
      else
        let q := exp2Mag neg m e
        fpRound f mode sat false false q.1 q.2.1 q.2.2
    | .nan _ => (fpNaN f, 0)

/-- FLOG2's lane (R236). -/
def fpLog2 (f : FpFmt) (mode : Mode) (sat : Bool) (a : Num) : Nat × BitVec 5 :=
  nanOr f [a] <| match a with
    | .inf neg => if neg then (fpNaN f, flagNV) else (fpInf f false, 0)
    | .fin neg m e =>
      if m = 0 then (fpInf f true, flagDZ)
      else if neg then (fpNaN f, flagNV)
      else
        let q := log2Mag m e
        fpRoundZ f mode sat false q.1 q.2.1 q.2.2.1 q.2.2.2
    | .nan _ => (fpNaN f, 0)

/-- FSCALE's lane (R236): n is held within ±4096, where every format has over- or underflowed. -/
def fpScale (f : FpFmt) (mode : Mode) (sat : Bool) (a : Num) (n : Int) : Nat × BitVec 5 :=
  nanOr f [a] <| match a with
    | .inf neg => (fpInf f neg, 0)
    | .fin neg m e => fpRoundZ f mode sat neg neg m (e + max (-4096) (min n 4096)) false
    | .nan _ => (fpNaN f, 0)

/-- FRND's lane (R236): an integer result keeps the operand's sign when it is zero. -/
def fpRint (f : FpFmt) (mode : Mode) (sat : Bool) (a : Num) : Nat × BitVec 5 :=
  nanOr f [a] <| match a with
    | .inf neg => (fpInf f neg, 0)
    | .fin neg m e =>
      if m = 0 then (fpSign f neg, 0)
      else if 0 ≤ e then fpRound f mode sat false neg m e false
      else
        let (r, nx) := roundTo mode neg m e false 0
        let out := fpRoundZ f mode sat neg neg r 0 false
        (out.1, out.2 ||| (if nx then flagNX else 0))
    | .nan _ => (fpNaN f, 0)

/-- Exact order of two numbers; −0 and +0 are equal (R225), and a NaN is less than nothing and nothing less than it (R237). -/
def numLt (a b : Num) : Bool :=
  match a, b with
  | .nan _, _ => false
  | _, .nan _ => false
  | .inf x, .inf y => x && !y
  | .inf x, _ => x
  | _, .inf y => !y
  | .fin x m e, .fin y n k =>
    let lo := min e k
    let u : Int := (m * 2 ^ (e - lo).toNat : Nat)
    let v : Int := (n * 2 ^ (k - lo).toNat : Nat)
    decide ((if x then -u else u) < (if y then -v else v))

def numEq (a b : Num) : Bool := !numLt a b && !numLt b a

/-- Order with −0 below +0 (R237). -/
def numLtZ (a b : Num) : Bool := numLt a b || (a.isZero && b.isZero && a.neg && !b.neg)

/-- FMIN and FMAX (R237), from the lanes' bits. -/
def fpMinMax (f : FpFmt) (isMax : Bool) (x y : Nat) : Nat × BitVec 5 :=
  let a := fpDecode f x
  let b := fpDecode f y
  let fl := if a.isSNaN || b.isSNaN then flagNV else 0
  if a.isNaN && b.isNaN then (fpNaN f, fl)
  else if a.isNaN then (y, fl)
  else if b.isNaN then (x, fl)
  else (if (if isMax then numLtZ a b else numLtZ b a) then y else x, fl)

/-- conv(e) of R239: an element converted to a format. -/
def fpConv (dst : FpFmt) (mode : Mode) (sat : Bool) (a : Num) : Nat × BitVec 5 :=
  match a with
  | .nan sn => (fpNaN dst, if sn then flagNV else 0)
  | .inf neg => if dst.e4m3 then (if sat then fpMax dst neg else fpNaN dst, 0) else (fpInf dst neg, 0)
  | .fin neg m e => if m = 0 then (fpSign dst neg, 0)
    else fpRound dst mode sat (dst.width == 8) neg m e false

/-! ### Shared-exponent blocks (R226, R227, R241) -/

/-- Magnitude bits of an SX format. -/
def sxBits (f : Fmt) : Nat :=
  match f with
  | .sx7 => 7
  | .sx4 => 4
  | _ => 2

/-- Element j of a block from E, D and the field (R226, R227). -/
def sxDecode (m e d j fld : Nat) : Num :=
  if e = 255 then .nan false
  else
    let mag := fld % 2 ^ m
    if mag = 0 then .fin false 0 0
    else .fin (bit fld m) mag ((e : Int) - 127 - bits d (2 * (j / 4) + 1) (2 * (j / 4)) - (m - 1))

/-- A block that SXPK delivers: E, D and the fields, with its flags. -/
structure SxBlock where
  e      : Nat
  d      : Nat
  fields : List Nat
  flags  : BitVec 5
  deriving DecidableEq, Repr

/-- q(j, E, u) of R241, and whether it differs from the exact value. -/
def sxQ (mode : Mode) (m : Nat) (x : Bool × Nat × Int) (e u : Nat) : Nat × Bool :=
  roundTo mode x.1 x.2.1 (x.2.2 + (m - 1) + 127 + u - e) false 0

def sxFits (mode : Mode) (m : Nat) (x : Bool × Nat × Int) (e u : Nat) : Bool := (sxQ mode m x e u).1 ≤ 2 ^ m - 1

/-- The smallest E from a start on at which every element fits; at most two more are ever needed. -/
def sxSearch (mode : Mode) (m : Nat) (xs : List (Bool × Nat × Int)) (e fuel : Nat) : Nat :=
  match fuel with
  | 0 => e
  | fuel + 1 => if xs.all fun x => sxFits mode m x e 0 then e else sxSearch mode m xs (e + 1) fuel

/-- sxpk of R241. -/
def sxPack (m : Nat) (mode : Mode) (sat : Bool) (xs : List Num) : SxBlock :=
  let nanBlock := fun (fl : BitVec 5) => ({ e := 255, d := 0, fields := List.replicate 16 0, flags := fl } : SxBlock)
  if xs.any Num.isNaN then nanBlock (if xs.any Num.isSNaN then flagNV else 0)
  else if xs.any Num.isInf && !sat then nanBlock flagNV
  else
    let vs : List (Bool × Nat × Int) := xs.map fun x => match x with
      | .fin n k e => (n, k, e)
      | .inf n => (n, 2 ^ 24 - 1, (104 : Int))
      | .nan _ => (false, 0, (0 : Int))
    if vs.all fun v => v.2.1 == 0 then { e := 0, d := 0, fields := List.replicate 16 0, flags := 0 }
    else
      let top := vs.foldl (fun (b : Int) (v : Bool × Nat × Int) => if v.2.1 = 0 then b else max b (v.2.2 + (Nat.log2 v.2.1 : Int))) (-1000 : Int)
      let e0 := sxSearch mode m vs (max 0 (top + 127)).toNat 8
      if 254 < e0 && !sat then nanBlock (flagOF ||| flagNX)
      else
        let e := min e0 254
        let fl0 : BitVec 5 := if 254 < e0 then flagOF ||| flagNX else 0
        let ds := [0, 1, 2, 3].map fun g =>
          let grp := (vs.drop (4 * g)).take 4
          match [3, 2, 1, 0].find? fun d => grp.all fun v => sxFits mode m v e d with
          | some d => d
          | none => 0
        let outs := (List.range 16).map fun j =>
          let v := vs.getD j (false, 0, 0)
          let (q, nx) := sxQ mode m v e (ds.getD (j / 4) 0)
          let g := min q (2 ^ m - 1)
          let fl := (if nx || g != q then flagNX else 0) ||| (if g = 0 && v.2.1 != 0 then flagUF else 0)
          (g + (if g != 0 && v.1 then 2 ^ m else 0), fl)
        { e, d := ds.getD 0 0 + 4 * ds.getD 1 0 + 16 * ds.getD 2 0 + 64 * ds.getD 3 0
          fields := outs.map (·.1), flags := outs.foldl (fun a o => a ||| o.2) fl0 }

end Sys2Proof.Machine
end

