-- ==== Sys2Proof/Machine/FloatOps.lean ====
section
/-! DEFINITION. The floating-point instructions (R235 to R242). -/

namespace Sys2Proof.Machine

/-- The format of a floating-point word, its element width, its rounding mode and .sat (R71, R235). -/
def fpFmtOf (w : SlotWord) : FpFmt := fpOf w.fmt
def fpWidth (w : SlotWord) : Nat := (fpFmtOf w).width
def fpMode (w : SlotWord) : Mode := Mode.ofCode w.mod.toNat

/-- Results of a list of elements, with their flags together. -/
def packFp (width : Nat) (rs : List (Nat × BitVec 5)) : Payload × BitVec 5 :=
  (ofLanes width (rs.map (·.1)), rs.foldl (fun a r => a ||| r.2) 0)

/-- A lane operation over the three sources. -/
def fpLanes (width : Nat) (f : Nat → Nat → Nat → Nat × BitVec 5) (a b c : Payload) : Payload × BitVec 5 :=
  packFp width ((List.range (128 / width)).map fun i => f (lane a width i) (lane b width i) (lane c width i))

/-- A floating-point firing: lanes of FMT's element width, a result with a tag and its flags. -/
def fireFp (s : State) (w : SlotWord) (lat : Nat) (tag : Fmt) (f : Ops → Payload × BitVec 5) : Host.Outcome State Fault Refusal :=
  .next (fireOp s w lat (fpWidth w) fun o => { res := (f o).1, tag, flags := (f o).2, width := fpWidth w })

/-- A sum of products in each lane (R236). -/
def fireTerms (s : State) (w : SlotWord) (ts : Num → Num → Num → List Term) : Host.Outcome State Fault Refusal :=
  let f := fpFmtOf w
  fireFp s w 4 w.fmt fun o => fpLanes (fpWidth w)
    (fun a b c => fpSum f (fpMode w) (satBit w) (ts (fpDecode f a) (fpDecode f b) (fpDecode f c))) o.a o.b o.c

/-- A function of the first two sources' lanes (R236). -/
def fireLane (s : State) (w : SlotWord) (lat : Nat) (g : FpFmt → Mode → Bool → Num → Num → Nat × BitVec 5) :
    Host.Outcome State Fault Refusal :=
  let f := fpFmtOf w
  fireFp s w lat w.fmt fun o => fpLanes (fpWidth w)
    (fun a b _ => g f (fpMode w) (satBit w) (fpDecode f a) (fpDecode f b)) o.a o.b o.c

/-- A compare in each lane (R237). -/
def fireFcmp (s : State) (w : SlotWord) (anyNaN : Bool) (r : Num → Num → Bool) : Host.Outcome State Fault Refusal :=
  let f := fpFmtOf w
  fireFp s w 2 .raw fun o => fpLanes (fpWidth w) (fun a b _ =>
    let x := fpDecode f a
    let y := fpDecode f b
    (if r x y then 2 ^ fpWidth w - 1 else 0,
      if x.isSNaN || y.isSNaN || (anyNaN && (x.isNaN || y.isNaN)) then flagNV else 0)) o.a o.b o.c

/-- FADD. -/
def execFadd (w : SlotWord) (s : State) : Host.Outcome State Fault Refusal :=
  fireTerms s w fun a b _ => [⟨false, [a]⟩, ⟨false, [b]⟩]

/-- FSUB. -/
def execFsub (w : SlotWord) (s : State) : Host.Outcome State Fault Refusal :=
  fireTerms s w fun a b _ => [⟨false, [a]⟩, ⟨true, [b]⟩]

/-- FMUL. -/
def execFmul (w : SlotWord) (s : State) : Host.Outcome State Fault Refusal :=
  fireTerms s w fun a b _ => [⟨false, [a, b]⟩]

/-- FMA. -/
def execFma (w : SlotWord) (s : State) : Host.Outcome State Fault Refusal :=
  fireTerms s w fun a b c => [⟨false, [a, b]⟩, ⟨false, [c]⟩]

/-- FNMA. -/
def execFnma (w : SlotWord) (s : State) : Host.Outcome State Fault Refusal :=
  fireTerms s w fun a b c => [⟨true, [a, b]⟩, ⟨false, [c]⟩]

/-- FMS. -/
def execFms (w : SlotWord) (s : State) : Host.Outcome State Fault Refusal :=
  fireTerms s w fun a b c => [⟨false, [a, b]⟩, ⟨true, [c]⟩]

/-- FMIN. -/
def execFmin (w : SlotWord) (s : State) : Host.Outcome State Fault Refusal :=
  fireFp s w 2 w.fmt fun o => fpLanes (fpWidth w) (fun a b _ => fpMinMax (fpFmtOf w) false a b) o.a o.b o.c

/-- FMAX. -/
def execFmax (w : SlotWord) (s : State) : Host.Outcome State Fault Refusal :=
  fireFp s w 2 w.fmt fun o => fpLanes (fpWidth w) (fun a b _ => fpMinMax (fpFmtOf w) true a b) o.a o.b o.c

/-- FABS. -/
def execFabs (w : SlotWord) (s : State) : Host.Outcome State Fault Refusal :=
  fireFp s w 1 w.fmt fun o => fpLanes (fpWidth w) (fun a _ _ => (a % 2 ^ (fpWidth w - 1), 0)) o.a o.b o.c

/-- FNEG. -/
def execFneg (w : SlotWord) (s : State) : Host.Outcome State Fault Refusal :=
  fireFp s w 1 w.fmt fun o => fpLanes (fpWidth w)
    (fun a _ _ => ((a + 2 ^ (fpWidth w - 1)) % 2 ^ fpWidth w, 0)) o.a o.b o.c

/-- FCMPEQ. -/
def execFcmpeq (w : SlotWord) (s : State) : Host.Outcome State Fault Refusal :=
  fireFcmp s w false fun x y => !x.isNaN && !y.isNaN && numEq x y

/-- FCMPLT. -/
def execFcmplt (w : SlotWord) (s : State) : Host.Outcome State Fault Refusal :=
  fireFcmp s w true fun x y => numLt x y

/-- FCMPLE. -/
def execFcmple (w : SlotWord) (s : State) : Host.Outcome State Fault Refusal :=
  fireFcmp s w true fun x y => !x.isNaN && !y.isNaN && !numLt y x

/-- FCMPUN. -/
def execFcmpun (w : SlotWord) (s : State) : Host.Outcome State Fault Refusal :=
  fireFcmp s w false fun x y => x.isNaN || y.isNaN

/-- FCLASS' bit (R237). -/
def fpClass (f : FpFmt) (x : Nat) : Nat :=
  let normal := x / 2 ^ f.mbits % 2 ^ f.ebits != 0
  match fpDecode f x with
  | .nan sn => if sn then 8 else 9
  | .inf neg => if neg then 0 else 7
  | .fin neg m _ =>
    if m = 0 then (if neg then 3 else 4)
    else if normal then (if neg then 1 else 6) else (if neg then 2 else 5)

/-- FCLASS. -/
def execFclass (w : SlotWord) (s : State) : Host.Outcome State Fault Refusal :=
  fireFp s w 1 .raw fun o => fpLanes (fpWidth w) (fun a _ _ => (2 ^ fpClass (fpFmtOf w) a, 0)) o.a o.b o.c

/-- FSCALE. -/
def execFscale (w : SlotWord) (s : State) : Host.Outcome State Fault Refusal :=
  let f := fpFmtOf w
  fireFp s w 2 w.fmt fun o => fpLanes (fpWidth w)
    (fun a b _ => fpScale f (fpMode w) (satBit w) (fpDecode f a) (sext b (fpWidth w))) o.a o.b o.c

/-- FRND. -/
def execFrnd (w : SlotWord) (s : State) : Host.Outcome State Fault Refusal :=
  fireLane s w 2 fun f m sat a _ => fpRint f m sat a

/-- FRCP. -/
def execFrcp (w : SlotWord) (s : State) : Host.Outcome State Fault Refusal :=
  fireLane s w 8 fun f m sat a _ => fpDiv f m sat numOne a

/-- FRSQ. -/
def execFrsq (w : SlotWord) (s : State) : Host.Outcome State Fault Refusal :=
  fireLane s w 8 fun f m sat a _ => fpRsqrt f m sat a

/-- FSQRT. -/
def execFsqrt (w : SlotWord) (s : State) : Host.Outcome State Fault Refusal :=
  fireLane s w 14 fun f m sat a _ => fpSqrt f m sat a

/-- FDIV. -/
def execFdiv (w : SlotWord) (s : State) : Host.Outcome State Fault Refusal :=
  fireLane s w 14 fun f m sat a b => fpDiv f m sat a b

/-- FEXP2. -/
def execFexp2 (w : SlotWord) (s : State) : Host.Outcome State Fault Refusal :=
  fireLane s w 10 fun f m sat a _ => fpExp2 f m sat a

/-- FLOG2. -/
def execFlog2 (w : SlotWord) (s : State) : Host.Outcome State Fault Refusal :=
  fireLane s w 10 fun f m sat a _ => fpLog2 f m sat a

/-- Every lane of the sources that are written (R238): a source encoded as 14 contributes no term. -/
def writtenLanes (w : SlotWord) (o : Ops) (width : Nat) : List Nat :=
  let of := fun (x : Src) (p : Payload) => if isNone x then [] else (List.range (128 / width)).map fun i => lane p width i
  of w.sa o.a ++ of w.sb o.b ++ of w.sc o.c

/-- FSUM. -/
def execFsum (w : SlotWord) (s : State) : Host.Outcome State Fault Refusal :=
  let f := fpFmtOf w
  fireFp s w 6 w.fmt fun o => packFp (fpWidth w)
    [fpSum f (fpMode w) (satBit w) ((writtenLanes w o (fpWidth w)).map fun x => ⟨false, [fpDecode f x]⟩)]

/-- FDOT. -/
def execFdot (w : SlotWord) (s : State) : Host.Outcome State Fault Refusal :=
  let f := fpFmtOf w
  fireFp s w 6 .f32 fun o =>
    let products : List Term := if isNone w.sa || isNone w.sb then [] else
      (List.range (128 / fpWidth w)).map fun i =>
        ⟨false, [fpDecode f (lane o.a (fpWidth w) i), fpDecode f (lane o.b (fpWidth w) i)]⟩
    let addend : List Term := if isNone w.sc then [] else [⟨false, [fpDecode fpF32 (lane o.c 32 0)]⟩]
    packFp 32 [fpSum fpF32 (fpMode w) (satBit w) (products ++ addend) true]

/-- FMAXA's lane 0 (R238). With every source 14 there is no lane to take a maximum of: +0 and no flag (DESIGN CHOICE, log 13). -/
def fpMaxAbs (f : FpFmt) (xs : List Nat) : Nat × BitVec 5 :=
  let ns := xs.map (fpDecode f)
  let fl := if ns.any Num.isSNaN then flagNV else 0
  if ns.any Num.isNaN then (fpNaN f, fl) else (xs.foldl (fun m x => max m (x % 2 ^ (f.width - 1))) 0, fl)

/-- FMAXA: magnitudes are in the order of their bits below the sign. -/
def execFmaxa (w : SlotWord) (s : State) : Host.Outcome State Fault Refusal :=
  fireFp s w 2 w.fmt fun o => packFp (fpWidth w) [fpMaxAbs (fpFmtOf w) (writtenLanes w o (fpWidth w))]

/-! ### Conversions -/

/-- cvt of R239. `open_` is the result where q is out of the range of the head's format, on which the manual gives no
result (log 14). -/
def cvtResult (src dst : Fmt) (mode : Mode) (sat : Bool) (q : Nat) (x : Payload) (open_ : Nat) : Payload × BitVec 5 :=
  let fd := fpOf dst
  let wd := fd.width
  let nd := 128 / wd
  match src with
  | .f32 | .bf16 | .e4m3 | .e5m2 =>
    let fs := fpOf src
    let ns := 128 / fs.width
    let el := fun i => fpConv fd mode sat (fpDecode fs (lane x fs.width i))
    if ns = nd then
      if q = 0 then packFp wd ((List.range ns).map el) else (.ofNat 128 open_, .ofNat 5 (open_ / 2 ^ 128))
    else if ns < nd then
      if q < nd / ns then packFp wd (List.replicate (q * ns) (0, 0) ++ (List.range ns).map el)
      else (.ofNat 128 open_, .ofNat 5 (open_ / 2 ^ 128))
    else if q < ns / nd then packFp wd ((List.range nd).map fun i => el (q * nd + i))
    else (.ofNat 128 open_, .ofNat 5 (open_ / 2 ^ 128))
  | _ => (fillLanes wd (fpNaN fd), flagNV)

/-- Whether q is within the range of the head's format (R239). -/
def cvtInRange (src dst : Fmt) (q : Nat) : Bool :=
  let nd := 128 / (fpOf dst).width
  let ns := 128 / (fpOf src).width
  match src with
  | .f32 | .bf16 | .e4m3 | .e5m2 => if ns = nd then q == 0 else if ns < nd then decide (q < nd / ns) else decide (q < ns / nd)
  | _ => true

/-- CVT. -/
def execCvt (w : SlotWord) (s : State) : Host.Outcome State Fault Refusal :=
  let q := bits w.imm.toNat 1 0
  let tag := fun (o : Ops) => match headOf o w.sa with
    | some t => t.tag
    | none => .raw
  let s1 := fireOp s w 2 (fpWidth w) fun o =>
    let r := cvtResult (tag o) w.fmt (fpMode w) (satBit w) q o.a (Config.free (s.freeNo + 1))
    { res := r.1, tag := w.fmt, flags := r.2 }
  .next (if cvtInRange (tag (readOps s w 32)) w.fmt q || (residueFault s w).isSome then s1 else { s1 with freeNo := s.freeNo + 2 })

/-- FTOI's element (R240). -/
def ftoiLane (f : FpFmt) (mode : Mode) (iw : Nat) (signed : Bool) (x : Nat) : Nat × BitVec 5 :=
  let lo : Int := if signed then -(2 ^ (iw - 1) : Nat) else 0
  let hi : Int := if signed then (2 ^ (iw - 1) : Nat) - 1 else (2 ^ iw : Nat) - 1
  match fpDecode f x with
  | .nan _ => (0, flagNV)
  | .inf neg => (wrap (if neg then lo else hi) iw, flagNV)
  | .fin neg m e =>
    let (r, nx) := roundTo mode neg m e false 0
    let v : Int := if neg then -(r : Int) else r
    if v < lo then (wrap lo iw, flagNV) else if hi < v then (wrap hi iw, flagNV)
    else (wrap v iw, if nx then flagNX else 0)

/-- The integer type of class T (R71): its width and whether it is signed. -/
def tWidth (w : SlotWord) : Nat := if w.mod.toNat % 4 < 2 then 32 else 16
def tSigned (w : SlotWord) : Bool := w.mod.toNat % 2 == 0
def tMode (w : SlotWord) : Mode := Mode.ofCode (w.mod.toNat / 4)

/-- FTOI. -/
def execFtoi (w : SlotWord) (s : State) : Host.Outcome State Fault Refusal :=
  fireFp s w 2 .raw fun o => packFp (tWidth w)
    ((List.range (min (128 / fpWidth w) (128 / tWidth w))).map fun i =>
      ftoiLane (fpFmtOf w) (tMode w) (tWidth w) (tSigned w) (lane o.a (fpWidth w) i))

/-- ITOF's element (R240). -/
def itofLane (f : FpFmt) (mode : Mode) (v : Int) : Nat × BitVec 5 :=
  fpRoundZ f mode false false (decide (v < 0)) v.natAbs 0 false

/-- ITOF: a literal fills the lanes of its integer type. -/
def execItof (w : SlotWord) (s : State) : Host.Outcome State Fault Refusal :=
  .next (fireOp s w 2 (tWidth w) fun o =>
    let r := packFp (fpWidth w) ((List.range (min (128 / fpWidth w) (128 / tWidth w))).map fun i =>
      let x := lane o.a (tWidth w) i
      itofLane (fpFmtOf w) (tMode w) (if tSigned w then sext x (tWidth w) else x))
    { res := r.1, tag := w.fmt, flags := r.2 })

/-! ### Shared-exponent conversions -/

/-- A block's dat payload (R226). -/
def sxDat (m : Nat) (fields : List Nat) : Payload :=
  .ofNat 128 (fields.foldr (fun v acc => v % 2 ^ (m + 1) + 2 ^ (m + 1) * acc) 0)

/-- Field j of a dat payload (R226). -/
def sxField (m : Nat) (p : Payload) (j : Nat) : Nat := bits p.toNat ((m + 1) * j + m) ((m + 1) * j)

/-- A block's bytes in memory (R226): E, D and the fields. -/
def sxBytes (m e d : Nat) (fields : List Nat) : Bytes :=
  .ofNat 8 e :: .ofNat 8 d :: leBytes (sxDat m fields).toNat (2 * (m + 1))

/-- The lanes of the four heads in the order of R241: element 4N + i is lane i of the head of iN. -/
def sxpkElements (o : Ops) : List Nat :=
  [0, 1, 2, 3].flatMap fun n => match o.heads.find? fun h => h.1 == n with
    | some h => [0, 1, 2, 3].map fun i => lane h.2.val.bits 32 i
    | none => [0, 0, 0, 0]

/-- SXPK: an scl token at c + 6 and the dat token at c + 7. -/
def execSxpk (w : SlotWord) (s : State) : Host.Outcome State Fault Refusal :=
  let o0 := readOps s w 32
  let o := { o0 with tid := match o0.heads with
    | h :: _ => h.2.tid
    | [] => o0.tid }
  if o.heads.any fun h => !h.2.val.ok then .next (headTrap s o.tid) else
    let m := sxBits w.fmt
    let b := sxPack m (fpMode w) (satBit w) ((sxpkElements o).map (fpDecode fpF32))
    let scl : Payload := .ofNat 128 (b.e + 2 ^ 8 * b.d)
    let s1 := fireHeads s w o { res := 0 }
    .next (pushFlights s1
      [flightOf s o.tid (some (s.cycle + 6)) 0 w.om none scl .scl w.fmt true b.flags,
       flightOf s o.tid (some (s.cycle + 7)) 0 w.om none (sxDat m b.fields) w.ok w.fmt true 0])

/-- The scale that applies to a head (R234): the latch of its input, when valid for its thread. -/
def latchFor (s : State) (w : SlotWord) (tid : Nat) : Option Latch :=
  match w.sa with
  | .i n => match s.hereCtx.latch.find? fun l => l.1 == n.val with
    | some (_, l) => if l.tid == tid then some l else none
    | none => none
  | _ => none

/-- SXUP's result (R242). -/
def sxupResult (m q : Nat) (l : Option Latch) (x : Payload) : Payload × BitVec 5 :=
  match l with
  | none => (fillLanes 32 (fpNaN fpF32), flagNV)
  | some l => (mapLanes 32 fun i =>
      (fpConv fpF32 .rne false (sxDecode m l.e l.d (4 * q + i) (sxField m x (4 * q + i)))).1, 0)

/-- SXUP. -/
def execSxup (w : SlotWord) (s : State) : Host.Outcome State Fault Refusal :=
  .next (fireOp s w 2 32 fun o =>
    let r := sxupResult (sxBits w.fmt) (bits w.imm.toNat 1 0) (latchFor s w o.tid) o.a
    { res := r.1, tag := .f32, flags := r.2 })

/-- SXEX. -/
def execSxex (w : SlotWord) (s : State) : Host.Outcome State Fault Refusal :=
  .next (fireOp s w 2 32 fun o => { res := match latchFor s w o.tid with
    | some l => ofLanes 32 [l.e, l.d, 1]
    | none => 0 })

end Sys2Proof.Machine
end

