-- ==== Sys2Proof/Machine/Crossbar.lean ====
section
/-! DEFINITION. Physical addresses and HBM bytes (R25, R78), homes (R116), the channels of the crossbar (R113 to R115),
copies in the first-level caches (R118, R128), and the reads and writes that engines and the device itself make at the home
slices (R113, R120). -/

namespace Sys2Proof.Machine

/-! ### Addresses -/

/-- Bytes and lines of one die's HBM (R25). -/
def dieSpan : Nat := 0x2400000000
def dieLines : Nat := dieSpan / 128

/-- Whether a physical address lies in HBM (R25). -/
def inHbm (pa : Nat) : Bool := pa < 4 * dieSpan

/-- Whether n bytes from a physical address on all lie in HBM. -/
def spanInHbm (pa n : Nat) : Bool := pa + n ≤ 4 * dieSpan

/-- The home die of a line, and its index there (R78). -/
def lineDie (l : Nat) : Nat := l / dieLines
def lineIdx (l : Nat) : Nat := l % dieLines

/-- The slice function of R116. -/
def sliceHash (l : Nat) : Nat :=
  bits l 4 0 ^^^ bits l 9 5 ^^^ bits l 14 10 ^^^ bits l 19 15 ^^^ bits l 24 20 ^^^ bits l 29 25 ^^^ bits l 30 30

/-- The slice of a die that serves a line: its home on its home die, its proxy elsewhere (R116, R125). -/
def sliceAt (d l : Nat) : Nat := 32 * d + sliceHash (lineIdx l)
def homeSlice (l : Nat) : Nat := sliceAt (lineDie l) l

/-- A place of R76. -/
structure HbmPlace where
  die   : Nat
  stack : Nat
  ch    : Nat
  pc    : Nat
  sid   : Nat
  bg    : Nat
  bank  : Nat
  row   : Nat
  col   : Nat
  byte  : Nat
  deriving DecidableEq, Repr

/-- hbm_map of R78. -/
def hbmMap (pa : Nat) : HbmPlace :=
  let o := pa % dieSpan
  let l := o / 128
  let m := l / 64
  let n := m / 3
  let row := n / 512
  { die := pa / dieSpan, stack := m % 3, ch := bits l 5 1 ^^^ bits row 4 0, pc := bits l 0 0 ^^^ bits row 5 5
    sid := bits n 8 7, bg := bits n 6 5 ^^^ bits n 12 11, bank := bits n 4 3 ^^^ bits n 10 9, row, col := bits n 2 0
    byte := o % 128 }

/-- The inverse of R79. -/
def hbmUnmap (p : HbmPlace) : Nat :=
  let n := p.row * 512 + p.sid * 128 + (p.bg ^^^ bits p.row 3 2) * 32 + (p.bank ^^^ bits p.row 1 0) * 8 + p.col
  let m := 3 * n + p.stack
  let l := 64 * m + 2 * (p.ch ^^^ bits p.row 4 0) + (p.pc ^^^ bits p.row 5 5)
  p.die * dieSpan + 128 * l + p.byte

/-- The number of a line's controller channel, 96 to a die (R88), and its pseudo-channel. -/
def lineChan (l : Nat) : Nat := let p := hbmMap (128 * l); 96 * p.die + 32 * p.stack + p.ch
def linePc (l : Nat) : Nat := (hbmMap (128 * l)).pc

/-! ### HBM bytes -/

/-- One byte of memory. -/
def memGet (m : Memory) (a : Nat) : Byte :=
  match m with
  | [] => Memory.unlisted
  | c :: r => if c.1 = a then c.2 else if a < c.1 then Memory.unlisted else memGet r a

/-- Memory with one byte written; a byte that an unlisted address reads as is not listed. -/
def memSet (m : Memory) (a : Nat) (v : Byte) : Memory :=
  match m with
  | [] => if v = Memory.unlisted then [] else [(a, v)]
  | c :: r =>
    if c.1 = a then (if v = Memory.unlisted then r else (a, v) :: r)
    else if a < c.1 then (if v = Memory.unlisted then c :: r else (a, v) :: c :: r)
    else c :: memSet r a v

/-- A sequence of bytes written from an address up. -/
def memPut (m : Memory) (a : Nat) (bs : Bytes) : Memory :=
  match bs with
  | [] => m
  | b :: r => memPut (memSet m a b) (a + 1) r

/-- The n bytes from an address up. -/
def memBytes (m : Memory) (a n : Nat) : Bytes := (List.range n).map fun i => memGet m (a + i)

/-- A line as HBM holds it. -/
def State.hbmLine (s : State) (l : Nat) : Bytes := memBytes s.mem (128 * l) 128

/-- A byte sequence with a slice replaced. -/
def putSlice (bs : Bytes) (off : Nat) (xs : Bytes) : Bytes := bs.take off ++ xs ++ bs.drop (off + xs.length)

/-! ### Channels (R113 to R115) -/

/-- A packet of a kind for a line that says nothing else. -/
def Pkt.mk0 (kind : PktKind) (line src dst : Nat) : Pkt :=
  { kind, line, src, dst, tid := 0, id := 0, word := 0, mask := 0, data := 0, scope := 0, lineData := [], poison := 0, keep := false
    dirty := false, hasData := false, tag := 0, die := lineDie line, slice := homeSlice line % 32, persist := false, addr := 0
    came := 0 }

/-- The cluster stop of a core. -/
def stopOf (core : Nat) : Nat := core % 96 / 4

def State.chan (s : State) (c : Nat) : Chan := tblGet Chan.empty s.chans c
def State.setChan (s : State) (c : Nat) (x : Chan) : State := { s with chans := tblSet s.chans c x }

/-- A packet queued by a writer of a channel. -/
def State.enqueue (s : State) (chan writer : Nat) (p : Pkt) : State :=
  let c := s.chan chan
  s.setChan chan { c with fifo := tblSet c.fifo writer (tblGet [] c.fifo writer ++ [p]) }

/-- The number of the home channel of a slice of the device, and of the reply channel of a stop (R113). -/
def homeChan (slice : Nat) : Nat := slice
def replyChan (die stop : Nat) : Nat := 128 + 28 * die + stop

/-- A packet from a core to the home of its line, or to the proxy on the core's die (R125). -/
def State.toHome (s : State) (core : Nat) (p : Pkt) : State :=
  s.enqueue (homeChan (sliceAt (dieOf core) p.line)) (stopOf core) p

/-- A packet over UCIe into a slice (R125). -/
def State.toSlice (s : State) (slice : Nat) (p : Pkt) : State := s.modSlice slice fun x => { x with inbox := x.inbox ++ [p] }

/-- A packet from a slice to a core of its die. -/
def State.toCore (s : State) (slice : Nat) (p : Pkt) : State :=
  s.enqueue (replyChan (slice / 32) (stopOf p.dst)) (slice % 32) p

/-- A packet from a slice to its destination: a core of its die, or a die, or through the proxy to a core of another die. -/
def State.reply (s : State) (slice : Nat) (p : Pkt) : State :=
  if 384 ≤ p.dst then s.toSlice (sliceAt (p.dst - 384) p.line) p
  else if dieOf p.dst = slice / 32 then s.toCore slice p
  else s.toSlice (sliceAt (dieOf p.dst) p.line) p

/-! ### Copies -/

def State.line (s : State) (l : Nat) : Line := tblGet Line.absent s.lines l
def State.setLine (s : State) (l : Nat) (x : Line) : State := { s with lines := tblSet s.lines l x }
def State.modLine (s : State) (l : Nat) (f : Line → Line) : State := s.setLine l (f (s.line l))

/-- A die's proxy entry of a line (R125). -/
def State.proxy (s : State) (d l : Nat) : Line := tblGet Line.absent s.proxies (4 * l + d)
def State.setProxy (s : State) (d l : Nat) (x : Line) : State := { s with proxies := tblSet s.proxies (4 * l + d) x }

def Core.l1line (c : Core) (l : Nat) : L1Line := tblGet ⟨.i, [], 0⟩ c.l1 l
def Core.setL1 (c : Core) (l : Nat) (x : L1Line) : Core := { c with l1 := if x.st == .i then tblDel c.l1 l else tblSet c.l1 l x }

def CopyState.dirty (x : CopyState) : Bool := x == .m || x == .o
def CopyState.owns (x : CopyState) : Bool := x == .e || x == .m || x == .o

/-- A write-back of a core's copy; `keep` leaves it a clean copy, `id` is the access that waits for it (R120, R132). -/
def wbPkt (core l : Nat) (x : L1Line) (keep : Bool) (id : Nat) : Pkt :=
  { Pkt.mk0 .wb l core 0 with lineData := x.data, poison := x.poison, dirty := true, hasData := true, keep, id }

/-- An L1 gives up its copy before a STORE or RED leaves (R128, R129), or in answer to a recall (R124). -/
def State.giveUp (s : State) (core l : Nat) : State :=
  let x := (s.core core).l1line l
  let s := s.modCore core fun c => c.setL1 l ⟨.i, [], 0⟩
  match x.st with
  | .m | .o => s.toHome core (wbPkt core l x false 0)
  | .e => s.toHome core (Pkt.mk0 .evn l core 0)
  | _ => s

/-- The sharer bit of a requester at a line's home (R118, R119): its cluster, or its die. -/
def sharerBit (l who : Nat) : Nat :=
  if 384 ≤ who then 24 + (who - 384 + 7 - lineDie l) % 4 else stopOf who

/-- The sharer vector with one bit given. -/
def setSharer (v : BitVec 27) (k : Nat) (b : Bool) : BitVec 27 := if b then v ||| (1#27 <<< k) else v &&& ~~~(1#27 <<< k)

/-! ### Slice data (R86, R120) -/

/-- A word of a byte mask written into bytes. -/
def maskPut (old new : Bytes) (mask : BitVec 16) : Bytes :=
  (List.range 16).map fun i => if mask.getLsbD i then new.getD i 0 else old.getD i 0

/-- The word of a line. -/
def lineWord (bs : Bytes) (w : Nat) : Bytes := (bs.drop (16 * w)).take 16

/-- A store performed on a line's data (R86): a poisoned word takes only a store of all its bytes. -/
def Line.store (x : Line) (w : Nat) (mask : BitVec 16) (data : Payload) : Line :=
  match x.data with
  | none => x
  | some bs =>
    if x.poison.getLsbD w && mask != 0xFFFF then x else
    { x with data := some (putSlice bs (16 * w) (maskPut (lineWord bs w) (leBytes data.toNat 16) mask)), dirty := true
             poison := setPredBit x.poison w false }
where
  setPredBit (p : BitVec 8) (k : Nat) (v : Bool) : BitVec 8 := if v then p ||| (1#8 <<< k) else p &&& ~~~(1#8 <<< k)

/-- The poison of bursts that HBM cannot correct (R86): both words of each. -/
def burstPoison (fail : BitVec 4) : BitVec 8 :=
  (List.range 4).foldl (fun p b => if fail.getLsbD b then p ||| (3#8 <<< (2 * b)) else p) 0

/-- The bursts of a line that stay uncorrectable in HBM (R86). -/
def State.badBursts (s : State) (l : Nat) : BitVec 4 :=
  (List.range 4).foldl (fun p b => if s.hbmBad.contains (4 * l + b) then p ||| (1#4 <<< b) else p) 0

/-- The physical address of the first poisoned burst (R86). -/
def firstBad (l : Nat) (p : BitVec 8) : Nat :=
  match [0, 1, 2, 3].find? fun b => p.getLsbD (2 * b) || p.getLsbD (2 * b + 1) with
  | some b => 128 * l + 32 * b
  | none => 128 * l

/-! ### Lines at a slice

The home slice of a line and the proxies of the other dies keep the same entry; `d` is the die of the slice. -/

def State.entry (s : State) (d l : Nat) : Line := if d = lineDie l then s.line l else s.proxy d l
def State.setEntry (s : State) (d l : Nat) (x : Line) : State := if d = lineDie l then s.setLine l x else s.setProxy d l x
def State.modEntry (s : State) (d l : Nat) (f : Line → Line) : State := s.setEntry d l (f (s.entry d l))

/-! ### Soft errors of slice data (R130) -/

/-- A read of a line's data at its home or at a proxy that meets a soft error. A single-bit error is corrected and counted. An
uncorrectable one is counted; it drops a clean copy, which is fetched again, and marks the burst of a dirty one (R86). A die that drops a
clean copy that it owns tells the home so. -/
def State.sliceEcc (s : State) (n d l : Nat) (e : Ecc) : State :=
  let x := s.entry d l
  match e with
  | .good => s
  | .corrected => if x.data.isNone then s else s.modSlice n fun y => { y with ce := satAdd y.ce 1 16 }
  | .burst b =>
    if x.data.isNone then s else
    let s := s.modSlice n fun y => { y with ue := satAdd y.ue 1 16 }
    if x.dirty then s.setEntry d l { x with poison := x.poison ||| (3#8 <<< (2 * b.val)) }
    else if d = lineDie l || !x.copy.owns then s.setEntry d l { x with data := none, poison := 0, dev := none }
    else (s.setProxy d l { x with data := none, poison := 0, copy := if x.sharers = 0 then .i else .s }).toSlice (homeSlice l)
      { Pkt.mk0 .evn l (384 + d) 0 with keep := x.sharers != 0 }

/-! ### Whether HBM serves a line (R401, R412) -/

/-- A controller's pseudo-channel. -/
def Ctrl.pc (c : Ctrl) (k : Nat) : Pc := if k = 0 then c.pc0 else c.pc1
def Ctrl.setPc (c : Ctrl) (k : Nat) (x : Pc) : Ctrl := if k = 0 then { c with pc0 := x } else { c with pc1 := x }

/-- The nine PHY slices of a pseudo-channel (R406). -/
def phyOf (chan pc : Nat) : List Nat := (List.range 9).map fun i => 18 * chan + 9 * pc + i

/-- Whether every slice of a pseudo-channel is trained (R412). -/
def State.trained (s : State) (chan pc : Nat) : Bool := (phyOf chan pc).all fun n => (s.phy n).trained

/-- Whether PHY commands hold a pseudo-channel: one of its slices' commands has started, and the last of those that run at the same time on its
channel is not complete (R407; log 145). -/
def State.phyHeld (s : State) (chan pc : Nat) : Bool := (phyOf chan pc).any fun n => (s.phy n).held

/-- What a read of an absent line meets. -/
inductive HbmAnswer where
  | zeros    -- the boot window: installed as zeros and dirty
  | error    -- outside the window while BOOT is set, or not initialised
  | wait     -- the die stays in reset, or the pseudo-channel is being retrained or held by a PHY command
  | serve
  deriving DecidableEq, Repr

/-- A line of its die's boot window (R401). -/
def bootWindow (l : Nat) : Bool := lineIdx l < 0x2000000 / 128

def State.hbmAnswer (s : State) (l : Nat) : HbmAnswer :=
  let d := lineDie l
  if (s.die d).inReset then .wait
  else if (s.die d).boot then (if bootWindow l then .zeros else .error)
  else
    let ch := lineChan l
    if !((s.ctrl ch).pc (linePc l)).init then .error
    else if !s.trained ch (linePc l) || s.phyHeld ch (linePc l) then .wait else .serve

/-! ### Reads and writes made at the home slice in one step (R113; log 15)

Engines, walkers, the distributor, the sync units and the device's own saves act on lines that are quiet: no request for the
line is pending or waits at a slice, no ownership, write-back or reply of it is in flight, and the home slice holds it, or an HBM
read for the access has failed, or HBM is not asked for it. -/

def quietKinds (p : Pkt) : Bool :=
  match p.kind with
  | .gets | .store | .red _ | .disc | .storeAck | .error => true
  | .getx => !p.keep
  | _ => false

/-- Whether nothing of a line is pending, waits at a slice, or is on its way with a copy or an ownership. -/
def State.settledLine (s : State) (l : Nat) : Bool :=
  (s.line l).pend.isNone && ([0, 1, 2, 3].all fun d => (s.proxy d l).pend.isNone)
    && (s.chans.all fun c => c.2.fifo.all fun f => f.2.all fun p => p.line != l || quietKinds p)
    && (s.slices.all fun x => x.2.inbox.all fun p => p.line != l)
    && (s.cores.all fun c => c.2.inbox.all fun p => p.line != l || quietKinds p)

/-- The core that holds a line dirty. -/
def State.dirtyCore (s : State) (l : Nat) : Option (Nat × L1Line) :=
  s.cores.findSome? fun c => let x := c.2.l1line l; if x.st.dirty then some (c.1, x) else none

/-- The proxy that holds a line dirty. -/
def State.dirtyProxy (s : State) (l : Nat) : Option Line :=
  [0, 1, 2, 3].findSome? fun d => let x := s.proxy d l; if x.dirty && x.data.isSome then some x else none

/-- A packet, or an access of the device, that a slice serves without an HBM read (R133). -/
def State.hit (s : State) (n : Nat) : State := s.modSlice n fun y => { y with hits := (y.hits + 1) % 2 ^ 64 }

/-! ### Copies brought home and removed (R117, R120, R123) -/

def popCount (v : BitVec 27) : Nat := ((List.range 27).filter fun b => v.getLsbD b).length

/-- Data written back into a line's home slice (R120, R123). -/
def State.bring (s : State) (l : Nat) (bs : Bytes) (p : BitVec 8) : State :=
  (s.modLine l fun y => { y with data := some bs, dirty := true, poison := p }).modSlice (homeSlice l) fun y =>
    { y with seq := (y.seq + 1) % 2 ^ 32 }

/-- The recalls and invalidations that a slice sends to clear an entry (R133). -/
def State.countClear (s : State) (n : Nat) (x : Line) : State :=
  s.modSlice n fun y => { y with recalls := satAdd y.recalls x.st.owns.toNat 32, inv := satAdd y.inv (popCount x.sharers) 32 }

/-- Every copy of a line outside its home slice removed, a dirty one's data first brought home. -/
def State.gather (s : State) (l : Nat) : State :=
  let s := [0, 1, 2, 3].foldl (fun s d => s.countClear (sliceAt d l) (s.proxy d l)) (s.countClear (homeSlice l) (s.line l))
  let s := match s.dirtyCore l with
    | some (_, x) => s.bring l x.data x.poison
    | none => match s.dirtyProxy l with
      | some x => s.bring l (x.data.getD []) x.poison
      | none => s
  let s := { s with cores := tblMap s.cores fun _ c => c.setL1 l ⟨.i, [], 0⟩ }
  let s := [0, 1, 2, 3].foldl (fun s d => if tblHas s.proxies (4 * l + d) then { s with proxies := tblDel s.proxies (4 * l + d) } else s) s
  s.modLine l fun y => { y with st := .i, sharers := 0, owner := 0 }

/-- The copies of one die removed with its proxy's, a dirty one's data first brought home: what an eviction at the proxy does. -/
def State.leaveDie (s : State) (d l : Nat) : State :=
  let p := s.proxy d l
  let s := s.countClear (sliceAt d l) p
  let here := (s.line l).st.owns && (s.line l).owner == 384 + d
  let s := if !here then s else match s.dirtyCore l with
    | some (_, x) => s.bring l x.data x.poison
    | none => if p.dirty then s.bring l (p.data.getD []) p.poison else s
  let s := { s with cores := tblMap s.cores fun k c => if dieOf k = d then c.setL1 l ⟨.i, [], 0⟩ else c
                    proxies := tblDel s.proxies (4 * l + d) }
  s.modLine l fun y =>
    let sh := setSharer y.sharers (sharerBit l (384 + d)) false
    { y with sharers := sh, owner := if here then 0 else y.owner, st := if here || y.st == .s then (if sh = 0 then .i else .s) else y.st }

/-! ### Room in a slice (R117) -/

/-- Whether a line's bank is in REFpb or its pseudo-channel in REFab (R80, R81). -/
def State.refreshing (s : State) (l : Nat) : Bool :=
  let p := (s.ctrl (lineChan l)).pc (linePc l)
  let h := hbmMap (128 * l)
  decide (s.refTick < p.abUntil) || (decide (s.refTick < p.pbUntil) && (16 * h.sid + 4 * h.bg + h.bank + 1) % 64 == p.bank)

/-- Whether a pseudo-channel serves a line now (R80, R81): initialised, trained, in no forced refresh, and not refreshing the line. -/
def State.pcServes (s : State) (l : Nat) : Bool :=
  s.hbmAnswer l == .serve && !((s.ctrl (lineChan l)).pc (linePc l)).forced && !s.refreshing l

/-- A line of which a request waits at its controller, from this cycle on at the latest (R89). -/
def Line.ask (x : Line) (now : Nat) : Line := { x with asked := some (x.asked.getD now) }

/-- A line whose HBM read is made: only a write that is still asked for waits at its controller. -/
def Line.answered (x : Line) : Line := if x.hbmWrite.isEmpty then { x with asked := none } else x

/-- The lines that a slice holds, its proxies' among them. -/
def State.heldAt (s : State) (n : Nat) : Nat :=
  (s.lines.filter fun x => homeSlice x.1 == n && x.2.data.isSome).length
    + (s.proxies.filter fun x => sliceAt (x.1 % 4) (x.1 / 4) == n && x.2.data.isSome).length

/-- Whether a burst of a line is half rewritten (R86). -/
def halfRewritten (p : BitVec 8) : Bool := [0, 1, 2, 3].any fun b => p.getLsbD (2 * b) != p.getLsbD (2 * b + 1)

/-- A line of HBM written, with its poisoned bursts marked uncorrectable there and the others repaired (R86). -/
def State.writeHbm (s : State) (l : Nat) (bs : Bytes) (poison : BitVec 8) : State :=
  let bad := [0, 1, 2, 3].filter fun b => poison.getLsbD (2 * b) || poison.getLsbD (2 * b + 1)
  { s with mem := memPut s.mem (128 * l) bs
           hbmBad := (s.hbmBad.filter fun b => b / 4 != l) ++ bad.map fun b => 4 * l + b }

/-- A line evicted from its home slice: every other copy is removed first, and dirty data is written to HBM. -/
def State.evict (s : State) (l : Nat) : State :=
  let s := s.gather l
  let x := s.line l
  let s := match x.data with
    | some bs => if x.dirty then s.writeHbm l bs x.poison else s
    | none => s
  s.setLine l { x with data := none, dirty := false, poison := 0, dev := none }

/-- The lines that a slice can choose as a victim: its own, by their numbers, and those of its die's proxy, each with the proxy's die. -/
def State.victims (s : State) (n : Nat) : List (Nat × Option Nat) :=
  ((s.lines.filter fun x => homeSlice x.1 == n && x.2.data.isSome && x.2.hbmWrite.isEmpty && s.settledLine x.1
    && !halfRewritten x.2.poison && !((s.die (lineDie x.1)).boot && bootWindow x.1) && s.pcServes x.1).map fun x => (x.1, none))
  ++ (s.proxies.filter fun x => sliceAt (x.1 % 4) (x.1 / 4) == n && x.2.data.isSome && (s.line (x.1 / 4)).data.isSome
    && s.settledLine (x.1 / 4)).map fun x =>
    (x.1 / 4, some (x.1 % 4))

/-- The victims of a slice that are none of some lines. -/
def State.victimsBut (s : State) (n : Nat) (keep : List Nat) : List (Nat × Option Nat) :=
  (s.victims n).filter fun v => !keep.contains v.1

/-- Whether a slice has room for more lines, or can make it out of lines that are none of some. -/
def State.roomBut (s : State) (n need : Nat) (keep : List Nat) : Bool :=
  decide (s.heldAt n + need ≤ 16384) || decide (s.heldAt n + need ≤ 16384 + (s.victimsBut n keep).length)

/-- Whether a slice has room for another line, or can make it. -/
def State.roomAt (s : State) (n : Nat) : Bool := s.roomBut n 1 []

/-- A full slice gives up lines before others are installed; which ones is not architectural (a free value). `fuel` bounds them. -/
def State.clearFor (s : State) (n need : Nat) (keep : List Nat) (fuel : Nat) : State :=
  match fuel with
  | 0 => s
  | fuel + 1 =>
    if s.heldAt n + need ≤ 16384 then s else
    match s.victimsBut n keep with
    | [] => s
    | v :: vs =>
      let (k, s) := s.free
      (match (v :: vs).getD (k % (vs.length + 1)) v with
        | (l, none) => s.evict l
        | (l, some d) => s.leaveDie d l).clearFor n need keep fuel

/-- Room made for one line. -/
def State.makeRoom (s : State) (n : Nat) : State := s.clearFor n 1 [] 1

/-- The lines of a span. -/
def spanLines (pa n : Nat) : List Nat := if n = 0 then [] else (List.range ((pa + n - 1) / 128 - pa / 128 + 1)).map fun i => pa / 128 + i

/-- Those of some lines that their home slices do not hold, and how many of them one slice is the home of. -/
def State.absent (s : State) (ls : List Nat) : List Nat := ls.filter fun l => (s.line l).data.isNone
def homedAt (ls : List Nat) (n : Nat) : Nat := (ls.filter fun l => homeSlice l == n).length

/-- Whether the home slices of some lines have room for all of them at once, or can make it out of others. -/
def State.roomFor (s : State) (ls : List Nat) : Bool :=
  (s.absent ls).all fun l => s.roomBut (homeSlice l) (homedAt (s.absent ls) (homeSlice l)) ls

/-- Room made in the home slices of some lines for all of them. -/
def State.makeRooms (s : State) (ls : List Nat) : State :=
  let new := s.absent ls
  (new.map homeSlice).eraseDups.foldl (fun s n => s.clearFor n (homedAt new n) ls (homedAt new n)) s

/-! ### Lines that the device may act on -/

/-- Whether an access of the device can be answered without another HBM read: the home slice holds the line, the read made for the
access has failed (R84), or HBM is not asked (R401, R412). -/
def State.atHand (s : State) (l : Nat) : Bool :=
  let x := s.line l
  x.data.isSome || match s.hbmAnswer l with
    | .serve => x.dev.isSome
    | .wait => false
    | .zeros | .error => true

/-- Whether the device may act on some lines: each is quiet, and there is room for all that are to be installed. -/
def State.quietLines (s : State) (ls : List Nat) : Bool := (ls.all fun l => s.settledLine l && s.atHand l) && s.roomFor ls
def State.quietLine (s : State) (l : Nat) : Bool := s.quietLines [l]

/-- Whether nothing of a line is queued at the stop of a core: an engine's packets keep their order with those of its core's stop on each
channel (R113, R115), so an engine acts on a line once what the stop has sent for it has arrived. -/
def State.stopClear (s : State) (core l : Nat) : Bool :=
  (tblGet [] (s.chan (homeChan (sliceAt (dieOf core) l))).fifo (stopOf core)).all fun p => p.line != l

/-- Whether every line of a span is quiet. -/
def State.quietSpan (s : State) (pa n : Nat) : Bool := s.quietLines (spanLines pa n)

/-- The line's slice with its data present, or the address of the burst that cannot be read (R84, R86, R401). The HBM read that an
access of the device needs is HBM_READ_COMPLETE's; what it left is taken here, and room has been made for the line. -/
def State.fetchLine (s : State) (l : Nat) : Except (Nat × Bool) State :=
  let x := s.line l
  let sl := homeSlice l
  match x.data with
  | some _ => .ok (if x.dev.isSome then s.setLine l { x with dev := none } else s.hit sl)
  | none => match s.hbmAnswer l with
    | .zeros =>
      .ok ((s.modLine l fun x => { x with data := some (List.replicate 128 0), dirty := true, poison := 0 }).hit sl)
    | .serve => match x.dev with
      | some bad => .error (firstBad l (burstPoison bad), true)
      | none => .error (128 * l, true)
    | _ => .error (128 * l, true)

/-- A copy of a die that is exclusive no longer: its proxy shares the line, and the first-level caches that held it E hold it S. -/
def State.shareDie (s : State) (d l : Nat) (copy : CopyState) : State :=
  if !tblHas s.proxies (4 * l + d) then s else
  let x := s.proxy d l
  s.setProxy d l { x with
    copy := if x.copy.owns then copy else x.copy
    st := if x.st == .e then .s else x.st
    sharers := if x.st == .e then setSharer x.sharers (sharerBit l x.owner) true else x.sharers
    owner := if x.st == .e then 0 else x.owner }

/-- Exclusive clean copies shared from here on, dies' and cores' (R120); `copy` is what an owning die keeps. -/
def State.shareAll (s : State) (l : Nat) (copy : CopyState) : State :=
  let s := { s with cores := tblMap s.cores fun _ c =>
    if (c.l1line l).st == .e then c.setL1 l { c.l1line l with st := .s } else c }
  [0, 1, 2, 3].foldl (fun s d => s.shareDie d l copy) s

/-- A coherent read of a line for which there is room: its bytes, or the address of an uncorrectable burst and whether a retry would fail again. A
dirty copy elsewhere stays there, no longer exclusive (R120). -/
def State.cohRead (s : State) (l : Nat) : Except (Nat × Bool) (Bytes × State) :=
  match s.dirtyCore l with
  | some (k, x) =>
    if x.poison != 0 then .error (firstBad l x.poison, true) else
    let s := s.modCore k fun c => c.setL1 l { x with st := .o }
    let s := s.modLine l fun y => { y with st := .o }
    let d := dieOf k
    let s := if d = lineDie l then s else s.setProxy d l { s.proxy d l with st := .o, copy := .o }
    .ok (x.data, s.hit (homeSlice l))
  | none => match s.dirtyProxy l with
    | some x =>
      if x.poison != 0 then .error (firstBad l x.poison, true) else
      .ok (x.data.getD [], ((s.shareAll l .o).modLine l fun y => { y with st := .o }).hit (homeSlice l))
    | none => match s.fetchLine l with
      | .error e => .error e
      | .ok s =>
        let x := s.line l
        if x.poison != 0 then .error (firstBad l x.poison, true)
        else
          let s := s.shareAll l .s
          let s := if x.st.owns then s.modLine l fun y =>
            { y with st := .s, sharers := setSharer y.sharers (sharerBit l y.owner) true, owner := 0 } else s
          .ok (x.data.getD [], s)

/-- The poison of an absent line that cannot be read (R86): all of it where HBM answers nothing. -/
def State.failPoison (s : State) (l : Nat) : BitVec 8 :=
  if s.hbmAnswer l == .serve then burstPoison (((s.line l).dev.getD 0) ||| s.badBursts l) else 0xFF

/-- A coherent write of up to 16 bytes within one word of a line for which there is room: a STORE performed at the home (R113, R120). -/
def State.cohWord (s : State) (pa : Nat) (bs : Bytes) : State :=
  let l := pa / 128
  let off := pa % 16
  let s := s.gather l
  let s := match s.fetchLine l with
    | .ok s => s
    | .error _ => s.modLine l fun y => match y.data with
      | some _ => y
      | none => { y with data := some (s.hbmLine l), dirty := true, poison := s.failPoison l, dev := none }
  let mask : BitVec 16 := .ofNat 16 ((2 ^ bs.length - 1) * 2 ^ off)
  let data : Payload := .ofNat 128 (leNat bs * 2 ^ (8 * off))
  (s.modLine l fun y => y.store (pa % 128 / 16) mask data).modSlice (homeSlice l) fun y => { y with seq := (y.seq + 1) % 2 ^ 32 }

/-- A coherent write of any length, word by word; `fuel` bounds the words. -/
def State.cohPut (s : State) (pa : Nat) (bs : Bytes) (fuel : Nat) : State :=
  match fuel with
  | 0 => s
  | fuel + 1 =>
    if bs.isEmpty then s else
    let n := min bs.length (16 - pa % 16)
    (s.cohWord pa (bs.take n)).cohPut (pa + n) (bs.drop n) fuel

def State.cohWrite (s : State) (pa : Nat) (bs : Bytes) : State := (s.makeRooms (spanLines pa bs.length)).cohPut pa bs (bs.length + 1)

/-- A coherent read of any length, line by line; `fuel` bounds the lines. -/
def State.cohGet (s : State) (pa n fuel : Nat) : Except (Nat × Bool) (Bytes × State) :=
  match fuel with
  | 0 => .ok ([], s)
  | fuel + 1 =>
    if n = 0 then .ok ([], s) else
    match s.cohRead (pa / 128) with
    | .error e => .error e
    | .ok (bs, s) =>
      let k := min n (128 - pa % 128)
      match s.cohGet (pa + k) (n - k) fuel with
      | .error e => .error e
      | .ok (r, s) => .ok ((bs.drop (pa % 128)).take k ++ r, s)

def State.cohBytes (s : State) (pa n : Nat) : Except (Nat × Bool) (Bytes × State) := (s.makeRooms (spanLines pa n)).cohGet pa n (n / 128 + 2)

/-- One line read coherently. -/
def State.lineRead (s : State) (l : Nat) : Except (Nat × Bool) (Bytes × State) := (s.makeRooms [l]).cohRead l

/-- What HBM reads made for accesses of the device have left unanswered is forgotten: a later access makes its own read (R84, log 132). -/
def State.forgetReads (s : State) : State :=
  { s with lines := tblMap s.lines fun _ x => if x.data.isNone then { x with dev := none } else x }

end Sys2Proof.Machine
end

