-- ==== Sys2Proof/Machine/Translate.lean ====
section
/-! DEFINITION. Range descriptors, range tables, the checks of an access and the walk (R90 to R99, R26). -/

namespace Sys2Proof.Machine

/-! ### Descriptors (R93, R94) -/

def Desc.vbase (d : Desc) : Nat := bits d.w0.toNat 63 8 * 256
def Desc.limit (d : Desc) : Nat := bits d.w1.toNat 63 8 * 256
def Desc.offset (d : Desc) : Nat := bits d.w2.toNat 63 8 * 256
def Desc.space8 (d : Desc) : Nat := bits d.w2.toNat 7 0
def Desc.rlo (d : Desc) : Nat := bits d.w3.toNat 63 32
def Desc.rhi (d : Desc) : Nat := bits d.w3.toNat 31 0
def Desc.flags (d : Desc) : Nat := bits d.w0.toNat 7 0
def Desc.perm (d : Desc) : Nat := bits d.w1.toNat 7 0
def Desc.transit (d : Desc) : Bool := d.w0.getLsbD 0
def Desc.revoked (d : Desc) : Bool := d.w0.getLsbD 1
def Desc.noL1 (d : Desc) : Bool := d.w0.getLsbD 3
def Desc.global (d : Desc) : Bool := d.w1.getLsbD 6
def Desc.len (d : Desc) : Nat := d.limit - d.vbase

/-- Whether a descriptor of space `sp`'s directory, or of the global one, is well formed (R94). -/
def Desc.wf (d : Desc) (sp : Option Nat) : Bool :=
  d.w1.getLsbD 0 && bits d.w0.toNat 7 4 == 0 && !d.w0.getLsbD 2 && !d.w1.getLsbD 7
    && decide (d.vbase < d.limit) && decide (d.len ≤ 0xFFFFFFFF00)
    && decide (d.rlo ≤ d.rhi) && decide (d.rhi ≤ d.len / 256)
    && (match sp with
      | some s => d.space8 == s % 256 && !d.global
      | none => d.space8 == 0 && d.global)

/-- A descriptor from its 32 bytes. -/
def Desc.ofBytes (bs : Bytes) : Desc :=
  let w := fun i => BitVec.ofNat 64 (leNat ((bs.drop (8 * i)).take 8))
  ⟨w 0, w 1, w 2, w 3⟩

def Desc.bytes (d : Desc) : Bytes :=
  leBytes d.w0.toNat 8 ++ leBytes d.w1.toNat 8 ++ leBytes d.w2.toNat 8 ++ leBytes d.w3.toNat 8

/-- The physical address of a virtual one, modulo 2^64 (R97). -/
def Desc.phys (d : Desc) (va : Nat) : Nat := (va + d.offset) % 2 ^ 64

/-! ### Checks (R97, R98) -/

/-- Kinds of access. -/
inductive Need where
  | read | write | atomic | engRead | engWrite
  deriving DecidableEq, Repr

def Need.writes (n : Need) : Bool := match n with
  | .read | .engRead => false
  | _ => true

/-- The permissions of R98. -/
def permOk (d : Desc) (n : Need) (priv : Bool) : Bool :=
  (priv || !d.w1.getLsbD 5) && (match n with
    | .read => d.w1.getLsbD 1
    | .write => d.w1.getLsbD 2
    | .atomic => d.w1.getLsbD 3
    | .engRead => d.w1.getLsbD 4 && d.w1.getLsbD 1
    | .engWrite => d.w1.getLsbD 4 && d.w1.getLsbD 2)

/-- A register window of R25. -/
def inRegs (pa : Nat) : Bool :=
  (0xF00000000000 ≤ pa && pa < 0xF00000000000 + 4 * 0x1000000000) || (0xFF0000000000 ≤ pa && pa < 2 ^ 48)

/-- The code of check 6 for a physical address outside HBM (R26). -/
def physCode (pa : Nat) : Nat := if inRegs pa then 0x11 else 0x10

/-- The first failure of one part, as its order and code (R97). -/
def checkPart (d : Desc) (n : Need) (priv : Bool) (va : Nat) : Option (Nat × Nat) :=
  let u := (va - d.vbase) / 256
  if !permOk d n priv then some (2, 0x11)
  else if d.revoked then some (3, 0x14)
  else if u < d.rlo || d.rhi ≤ u then some (4, 0x12)
  else if d.transit && n.writes then some (5, 0x13)
  else if !inHbm (d.phys va) then some (6, physCode (d.phys va))
  else none

/-- An entry of a range table that an access of space s at va hits (R95). -/
def rtabFind (t : List RangeEntry) (s va : Nat) : Option RangeEntry :=
  t.find? fun e => (e.space == none || e.space == some s) && decide (e.desc.vbase ≤ va) && decide (va < e.desc.limit)

/-- The table with the entry used most recently in front. -/
def rtabTouch (t : List RangeEntry) (e : RangeEntry) : List RangeEntry := e :: t.filter (· != e)

/-- The parts of an access of n bytes: split at 16-byte words (R137), as offset and length. Ranges and window units are
256-byte aligned, so every other boundary falls at a word. -/
def wordParts (va n : Nat) : List (Nat × Nat) :=
  let first := 16 - va % 16
  if n ≤ first then [(0, n)] else (0, first) :: (List.range ((n - first + 15) / 16)).map fun i =>
    (first + 16 * i, min 16 (n - first - 16 * i))

/-- What a check answers. -/
inductive Xlate where
  | miss (va : Nat)
  | fail (code va detail : Nat)
  | ok (parts : List Part) (noL1 : Bool) (table : List RangeEntry)
  deriving DecidableEq, Repr

/-- The checks of R97 over both parts, through a core's range table. `en` is SPTBASE.EN of the core's die.
The record names the first failing 16-byte word's address and unit (DESIGN CHOICE, log 144). -/
def xlate (t : List RangeEntry) (en : Bool) (s : Nat) (priv : Bool) (need : Need) (va n : Nat) : Xlate :=
  let ps := (wordParts va n).map fun p => (p, (va + p.1) % 2 ^ 64)
  let hits := ps.map fun p => (p, if en then rtabFind t s p.2 else none)
  match hits.find? fun h => h.2.isNone with
  | some h => if en then .miss h.1.2 else .fail 0x10 h.1.2 0
  | none =>
    let fails := hits.filterMap fun h => match h.2 with
      | some e => (checkPart e.desc need priv h.1.2).map fun f => (f, h.1.2, e)
      | none => none
    match fails with
    | [] => .ok
        (hits.filterMap fun h => h.2.map fun e => ({ pa := e.desc.phys h.1.2, off := h.1.1.1, len := h.1.1.2, got := none } : Part))
        (hits.any fun h => match h.2 with
          | some e => e.desc.noL1
          | none => false)
        (hits.foldl (fun t h => match h.2 with
          | some e => rtabTouch t e
          | none => t) t)
    | f :: r =>
      let best := r.foldl (fun b f => if f.1.1 < b.1.1 then f else b) f
      .fail best.1.2 best.2.1 (if best.1.2 = 0x12 then (best.2.1 - best.2.2.desc.vbase) / 256 else 0)

/-- Translation is enabled on a die (R92). -/
def State.xlateOn (s : State) (d : Nat) : Bool := (s.die d).sptBase.getLsbD 0

/-- A fault record of a range code (R98, R359). -/
def rangeRec (r : FaultRec) (code va detail : Nat) (write : Bool) : FaultRec := { r with code, addr := va, detail, write }

/-! ### Reads that the device makes by physical address (R98) -/

/-- What such a read answers: the lines are not quiet yet, an uncorrectable burst, or the bytes. -/
inductive DevRead where
  | busy
  | bad (addr : Nat) (persist : Bool)
  | got (bs : Bytes) (s : State)

/-- A read of n bytes. One whose base lies outside HBM, which R91, R95 and R295 leave open, is answered as an uncorrectable burst is
(DESIGN CHOICE, log 128). -/
def State.devRead (s : State) (pa n : Nat) : DevRead :=
  if !spanInHbm pa n then .bad pa true
  else if !s.quietSpan pa n then .busy
  else match s.cohBytes pa n with
    | .error e => .bad e.1 e.2
    | .ok (bs, s) => .got bs s

/-! ### The walk (R91, R95) -/

/-- A descriptor read from a directory. -/
def State.readDesc (s : State) (base i : Nat) : DevRead := s.devRead (base + 32 * i) 32

/-- What a walk finds: with the place of the descriptor for a range instruction that edits it. -/
inductive WalkRes where
  | busy
  | bad (addr : Nat)
  | none (s : State)
  | found (space : Option Nat) (d : Desc) (at_ : Nat) (s : State)

/-- search of R95: the last descriptor whose VBASE is at most va; `fuel` bounds the halvings. -/
def State.dirSearch (s : State) (base va lo hi fuel : Nat) : Except (Option Nat) (Nat × State) :=
  match fuel with
  | 0 => .ok (lo, s)
  | fuel + 1 =>
    if hi ≤ lo then .ok (lo, s) else
    let mid := (lo + hi) / 2
    match s.readDesc base mid with
    | .busy => .error none
    | .bad a _ => .error (some a)
    | .got bs s => if (Desc.ofBytes bs).vbase ≤ va then s.dirSearch base va (mid + 1) hi fuel else s.dirSearch base va lo mid fuel

/-- A search of one directory: `sp` is its space, or none for the global one. -/
def State.searchDir (s : State) (sp : Option Nat) (base count va : Nat) : WalkRes :=
  match s.dirSearch base va 0 count 17 with
  | .error none => .busy
  | .error (some a) => .bad a
  | .ok (lo, s) =>
    if lo = 0 then .none s else
    match s.readDesc base (lo - 1) with
    | .busy => .busy
    | .bad a _ => .bad a
    | .got bs s =>
      let d := Desc.ofBytes bs
      if d.wf sp && va < d.limit then .found sp d (base + 32 * (lo - 1)) s else .none s

/-- The directory of a space (R91): none when the space is inactive. -/
inductive SpaceDir where
  | busy
  | bad (addr : Nat)
  | inactive (s : State)
  | dir (base count : Nat) (s : State)

def State.spaceDir (s : State) (die sp : Nat) : SpaceDir :=
  let base := bits (s.die die).sptBase.toNat 47 16 * 65536
  match s.devRead (base + 16 * sp) 16 with
  | .busy => .busy
  | .bad a _ => .bad a
  | .got bs s =>
    let w0 := leNat (bs.take 8)
    let w1 := leNat (bs.drop 8)
    if !bit w0 0 || bits w0 63 48 != 0 || bits w0 7 1 != 0 || bits w1 63 17 != 0 || 65536 < w1 then .inactive s
    else .dir (bits w0 47 8 * 256) w1 s

/-- walk of R95, on the tables of one die. -/
def State.walk (s : State) (die sp va : Nat) : WalkRes :=
  let d := s.die die
  let glob := fun (s : State) =>
    s.searchDir none (bits d.gdir.toNat 47 8 * 256) (if d.gdirN ≤ 65536 then d.gdirN else 0) va
  if !s.xlateOn die then .none s else
  match s.spaceDir die sp with
  | .busy => .busy
  | .bad a => .bad a
  | .inactive s => .none s
  | .dir base count s => match s.searchDir (some sp) base count va with
    | .none s => glob s
    | r => r

/-- A found descriptor installed, the least recently used of 32 entries replaced (R95). -/
def Core.install (c : Core) (sp : Option Nat) (d : Desc) : Core :=
  { c with rtab := (⟨sp, d⟩ :: c.rtab.filter fun e => !(e.space == sp && e.desc.vbase == d.vbase)).take 32 }

/-- A miss sent to the walkers of the core's die; misses of one core, space and address share a walk. -/
def State.askWalk (s : State) (core sp va : Nat) (who : WalkFor) : State :=
  s.modDie (dieOf core) fun d =>
    match findIdx d.walks fun w => w.core == core && w.space == sp && w.va == va with
    | some (i, w) => if w.who.contains who then d else { d with walks := setAt d.walks i { w with who := w.who ++ [who] } }
    | none => { d with walks := d.walks ++ [{ core, space := sp, va, who := [who], asked := s.cycle, active := false }] }

end Sys2Proof.Machine
end

