-- ==== Sys2Proof/Machine/Commit.lean ====
section
/-! DEFINITION. Commit areas (R138 to R143), and the accesses in progress at the memory elements (R135, R146 to R154). -/

namespace Sys2Proof.Machine

/-! ### Commit areas (R138 to R142) -/

/-- How many entries a thread's area has room for (R138). -/
def Thread.cap (t : Thread) : Nat := (t.runs.map (·.2)).sum + (t.grown.map (·.2)).sum

/-- The entry that a store to a word is merged into (R140). -/
def mergeInto (area : List AreaEntry) (pwa : Nat) : Option AreaEntry :=
  match area.reverse.find? fun e => e.oper != 8 && !e.held && e.pwa == pwa with
  | some e => if !e.sent && e.oper == 0 then some e else none
  | none => none

/-- One word of a store entered (R140). -/
def enterWord (area : List AreaEntry) (e : AreaEntry) : List AreaEntry :=
  match mergeInto area e.pwa with
  | some m => area.map fun x => if x.id == m.id then
      { x with mask := x.mask ||| e.mask, vas := (x.vas ++ e.vas).eraseDups, data := .ofNat 128 (leNat (maskPut (leBytes x.data.toNat 16) (leBytes e.data.toNat 16) e.mask)) }
    else x
  | none => area ++ [e]

/-- The entries that a store of bytes makes, one for each part (R137, R139). -/
def storeEntries (parts : List Part) (va : Nat) (bs : Bytes) (scope node id : Nat) : List AreaEntry :=
  (parts.zipIdx).map fun p =>
    let off := p.1.pa % 16
    { oper := 0, scope, signed := false, sent := false, mask := .ofNat 16 ((2 ^ p.1.len - 1) * 2 ^ off), pwa := p.1.pa / 16
      data := .ofNat 128 (leNat ((bs.drop p.1.off).take p.1.len) * 2 ^ (8 * off)), id := id + p.2, node, held := false, go := false
      vas := [va / 16 * 16 + 16 * p.2] }

/-- Whether a word's entries need more room than the area has (R138). -/
def Thread.needsRoom (t : Thread) (es : List AreaEntry) (append : Bool) : Bool :=
  let area := if append then t.area ++ es else es.foldl enterWord t.area
  decide (t.area.length < area.length) && decide (t.cap < t.standing + (area.length - t.area.length))

/-- Entries entered into a thread's area, in order; a RED always appends (R140). -/
def Core.enter (c : Core) (t : Nat) (es : List AreaEntry) (append : Bool) : Core :=
  { c.modThread t (fun th => { th with area := if append then th.area ++ es else es.foldl enterWord th.area }) with
    nextId := c.nextId + es.length }

/-- The first entry that a commit has let go and that may be sent now: a RED of scope .die or wider waits for every earlier entry's
acknowledgement (R154). -/
def nextToSend (earlier : Bool) (area : List AreaEntry) : Option AreaEntry :=
  match area with
  | [] => none
  | e :: r =>
    if e.oper == 8 || e.held then nextToSend earlier r
    else if e.sent || !e.go then nextToSend true r
    else if 0 < e.oper && 2 ≤ e.scope && earlier then none
    else some e

/-- The packet of an entry (R128, R129). -/
def entryPkt (core t : Nat) (e : AreaEntry) : Pkt :=
  { Pkt.mk0 (if e.oper = 0 then .store else .red (e.oper - 1)) (e.pwa / 8) core 0 with
    tid := t, id := e.id, word := e.pwa % 8, mask := e.mask, data := e.data, scope := e.scope, keep := e.signed }

/-- An access of a line that waits for its packet leaves no copy of the line once a later STORE or RED of the core has given the line up: a
later load goes to the home behind the store, and an atomic that comes after the store asks behind it (R128, R129). -/
def Core.noInstall (c : Core) (l : Nat) : Core :=
  { c with accesses := c.accesses.map fun a =>
      if a.stage == .wait && a.parts.any fun p => p.pa / 128 == l then { a with noL1 := true, old := true } else a }

/-- Send the entries of a thread that its commits let go, in order (R128, R141); `fuel` bounds them. -/
def State.pump (s : State) (core t fuel : Nat) : State :=
  match fuel with
  | 0 => s
  | fuel + 1 =>
    let th := (s.core core).thread t
    match nextToSend false th.area with
    | none => s
    | some e =>
      let l := e.pwa / 8
      let s := ((s.giveUp core l).toHome core (entryPkt core t e)).modCore core fun c => c.noInstall l
      (s.modThread core t fun th => { th with area := th.area.map fun x => if x.id == e.id then { x with sent := true } else x }).pump
        core t fuel

/-- Entries let go by a commit (R141): all that have entered the area, but for staged live-outs. -/
def letGo (area : List AreaEntry) : List AreaEntry := area.map fun e => if e.oper == 8 || e.held then e else { e with go := true }

/-- A commit (R141): every entry that now stands in the area is let go, and granules added to it can return (R138). -/
def State.commit (s : State) (core t : Nat) : State :=
  let s := s.modThread core t fun th => { th with area := letGo th.area, shrink := true }
  let s := s.pump core t ((s.core core).thread t).area.length
  s.modCore core fun c => c.releaseArea s.cycle t

/-- A commit at a safe point: staged live-outs are kept over a later fault (R318). -/
def State.commitSafe (s : State) (core t : Nat) : State :=
  (s.commit core t).modThread core t fun th =>
    { th with area := th.area.map fun e => if e.oper == 8 then { e with sent := true } else e }

/-- Whether a commit of scope .thr cannot be complete at once: an entry of a thread's area would still be unsent after it, behind one that is
not acknowledged (R154). -/
def State.commitWaits (s : State) (core t : Nat) : Bool :=
  (((s.commit core t).core core).thread t).area.any fun e => e.oper != 8 && !e.held && !e.sent

/-- Whether such a commit has begun: every entry has been let go. -/
def Thread.lettingGo (t : Thread) : Bool := t.area.all fun e => e.oper == 8 || e.held || e.sent || e.go

/-- Whether a commit of the entries numbered below a bound is complete (R141): sent for .thr and .core, acknowledged for the
wider scopes. -/
def Thread.committed (t : Thread) (bound scope : Nat) : Bool :=
  t.area.all fun e => e.oper == 8 || e.held || bound ≤ e.id || (e.sent && scope < 2)

/-! ### Accesses (R135) -/

/-- How many accesses a memory element has in progress (R135). -/
def Core.accessesAt (c : Core) (site : Nat) : Nat := (c.accesses.filter fun a => a.site == site).length

def Core.access (c : Core) (id : Nat) : Option Access := c.accesses.find? fun a => a.id == id
def Core.setAccess (c : Core) (a : Access) : Core :=
  { c with accesses := c.accesses.map fun x => if x.id == a.id then a else x }
def Core.dropAccess (c : Core) (id : Nat) : Core := { c with accesses := c.accesses.filter fun a => a.id != id }

/-- A record that names an access's block, site, slot and context. -/
def State.recAccess (s : State) (core : Nat) (a : Access) (code : Nat) : FaultRec :=
  let c := s.core core
  { FaultRec.zero with
    code, space := match c.part with
      | some p => p.space
      | none => 0
    block := (c.ctx a.ctx).blk.block, site := a.site, slot := a.slot, ctx := a.ctx }

/-- A fault of an access. A PREF is dropped (R149), and so is an access whose thread has left the block, or that has none: no one consumes its
value. -/
def State.accessFault (s : State) (core : Nat) (a : Access) (r : FaultRec) : State :=
  let left := a.gone && ((s.core core).thread a.tid).exiting.isNone
  let t := s.modCore core fun c => (c.dropAccess a.id).modSite a.site fun x => { x with flight := x.flight.filter fun f => f.key != a.id }
  if a.op == .pref || left || a.tid == noTid then t else t.raiseFault core a.tid r

/-- A soft error in memory at a physical address (R85, R359). -/
def State.accessError (s : State) (core : Nat) (a : Access) (addr : Nat) (persist : Bool) : State :=
  s.accessFault core a { s.recAccess core a 0x32 with persist, addr }

/-- The tokens of an access once its answer is there: the value first, its ord token later (R42, R135). -/
def fillFlights (fs : List Flight) (id now : Nat) (v : Payload) : List Flight :=
  let hasValue := fs.any fun f => f.key == id && f.tok.kind != .ord
  fs.map fun f =>
    if f.key != id then f
    else if f.tok.kind != .ord then { f with tok := { f.tok with val := mkVal v }, ready := true, due := some now }
    else if hasValue then f
    else { f with tok := { f.tok with val := mkVal v }, ready := true, due := some now }

/-- An access answered: its tokens can leave, and it is in progress no more. -/
def State.finish (s : State) (core id : Nat) (v : Payload) : State :=
  match (s.core core).access id with
  | none => s
  | some a => s.modCore core fun c =>
      (c.modSite a.site fun x => { x with flight := fillFlights x.flight id s.cycle v }).dropAccess id

/-! ### Loads (R143, R146) -/

/-- What the thread's own area says of a byte (R143): nothing, a reduction, or the byte. -/
def areaByte (area : List AreaEntry) (bound pa : Nat) : Option (Option Byte) :=
  match area.reverse.find? fun e => e.oper != 8 && !e.held && decide (e.id < bound) && e.pwa == pa / 16 && e.mask.getLsbD (pa % 16) with
  | none => none
  | some e => some (if e.oper = 0 then some (e.data.extractLsb' (8 * (pa % 16)) 8) else none)

/-- The physical addresses of an access's bytes, in order. -/
def partAddrs (parts : List Part) : List Nat := parts.flatMap fun p => (List.range p.len).map fun i => p.pa + i

/-- Whether the newest writer of some byte of a load is a reduction (R143). -/
def meetsRed (area : List AreaEntry) (a : Access) : Bool :=
  (partAddrs a.parts).any fun pa => areaByte area a.id pa == some none

/-- The value of a load from its bytes (R146). -/
def loadValue (op : MemOp) (w : SlotWord) (bs : Bytes) : Payload :=
  let x := leNat bs
  match op with
  | .ld => ofLanes 32 [if laneSigned (ltype w) then wrap (sext x (8 * bs.length)) 32 else x]
  | .lda => ofLanes 32 [x]
  | _ => .ofNat 128 x

/-- Whether an access is a load. -/
def MemOp.isLoad (op : MemOp) : Bool := op == .ld || op == .ldt || op == .lda

/-- A load whose bytes are all there is answered. -/
def State.loadDone (s : State) (core : Nat) (a : Access) : State :=
  if a.parts.all fun p => p.got.isSome then
    let raw := a.parts.flatMap fun p => p.got.getD []
    let bs := (raw.zip a.fwd).map fun b => b.2.getD b.1
    s.finish core a.id (loadValue a.op a.word bs)
  else s

/-- Bytes of a line given to the parts of a load that lie in it. -/
def giveLine (l : Nat) (bs : Bytes) (parts : List Part) : List Part :=
  parts.map fun p => if p.pa / 128 == l && p.got.isNone then { p with got := some ((bs.drop (p.pa % 128)).take p.len) } else p

/-- The lines that a load still needs, each once. -/
def linesNeeded (parts : List Part) : List Nat :=
  ((parts.filter fun p => p.got.isNone).map fun p => p.pa / 128).eraseDups

/-- Whether an earlier load of the core waits for one of some lines: loads of one core to one line are answered in order (R127). -/
def Core.behindLoad (c : Core) (id : Nat) (lines : List Nat) : Bool :=
  c.accesses.any fun b => decide (b.id < id) && (b.stage == .wait || b.stage == .order) && b.op.isLoad
    && (linesNeeded b.parts).any lines.contains

/-- A load reads: forwarded bytes from the area, held lines from the L1, and a GETS for each other line (R127, R143), once no earlier load
waits for a line of it. -/
def State.startLoad (s : State) (core : Nat) (a : Access) : State :=
  let c := s.core core
  let area := (c.thread a.tid).area
  let fwd := (partAddrs a.parts).map fun pa => (areaByte area a.id pa).join
  let whole := fun (p : Part) => (List.range p.len).all fun i => (areaByte area a.id (p.pa + i)).join.isSome
  let parts := a.parts.map fun p => if whole p then { p with got := some (List.replicate p.len 0) } else p
  let lines := linesNeeded parts
  if c.behindLoad a.id lines then s.modCore core fun c => c.setAccess { a with stage := .order } else
  match lines.find? fun l => (c.l1line l).st != .i && (c.l1line l).poison != 0 with
  | some l => s.accessError core a (firstBad l (c.l1line l).poison) true
  | none =>
    let parts := lines.foldl (fun ps l => if (c.l1line l).st == .i then ps else giveLine l (c.l1line l).data ps) parts
    let a := { a with parts, fwd, stage := .wait }
    let s := s.modCore core fun c => c.setAccess a
    let s := (linesNeeded parts).foldl (fun s l => s.toHome core { Pkt.mk0 .gets l core 0 with id := a.id, tid := a.tid }) s
    s.loadDone core a

/-- PREF asks for its line (R149); a line that is held needs nothing. -/
def State.startPref (s : State) (core : Nat) (a : Access) : State :=
  match a.parts with
  | [] => s.modCore core fun c => c.dropAccess a.id
  | p :: _ =>
    let l := p.pa / 128
    if ((s.core core).l1line l).st != .i || a.noL1 then s.modCore core fun c => c.dropAccess a.id
    else (s.modCore core fun c => c.setAccess { a with stage := .wait }).toHome core { Pkt.mk0 .gets l core 0 with id := a.id, tid := a.tid }

/-! ### Atomics (R151 to R153) -/

/-- The new word of an atomic or a reduction by its operation number: 0 add, 1 min, 2 max, 3 and, 4 or, 5 xor, 6 fadd, 7
exchange (R151, R153, R154). -/
def atomicWord (op : Nat) (signed : Bool) (old v : Nat) : Nat × BitVec 5 :=
  let num := fun (x : Nat) => if signed then sext x 32 else (x : Int)
  match op with
  | 0 => ((old + v) % 2 ^ 32, 0)
  | 1 => (if num v < num old then v else old, 0)
  | 2 => (if num old < num v then v else old, 0)
  | 3 => (old &&& v, 0)
  | 4 => (old ||| v, 0)
  | 5 => (old ^^^ v, 0)
  | 6 => fpSum fpF32 .rne false [⟨false, [fpDecode fpF32 old]⟩, ⟨false, [fpDecode fpF32 v]⟩]
  | _ => (v, 0)

def MemOp.atomicNum (op : MemOp) : Nat :=
  match op with
  | .aadd => 0
  | .amin => 1
  | .amax => 2
  | .aand => 3
  | .aor => 4
  | .axor => 5
  | .afadd => 6
  | _ => 7

def MemOp.isAtomic (op : MemOp) : Bool :=
  match op with
  | .aadd | .amin | .amax | .aand | .aor | .axor | .axchg | .acas | .afadd => true
  | _ => false

/-- An atomic performed in an L1 that holds the line in E or M: read and write in one step, and the line is M afterwards; an ACAS that
fails writes the old word (R129, R152, R166). AFADD's flags are set at the end of the cycle (R230). -/
def State.performAtomic (s : State) (core : Nat) (a : Access) : State :=
  match a.parts with
  | [] => s
  | p :: _ =>
    let l := p.pa / 128
    let off := p.pa % 128
    let c := s.core core
    let x := c.l1line l
    if x.poison != 0 then s.accessError core a (firstBad l x.poison) true else
    let old := leNat ((x.data.drop off).take 4)
    let v := lane a.data 32 0
    let (new, flags) := if a.op == .acas then (if old = v then lane a.data 32 1 else old, 0)
      else atomicWord a.op.atomicNum (a.word.mod.toNat < 8) old v
    let c := c.setL1 l { x with st := .m, data := putSlice x.data off (leBytes new 4) }
    (s.setCore core (c.flagLate flags)).finish core a.id (ofLanes 32 [old])

/-- The accesses that wait for ownership of a line. -/
def Core.waitOwn (c : Core) (l : Nat) : List Access :=
  c.accesses.filter fun a => a.op.isAtomic && a.stage == .wait && (match a.parts with
    | p :: _ => p.pa / 128 == l
    | [] => false)

/-- An atomic looks for its line: performed where it is owned, else it waits for the GETX that the core has sent for the line behind its
STOREs, or sends one (R129). -/
def State.startAtomic (s : State) (core : Nat) (a : Access) : State :=
  match a.parts with
  | [] => s
  | p :: _ =>
    let l := p.pa / 128
    let c := s.core core
    let st := (c.l1line l).st
    if st == .e || st == .m then s.performAtomic core a else
    match (c.waitOwn l).find? fun b => !b.old with
    | some b => s.modCore core fun c => c.setAccess { a with stage := .wait, getx := b.getx }
    | none => (s.modCore core fun c => c.setAccess { a with stage := .wait, getx := a.id }).toHome core
        { Pkt.mk0 .getx l core 0 with id := a.id, tid := a.tid }

/-! ### STL and FENCE (R147, R150) -/

/-- Whether an STL's own entries have been acknowledged (R147): they are those numbered from `entry` up. -/
def Access.ownAcked (a : Access) (t : Thread) : Bool :=
  t.area.all fun e => !(decide (a.entry ≤ e.id) && decide (e.id < a.entry + a.left))

/-- An area into which an STL's own entries enter after its commit (R147, R271): they were held under the numbers from `first` up and are
numbered from `n` up now, they stand last, and they are let go, and with them what stands before them for a word of theirs, since the
entries of a word are sent in the order in which they entered (R140). -/
def ownEnter (area : List AreaEntry) (first len n : Nat) : List AreaEntry :=
  let mine := fun (e : AreaEntry) => e.held && decide (first ≤ e.id) && decide (e.id < first + len)
  let own := area.filter mine
  let rest := (area.filter fun e => !mine e).map fun e =>
    if e.oper != 8 && !e.held && own.any fun o => o.pwa == e.pwa then { e with go := true } else e
  rest ++ own.map fun e => { e with held := false, go := true, id := e.id - first + n }

/-- An STL's own entries enter and are let go, last (R147); an invalidation that waits for them goes on waiting under their new numbers
(R102). -/
def State.sendOwn (s : State) (core : Nat) (a : Access) : State :=
  let n := (s.core core).nextId
  let renum := fun (e : Nat × Nat) => if e.1 = core ∧ a.entry ≤ e.2 ∧ e.2 < a.entry + a.left then (core, e.2 - a.entry + n) else e
  let s := { s with invals := s.invals.map fun (v : Inval) => { v with waitEnt := v.waitEnt.map renum } }
  let s := s.modCore core fun c => { (c.setAccess { a with stage := .wait, entry := n }).modThread a.tid (fun th =>
    { th with area := ownEnter th.area a.entry a.left n }) with nextId := n + a.left }
  s.pump core a.tid ((s.core core).thread a.tid).area.length

/-! ### FLUSH and INVL (R132) -/

/-- The scope that a WB of an access carries: with FLUSH.sys the home writes the line to HBM. -/
def flushScope (a : Access) : Nat := if a.op == .flush then a.scope else 0

/-- A copy written back or dropped by a FLUSH or INVL: a dirty copy goes home with a WB that the access waits for; FLUSH
leaves it clean and shared. -/
def State.cleanL1 (s : State) (core : Nat) (a : Access) (k l : Nat) : State × Nat :=
  let x := (s.core k).l1line l
  let inv := a.op == .invl
  if x.st.dirty then
    let s := s.modCore k fun c => c.setL1 l (if inv then ⟨.i, [], 0⟩ else { x with st := .s })
    (s.toHome k { wbPkt k l x (!inv) a.id with scope := flushScope a, addr := core }, 1)
  else if inv && x.st == .e then
    -- beside a proxy's dirty copy it goes home as a WB of the die, which the access waits for
    let dirty := dieOf k != lineDie l && (s.proxy (dieOf k) l).dirty
    ((s.modCore k fun c => c.setL1 l ⟨.i, [], 0⟩).toHome k { Pkt.mk0 .evn l k 0 with id := if dirty then a.id else 0, addr := core }, dirty.toNat)
  else if inv then (s.modCore k fun c => c.setL1 l ⟨.i, [], 0⟩, 0)
  else (s, 0)

/-- A proxy's copy written back or dropped by a FLUSH or INVL. What an L1 of its die owns leaves with that L1's own packet, which the proxy
passes on; a dirty copy beside an L1's clean one goes home from the proxy, and both copies are shared then. The proxy goes on counting the
sharers of its die, for fills of theirs may be on their way. -/
def State.cleanProxy (s : State) (core : Nat) (a : Access) (d l : Nat) : State × Nat :=
  if !tblHas s.proxies (4 * l + d) then (s, 0) else
  let x := s.proxy d l
  let inv := a.op == .invl
  let exclusive := x.st == .e && ((s.core x.owner).l1line l).st == .e
  if x.st.owns && !(exclusive && !inv && x.dirty) then (s, 0) else
  let home := homeSlice l
  if x.dirty then
    let s := if exclusive then s.modCore x.owner fun c => c.setL1 l { c.l1line l with st := .s } else s
    let y : Line := { x with
      dirty := false, copy := .s, data := if inv then none else x.data
      st := if exclusive then .s else x.st, owner := if exclusive then 0 else x.owner
      sharers := if exclusive then setSharer x.sharers (sharerBit l x.owner) true else x.sharers }
    ((s.setProxy d l y).toSlice home { Pkt.mk0 .wb l (384 + d) 0 with
      lineData := x.data.getD [], poison := x.poison, dirty := true, hasData := true, keep := true, id := a.id, scope := flushScope a, addr := core }, 1)
  else if inv && x.copy.owns then
    ((s.setProxy d l { x with copy := .s, data := none }).toSlice home { Pkt.mk0 .evn l (384 + d) 0 with keep := true }, 0)
  else if inv then (s.setProxy d l { x with data := none }, 0)
  else (s, 0)

/-- The cores a FLUSH or INVL acts on (R132). -/
def holdersOf (core scope : Nat) : List Nat :=
  if scope < 2 then [core] else if scope = 2 then (List.range 96).map fun i => 96 * dieOf core + i else List.range 384

/-- FLUSH or INVL of one line: the WBs it sends, and the write to HBM that FLUSH.sys waits for. -/
def State.flushLine (s : State) (core : Nat) (a : Access) (l : Nat) : State × Nat :=
  let (s, n) := (holdersOf core a.scope).foldl (fun p k =>
    if ((p.1.core k).l1line l).st == .i then p else
    let q := p.1.cleanL1 core a k l
    (q.1, p.2 + q.2)) (s, 0)
  let (s, n) := if a.scope < 2 then (s, n) else
    (if a.scope = 2 then [dieOf core] else [0, 1, 2, 3]).foldl (fun p d =>
      let q := p.1.cleanProxy core a d l
      (q.1, p.2 + q.2)) (s, n)
  let y := s.line l
  if a.op == .flush && a.scope == 4 && n == 0 && y.dirty && y.data.isSome && y.poison == 0 && !((s.die (lineDie l)).boot && bootWindow l) then
    (s.setLine l ({ y with hbmWrite := y.hbmWrite ++ [(core, a.id)] }.ask s.cycle), 1)
  else (s, n)

/-- Whether a WB or EVN of a line is on its way to a slice. -/
def State.comesHome (s : State) (l : Nat) : Bool :=
  let is := fun (p : Pkt) => p.line == l && (p.kind == .wb || p.kind == .evn)
  (s.chans.any fun c => c.2.fifo.any fun f => f.2.any is) || s.slices.any fun x => x.2.inbox.any is

/-- FLUSH or INVL of lines in turn: the WBs and HBM writes to wait for, and the lines that are left. Beyond the issuing core's own L1, a line
of which a WB or EVN is on its way is acted on once that has come: only then do its holders hold what is theirs. -/
def State.flushLines (s : State) (core : Nat) (a : Access) (lines : List Nat) : State × Nat × List Nat :=
  match lines with
  | [] => (s, 0, [])
  | l :: r =>
    if 2 ≤ a.scope && s.comesHome l then (s, 0, l :: r) else
    let (s, n) := s.flushLine core a l
    let (s, m, r) := s.flushLines core a r
    (s, n + m, r)

/-- FLUSH or INVL of every line of its span, in ascending order, after all were checked; `parts` keeps what is left of it. -/
def State.startFlush (s : State) (core : Nat) (a : Access) : State :=
  let (s, n, r) := s.flushLines core a (a.parts.map fun p => p.pa / 128).eraseDups
  let n := a.left + n
  let s := s.modCore core fun c => c.setAccess
    { a with stage := if r.isEmpty then .wait else .order, left := n, parts := a.parts.filter fun p => r.contains (p.pa / 128) }
  if n = 0 && r.isEmpty then s.finish core a.id 0 else s

/-- One of the WBs or HBM writes that a FLUSH or INVL waits for has been performed (R132). -/
def State.flushStep (s : State) (core id : Nat) : State :=
  match (s.core core).access id with
  | some a =>
    if a.op == .flush || a.op == .invl then
      if a.left ≤ 1 && a.stage == .wait then s.finish core id 0 else s.modCore core fun c => c.setAccess { a with left := a.left - 1 }
    else s
  | none => s

/-- The accesses of a core that waited for earlier ones to the same line go on at the end of a cycle. -/
def State.inOrder (s : State) (core : Nat) : State :=
  (s.core core).accesses.foldl (fun s b =>
    match (s.core core).access b.id with
    | some a => if a.stage != .order then s else if a.op.isLoad then s.startLoad core a else s.startFlush core a
    | none => s) s

/-! ### Going on -/

/-- Whether a thread that leaves a block still has something to put into its area: an STL's own entry that has not entered (R147), or the
translation of an access that commits it. -/
def Core.entersLater (c : Core) (t : Nat) : Bool :=
  ((c.thread t).area.any fun e => e.held)
    || c.accesses.any fun a => a.tid == t && a.stage == .walk && !a.op.isLoad && a.op != .pref

/-- What an access does once its commit is complete. -/
def State.afterCommit (s : State) (core : Nat) (a : Access) : State :=
  match a.op with
  | .ld | .ldt | .lda => s.startLoad core a
  | .fence => s.finish core a.id 0
  | .stl => s.sendOwn core a
  | .flush | .invl => s.startFlush core a
  | .pref => s.startPref core a
  | _ => s.startAtomic core a

/-- An access after its checks: a commit where its instruction makes one (R141, R143, R150, R152), and on. An atomic's commit
is a safe point's (R152). -/
def State.proceed (s : State) (core : Nat) (a : Access) : State :=
  let needs := match a.op with
    | .ld | .ldt | .lda => meetsRed ((s.core core).thread a.tid).area a
    | .pref | .flush | .invl => false
    | _ => true
  if !needs then s.afterCommit core a else
  let scope := match a.op with
    | .ld | .ldt | .lda => 2
    | _ => a.scope
  let n := (s.core core).nextId
  let s := if a.op.isAtomic then s.commitSafe core a.tid else s.commit core a.tid
  let a := { a with stage := .commit, bound := n }
  let s := s.modCore core fun c => c.setAccess a
  if ((s.core core).thread a.tid).committed n scope then s.afterCommit core a else s

/-- Accesses of a thread whose commit or own entries have come through, after an acknowledgement. -/
def State.advance (s : State) (core t : Nat) : State :=
  ((s.core core).accesses.filter fun a => a.tid == t).foldl (fun s a =>
    match (s.core core).access a.id with
    | none => s
    | some a =>
      let th := (s.core core).thread t
      let scope := match a.op with
        | .ld | .ldt | .lda => 2
        | _ => a.scope
      if a.stage == .commit && th.committed a.bound scope then s.afterCommit core a
      else if a.op == .stl && a.stage == .wait && a.ownAcked th then s.finish core a.id 0
      else s) s

/-- An acknowledgement frees its entry (R141), and what waited for it goes on. -/
def State.ackEntry (s : State) (core t id : Nat) : State :=
  let s := s.modThread core t fun th => { th with area := th.area.filter fun e => e.id != id }
  let s := s.modCore core fun c => c.releaseArea s.cycle t
  let s := s.pump core t ((s.core core).thread t).area.length
  s.advance core t

/-- What an access needs of its range (R98). -/
def MemOp.need (op : MemOp) : Need :=
  match op with
  | .stl => .write
  | .ld | .ldt | .lda | .pref | .flush | .invl | .fence => .read
  | _ => .atomic

/-- Every line of a span checked, line by line (R132); a miss names the address that a walk must find. -/
def flushCheck (t : List RangeEntry) (en : Bool) (sp : Nat) (priv : Bool) (va n fuel : Nat) (acc : List Part) : Xlate :=
  match fuel with
  | 0 => .ok acc false t
  | fuel + 1 =>
    if n = 0 then .ok acc false t else
    let k := min n (128 - va % 128)
    match xlate t en sp priv .read va 1 with
    | .ok parts _ t => flushCheck t en sp priv ((va + k) % 2 ^ 64) (n - k) fuel
        (acc ++ parts.map fun p => { p with len := k })
    | r => r

/-- The checks of an access in a core (R97). -/
def State.checkAccess (s : State) (core : Nat) (a : Access) : Xlate :=
  let c := s.core core
  let priv := (c.ctx a.ctx).priv
  let sp := match c.part with
    | some p => p.space
    | none => 0
  let en := s.xlateOn (dieOf core)
  if a.op == .flush || a.op == .invl then flushCheck c.rtab en sp priv a.va a.n (a.n / 128 + 2) []
  else xlate c.rtab en sp priv a.op.need a.va a.n

/-- An access translated and begun: a miss waits for its walk, a failure ends the thread's block (R97), but a PREF that
would fault is dropped (R149). -/
def State.beginAccess (s : State) (core : Nat) (a : Access) : State :=
  if a.op == .fence || ((a.op == .flush || a.op == .invl) && a.n == 0) then
    (if a.op == .fence then s.proceed core a else s.finish core a.id 0)
  else
  match s.checkAccess core a with
  | .miss va =>
    (s.modCore core fun c => c.setAccess { a with stage := .walk }).askWalk core (match (s.core core).part with
      | some p => p.space
      | none => 0) va (.access a.id)
  | .fail code va detail =>
    s.accessFault core a (rangeRec (s.recAccess core a code) code va detail a.op.need.writes)
  | .ok parts noL1 table =>
    let a := { a with parts, noL1 }
    (s.modCore core fun c => ({ c with rtab := table }).setAccess a).proceed core a

end Sys2Proof.Machine
end

