-- ==== Sys2Proof/Machine/Counter.lean ====
section
/-! DEFINITION. Counter nodes, STEP and the joins (R38 to R40, R144, R253 to R256, R348). -/

namespace Sys2Proof.Machine

/-- Whether a counter word is a bound slot (R253): its SA input is guarded with code 6. -/
def isBound (w : SlotWord) : Bool :=
  match w.sa with
  | .i n => guardAt w n.val == .kind .bnd
  | _ => false

/-- What one firing of a pass emits: the kind and the payload, and the counter after it (R254). `two` marks CNT2. -/
def passStep (k : Counter) (two : Bool) (s : Payload) : Kind × Payload × Counter :=
  let l := fun i => lane s 32 i
  if two then
    if k.i < k.sm then
      if k.j < k.sn then (.dat, ofLanes 32 [k.i * k.sn + k.j, k.j, k.i, l 3], { k with j := k.j + 1 })
      else (.eor, ofLanes 32 [k.i, 0, k.i, l 3], { k with i := k.i + 1, j := 0 })
    else (.eok, ofLanes 32 [k.sn * k.sm, 0, k.sm, l 3], k.cut)
  else if k.j < k.sn then (.dat, ofLanes 32 [k.j, l 1, l 2, l 3], { k with j := k.j + 1 })
  else (.eok, ofLanes 32 [k.sn, l 1, l 2, l 3], k.cut)

/-- The counter at the start of a pass: the counts in force (R254). -/
def passStart (k : Counter) (slot tid : Nat) : Counter :=
  { k with active := true, i := 0, j := 0, slot, tid, sn := k.n, sm := k.m }

/-- A bound taken (R254). -/
def takeBound (k : Counter) (two : Bool) (b : Payload) : Counter :=
  if k.active then
    { k with pn := lane b 32 0, pm := if two then lane b 32 1 else k.pm, pend := true, pendM := k.pendM || two }
  else { k with n := lane b 32 0, m := if two then lane b 32 1 else k.m }

/-- A firing of CNT or CNT2. A pass that a resumption has restored is from here on the slot's that goes on with it (log 17). -/
def fireCounter (w : SlotWord) (s : State) (two : Bool) : State :=
  match residueFault s w with
  | some p => residueTrap s w p
  | none =>
    let o := readOps s w 32
    let k := s.hereCtx.cnt
    if isBound w then
      (fireWith s w 1 o { res := 0, pu := false, emit := false }).modHereCtx fun y => { y with cnt := takeBound k two o.a }
    else
      let k := if k.active then (if k.slot = 16 then { k with slot := s.loc.slot } else k) else passStart k s.loc.slot o.tid
      let (kind, p, k) := passStep k two o.a
      (fireWith s w 1 o { res := p, kind := some kind, last := kind == .eok }).modHereCtx fun y => { y with cnt := k }

/-- CNT. -/
def execCnt (w : SlotWord) (s : State) : Host.Outcome State Fault Refusal := .next (fireCounter w s false)

/-- CNT2. -/
def execCnt2 (w : SlotWord) (s : State) : Host.Outcome State Fault Refusal := .next (fireCounter w s true)

/-- STEP's new register value (R256). -/
def stepResult (t : Nat) (bounded : Bool) (a b c : Payload) : Payload :=
  mapLanes (laneWidth t) fun i =>
    let v := laneNum t a i + laneNum t b i
    wrap (if bounded && laneNum t c i ≤ v then v - laneNum t c i else v) (laneWidth t)

/-- STEP: the register is written at the end of the firing cycle, and the value before the step leaves one cycle later. -/
def execStep (w : SlotWord) (s : State) : Host.Outcome State Fault Refusal :=
  match residueFault s w with
  | some p => .next (residueTrap s w p)
  | none =>
    let o := readOps s w (lwidth w)
    let s := if readsFreeTid s w then { s with freeNo := s.freeNo + 1 } else s
    let s1 := fireHeads s w o { res := o.a, width := lwidth w }
    let s2 := pushFlights s1
      [flightOf s o.tid (some s.cycle) 0 0 w.dr (stepResult (ltype w) (!isNone w.sc) o.a o.b o.c) w.ok .raw true 0]
    .next (if w.om == 0 then s2 else
      pushFlights s2 [flightOf s o.tid (some (s.cycle + 1)) 0 w.om none o.a w.ok .raw true 0])

/-- JOINK (R348): the k-th head is emitted, the others are counted, and a squash does not undo it (R356). -/
def execJoink (w : SlotWord) (s : State) : Host.Outcome State Fault Refusal :=
  if (residueFault s w).isSome then .next (fireOp s w 1 32 fun o => { res := o.a }) else
  let n := (tblGet (⟨0, 0⟩ : Join) s.hereCtx.join 0).count + 1
  let full := n == bits w.imm.toNat 15 0
  let s1 := fireOp s w 1 32 fun o => { res := o.a, emit := full }
  let s2 := s1.modHereCtx fun y => { y with join := [(0, ⟨if full then 0 else n, sourceTid s w⟩)] }
  .next (s2.setIrrev s.loc.core (sourceTid s w))

/-- ORDJ (R144): an ord token carries no data. -/
def execOrdj (w : SlotWord) (s : State) : Host.Outcome State Fault Refusal :=
  .next (fireOp s w 1 32 fun _ => { res := 0 })

end Sys2Proof.Machine
end

