-- ==== Sys2Proof/Machine/Safepoint.lean ====
section
/-! DEFINITION. What a safe point keeps: items and their values (R63, R255, R366), and the descriptors of a block. -/

namespace Sys2Proof.Machine

/-- A counter state as its 32 bytes (R255). -/
def Counter.pack (k : Counter) : Nat :=
  k.n + k.m * 2 ^ 32 + k.pn * 2 ^ 64 + k.pm * 2 ^ 96 + k.j * 2 ^ 128 + k.i * 2 ^ 160 + k.active.toNat * 2 ^ 192
    + k.pend.toNat * 2 ^ 193

/-- A counter state restored for a thread: the pass goes on from any start slot (16), and pending counts are both pending
(log 17). -/
def Counter.unpack (x tid : Nat) : Counter :=
  { n := bits x 31 0, m := bits x 63 32, pn := bits x 95 64, pm := bits x 127 96, pendM := bit x 193, j := bits x 159 128
    i := bits x 191 160, active := bit x 192, pend := bit x 193, slot := 16, tid, sn := bits x 31 0, sm := bits x 63 32 }

/-- The value of one item of a block in a context (R63); a bank's contents stay in the bank. -/
def Core.itemValue (c : Core) (x : Nat) (i : SafeItem) : Nat :=
  let y := (c.site i.site).ctx x
  match i.type with
  | 1 => (y.d i.index).bits.toNat
  | 2 => y.cnt.pack
  | _ => 0

/-- The items of a descriptor with their values. -/
def Core.capture (c : Core) (x : Nat) (d : SafeDesc) : List (SafeItem × Nat) := d.items.map fun i => (i, c.itemValue x i)

/-- Items put back into a context (R366). -/
def Core.restoreItems (c : Core) (x tid : Nat) (items : List (SafeItem × Nat)) : Core :=
  items.foldl (fun c p => match p.1.type with
    | 1 => c.modSite p.1.site fun s => s.modCtx x fun y => y.setD p.1.index (mkVal (.ofNat 128 p.2))
    | 2 => c.modSite p.1.site fun s => s.modCtx x fun y => { y with cnt := .unpack p.2 tid }
    | _ => c) c

/-- The descriptor of safe point k of the block in a context. -/
def Ctx.safe (x : Ctx) (k : Nat) : Option SafeDesc := x.safes.find? fun d => d.k == k

/-- The descriptor whose resume route is an input of a site that a word dequeues (R180). -/
def Ctx.resumeAt (x : Ctx) (site : Nat) (dq : BitVec 4) : Option SafeDesc :=
  x.safes.find? fun d => d.site == site && dq.getLsbD d.rin

/-- A token's payload and tag, as a resume token keeps them (R367). -/
def slotOf (h : Option Token) : Slot :=
  match h with
  | some h => ⟨h.val, h.tag⟩
  | none => ⟨mkVal 0, .raw⟩

/-- A thread passes the safe point of a descriptor in the firing's context (R364, R367). A thread in a handler keeps the resume
point it had when it entered it (R358; log 22); its count restarts, its journals are freed and its IRREV bit is cleared all the same. -/
def State.passSafe (s : State) (t : Nat) (d : SafeDesc) (tok : Slot) : State :=
  let c := s.here
  if (c.thread t).handler then s.passPoint s.loc.core t
  else s.resumePoint s.loc.core t (c.ctx s.loc.ctx).blk (some d.k) tok (c.capture s.loc.ctx d)

end Sys2Proof.Machine
end

