-- ==== Sys2Proof/Machine/Tiles.lean ====
section
/-! DEFINITION. The tile and allocation instructions (R46, R183 to R193) and the wide network's reservations (R249, R250). -/

namespace Sys2Proof.Machine

/-! ### Naming a tile (R46, R169, R185) -/

/-- What an instruction meets at a tile. -/
inductive TileUse where
  | wait
  | bad (code : Nat)
  | ok
  deriving DecidableEq, Repr

def handleIdx (h : Nat) : Nat := h % 4096
def handleGen (h : Nat) : Nat := h / 4096 % 16

/-- The handle of an entry (R169). -/
def Core.handle (c : Core) (i : Nat) : Nat := (c.tile i).gen * 4096 + i

/-- The checks of R46 and R185: generation and space, the layout where the word states one, and the state it needs: FILLING
and the thread's own, or READY. A layout that differs gives TILE_LAYOUT before the state and the owner are looked at: R46 ranks neither
(DESIGN CHOICE, log 127). -/
def tileUse (s : State) (h : Nat) (layout : Option Nat) (fill : Bool) (tid : Nat) : TileUse :=
  let i := handleIdx h
  let t := s.here.tile i
  if t.state == .empty || t.gen != handleGen h || t.space != s.hereSpace then .bad 0x20
  else if (match layout with
    | some l => l != t.layout
    | none => false) then .bad 0x21
  else if fill then
    (if t.state != .filling || t.owner != tid then .bad 0x20 else if s.here.moving i then .wait else .ok)
  else match t.state with
    | .ready => if s.here.moving i then .wait else .ok
    | .filling => .wait
    | _ => .bad 0x20

/-- The handle that SA gives (R169). -/
def handleOf (o : Ops) : Nat := bits o.a.toNat 15 0

/-- The layout a class Y word states. -/
def layoutOf (w : SlotWord) : Nat := w.mod.toNat % 8

/-- A firing whose result no rule states: a free value where it is emitted (log 19). -/
def fireFree (s : State) (w : SlotWord) (lat : Nat) (o : Ops) : State :=
  if w.om == 0 then fireWith s w lat o { res := 0 }
  else let (v, s) := { s with freeNo := s.freeNo + 1 }.free; fireWith s w lat o { res := .ofNat 128 v }

/-- The readiness of an instruction that names a tile. -/
def readyTile (s : State) (w : SlotWord) (layout : Option Nat) (fill : Bool) : Readiness :=
  if (residueFault s w).isSome then .fire else
  let o := readOps s w 32
  match tileUse s (handleOf o) layout fill o.tid with
  | .wait => .wait
  | _ => .fire

/-- A firing on a tile: the fault, or what the instruction does. -/
def fireTile (s : State) (w : SlotWord) (layout : Option Nat) (fill : Bool) (f : Ops → Tile → State) : State :=
  match residueFault s w with
  | some p => residueTrap s w p
  | none =>
    let o := readOps s w 32
    match tileUse s (handleOf o) layout fill o.tid with
    | .wait => s
    | .bad code => slotFault s w code (handleOf o)
    | .ok => f o (s.here.tile (handleIdx (handleOf o)))

/-- The result of SEAL, RELEASE and RETAIN: the handle, or an ord token's zeros (R185). -/
def handleResult (w : SlotWord) (h : Nat) : Payload := if w.ok == .ord then 0 else fillLanes 32 h

def State.endOp (s : State) (e : EndOp) : State := s.modHere fun c => { c with endq := c.endq ++ [e] }

/-! ### SEAL, RELEASE, RETAIN (R187) -/

/-- Whether a write to a tile is still on its way (R184). -/
def Core.writesTo (c : Core) (i : Nat) : Bool := c.writes.any fun k => k.tile == i

/-- SEAL waits for a write that was fired earlier (R184); of one fired in its own cycle by another memory element the order of the turns says
whether it was (DESIGN CHOICE, log 151). -/
def readySeal (s : State) (w : SlotWord) : Readiness :=
  match readyTile s w none true with
  | .fire =>
    if (residueFault s w).isNone && s.here.writesTo (handleIdx (handleOf (readOps s w 32))) then .wait else .fire
  | r => r

/-- SEAL. -/
def execSeal (w : SlotWord) (s : State) : Host.Outcome State Fault Refusal :=
  .next (fireTile s w none true fun o _ =>
    let n := lane o.b 32 0
    let h := handleOf o
    if n = 0 || 255 < n then slotFault s w 0x20 h
    else (fireWith s w 2 o { res := handleResult w h }).endOp (.seal (handleIdx h) n))

/-- RELEASE. -/
def execRelease (w : SlotWord) (s : State) : Host.Outcome State Fault Refusal :=
  .next (fireTile s w none false fun o _ =>
    (fireWith s w 2 o { res := handleResult w (handleOf o) }).endOp (.release (handleIdx (handleOf o))))

/-- RETAIN. -/
def execRetain (w : SlotWord) (s : State) : Host.Outcome State Fault Refusal :=
  .next (fireTile s w none false fun o t =>
    if t.cons = 255 then slotFault s w 0x20 (handleOf o)
    else (fireWith s w 2 o { res := handleResult w (handleOf o) }).endOp (.retain (handleIdx (handleOf o))))

/-! ### Narrow accesses (R188) -/

/-- The byte offset that lane 0 of SB gives, with the low bits ignored; none where the access leaves the tile. -/
def tileOff (o : Ops) (t : Tile) (n : Nat) : Option Nat :=
  let off := lane o.b 32 0 / n * n
  if 32 * t.size < off + n then none else some off

/-- A tile read holds the tile where it stands until its result leaves (R181). -/
def State.pinTile (s : State) (h : Nat) : State :=
  s.modHere fun c => c.modTile (handleIdx h) fun t => { t with pinTo := max t.pinTo (s.cycle + 6) }

/-- TLD. -/
def execTld (w : SlotWord) (s : State) : Host.Outcome State Fault Refusal :=
  .next (fireTile s w (some (layoutOf w)) false fun o t =>
    match tileOff o t 16 with
    | none => slotFault s w 0x20 (handleOf o)
    | some off => (fireWith s w 6 o { res := .ofNat 128 (leNat (s.here.tileRead t off 16)), tag := w.fmt }).pinTile (handleOf o))

/-- A tile write on its way (R184). -/
def State.tileWrite (s : State) (due tile off : Nat) (data : Bytes) (tid : Nat) : State :=
  s.modHere fun c => { c with writes := c.writes ++ [⟨due, tile, off, data, tid⟩] }

/-- TST. -/
def execTst (w : SlotWord) (s : State) : Host.Outcome State Fault Refusal :=
  .next (fireTile s w (some (layoutOf w)) true fun o t =>
    match tileOff o t 16 with
    | none => slotFault s w 0x20 (handleOf o)
    | some off => (fireFree s w 6 o).tileWrite (s.cycle + 6) (handleIdx (handleOf o)) off (leBytes o.c.toNat 16) o.tid)

/-- TZERO (R189). -/
def execTzero (w : SlotWord) (s : State) : Host.Outcome State Fault Refusal :=
  .next (fireTile s w none true fun o t =>
    (fireWith s w 6 o { res := 0 }).tileWrite (s.cycle + 6 + (t.size + 31) / 32) (handleIdx (handleOf o)) 0
      (List.replicate (32 * t.size) 0) o.tid)

/-- TINFO's lanes (R190). -/
def tinfoResult (h : Nat) (t : Tile) : Payload :=
  let st := match t.state with
    | .empty => 0
    | .filling => 1
    | .ready => 2
    | .draining => 3
  ofLanes 32 [h, t.size, t.base, st + t.layout * 16 + t.cons * 256 + t.pool * 65536 + t.wout.toNat * 2 ^ 20]

/-- TINFO. -/
def execTinfo (w : SlotWord) (s : State) : Host.Outcome State Fault Refusal :=
  .next (fireTile s w none false fun o t => fireWith s w 2 o { res := tinfoResult (handleOf o) t })

/-! ### Slabs (R191, R247) -/

/-- The size of a sub-block (R246), and its slabs' offsets (R247). -/
def subBlock (f : Fmt) : Nat :=
  match f with
  | .sx7 => 1152
  | .sx4 => 768
  | .sx2 => 512
  | _ => 1024

def slabOff (f : Fmt) (n : Nat) : Option Nat :=
  let sx := fun (m : Nat) => if n ≤ m then some (128 * n) else if n = 15 then some (128 * (m + 1)) else none
  match f with
  | .sx7 => sx 7
  | .sx4 => sx 4
  | .sx2 => sx 2
  | .e4m3 => if n ≤ 3 then some (128 * n) else if 8 ≤ n ∧ n ≤ 11 then some (128 * (n - 4)) else none
  | .e5m2 => if n ≤ 2 then some (128 * n) else if 8 ≤ n ∧ n ≤ 12 then some (128 * (n - 5)) else none
  | _ => none

/-- The logical offset that TPLN's selection names. -/
def tplnOff (f : Fmt) (t : Tile) (b : Payload) : Option Nat :=
  match slabOff f (lane b 32 1) with
  | none => none
  | some k =>
    let off := lane b 32 0 * subBlock f + k + 16 * lane b 32 2
    if 7 < lane b 32 2 || 32 * t.size < off + 16 then none else some off

/-- TPLN. -/
def execTpln (w : SlotWord) (s : State) : Host.Outcome State Fault Refusal :=
  .next (fireTile s w (some (layoutOf w)) false fun o t =>
    match tplnOff w.fmt t o.b with
    | none => slotFault s w 0x20 (handleOf o)
    | some off => (fireWith s w 6 o { res := .ofNat 128 (leNat (s.here.tileRead t off 16)), tag := w.fmt }).pinTile (handleOf o))

/-! ### The wide network (R249, R250) -/

/-- The index of a memory element, its site, and its mirror (R249). -/
def meIndex (site : Nat) : Nat := if site % 16 = 0 then site / 16 - 4 else site / 16 + 4
def meSite (e : Nat) : Nat := if e < 8 then 16 * (e + 4) else 16 * (e - 4) + 15
def meMirror (site : Nat) : Nat := meSite (meIndex site ^^^ 8)

/-- The matrix tiles (R20). -/
def mtSites : List Nat := ([2, 7, 12] : List Nat).flatMap fun r => ([3, 6, 9, 12] : List Nat).map fun k => 16 * r + k

/-- The memory element that an MTCFG word of a context names. -/
def SiteCtx.mtcfg (y : SiteCtx) : Option Nat :=
  y.words.findSome? fun p => match decodeWord p.2 with
    | .ok (.mtcfg w) => some (bits w.imm.toNat 3 0)
    | _ => none

/-- The matrix tiles of a context whose MTCFG names an element. -/
def Core.boundMts (c : Core) (x e : Nat) : List Nat := mtSites.filter fun k => ((c.site k).ctx x).mtcfg == some e

/-- Whether a matrix tile's binding has taken effect (R252). -/
def Core.isBoundMt (c : Core) (now x e k : Nat) : Bool :=
  match ((c.site k).ctx x).mtsrc with
  | some (n, from_) => n == e && decide (from_ ≤ now)
  | none => false

/-- The beats that take room in a wide buffer, those on their way included. -/
def Core.beatsAt (c : Core) (now k : Nat) : Nat :=
  ((c.site k).wb.filter fun b => match b.gone with
    | none => true
    | some g => decide (now ≤ g)).length + (c.wide.filter fun w => w.dests.contains k).length

/-- The destinations of a TLDW, when each is bound and has room. -/
def Core.tldwDests (c : Core) (now x site : Nat) : Option (List Nat) :=
  let e := meIndex site
  let mts := c.boundMts x e
  if mts.isEmpty then (if c.beatsAt now (meMirror site) < 2 then some [meMirror site] else none)
  else if mts.all fun k => c.isBoundMt now x e k && decide (c.beatsAt now k < 16) then some mts else none

/-- The beats of a wide buffer that can be taken, front first. -/
def wideFront (now : Nat) (b : List Beat) : List Beat :=
  (b.filter fun x => match x.gone with
    | none => true
    | some g => decide (now ≤ g)).takeWhile fun x => x.gone.isNone && decide (x.since ≤ now)

/-- The buffer with its first n beats leaving at the end of the cycle. -/
def wideTake (now n : Nat) (b : List Beat) : List Beat :=
  let live := b.filter fun x => match x.gone with
    | none => true
    | some g => decide (now ≤ g)
  (live.zipIdx).map fun x => if x.2 < n then { x.1 with gone := some now } else x.1

def readyTldw (s : State) (w : SlotWord) : Readiness :=
  match readyTile s w (some (layoutOf w)) false with
  | .fire => if (s.here.tldwDests s.cycle s.loc.ctx s.loc.site).isSome then .fire else .wait
  | r => r

/-- TLDW. -/
def execTldw (w : SlotWord) (s : State) : Host.Outcome State Fault Refusal :=
  .next (fireTile s w (some (layoutOf w)) false fun o t =>
    match tileOff o t 128, s.here.tldwDests s.cycle s.loc.ctx s.loc.site with
    | none, _ => slotFault s w 0x20 (handleOf o)
    | some _, none => s
    | some off, some dests =>
      let beat : Beat := ⟨s.here.tileRead t off 128, s.loc.ctx, o.tid, s.cycle + 7, none⟩
      ((fireWith s w 6 o { res := 0 }).pinTile (handleOf o)).modHere fun c =>
        { c with wide := c.wide ++ [⟨s.cycle + 6, s.loc.site, dests, beat⟩] })

/-- The beat that a TSTW takes: the front of its wide buffer, when it is its own context's and its thread's. -/
def frontBeat (s : State) (w : SlotWord) : Option Beat :=
  match wideFront s.cycle s.hereSite.wb with
  | b :: _ =>
    if b.ctx == s.loc.ctx && (match firingTid s w with
      | some t => t == b.tid
      | none => true) then some b else none
  | [] => none

def readyTstw (s : State) (w : SlotWord) : Readiness :=
  match frontBeat s w with
  | none => .wait
  | some _ => readyTile s w (some (layoutOf w)) true

/-- TSTW. -/
def execTstw (w : SlotWord) (s : State) : Host.Outcome State Fault Refusal :=
  match frontBeat s w with
  | none => .next s
  | some b => .next (fireTile s w (some (layoutOf w)) true fun o t =>
    match tileOff o t 128 with
    | none => slotFault s w 0x20 (handleOf o)
    | some off =>
      ((fireFree s w 6 o).tileWrite (s.cycle + 6) (handleIdx (handleOf o)) off b.data o.tid).modHereSite fun x =>
        { x with wb := wideTake s.cycle 1 x.wb })

/-! ### Pools (R192) -/

/-- POOL's lanes, from the pool as it stands. -/
def Core.poolResult (c : Core) (now k : Nat) : Payload :=
  let fs := c.freeMap now k
  ofLanes 32 [(c.pool k).size, (fs.filter id).length, longestRun fs 0 0, (c.waiting.filter fun r => r.pool == k).length]

/-- POOL: its values are those at the end of the firing cycle, filled in then. -/
def execPool (w : SlotWord) (s : State) : Host.Outcome State Fault Refusal :=
  match residueFault s w with
  | some p => .next (residueTrap s w p)
  | none => .next ((fireWith s w 2 (readOps s w 32) { res := 0 }).endOp (.pool s.loc.site s.loc.slot (bits w.imm.toNat 3 0)))

/-! ### ALLOC (R178 to R180, R186) -/

/-- The size that an ALLOC asks for, and whether it is one the pool can give. -/
def allocSize (w : SlotWord) (o : Ops) : Nat := if w.sb == .lit then bits w.imm.toNat 19 4 else lane o.b 32 0
def allocOk (s : State) (w : SlotWord) (o : Ops) : Bool :=
  let p := s.here.pool (bits w.imm.toNat 3 0)
  let n := allocSize w o
  n != 0 && decide (n ≤ p.size) && (w.sb == .lit || decide (n ≤ p.reserve))

def sameSlot (k : ReqKind) (site slot : Nat) : Bool :=
  match k with
  | .alloc a _ b _ | .acca a _ b | .grow a _ b | .journal _ a b => a == site && b == slot
  | .commit => false

/-- The grant that a slot holds, and whether it has a request in the list. -/
def heldGrant (s : State) (tid : Nat) (acca : Bool) : Option Grant :=
  s.here.grants.find? fun g => g.tid == tid && sameSlot g.kind s.loc.site s.loc.slot && (match g.kind with
    | .acca _ _ _ => acca
    | _ => !acca)
def hasReq (s : State) (tid : Nat) : Bool :=
  s.here.waiting.any fun r => r.tid == tid && sameSlot r.kind s.loc.site s.loc.slot

def readyAlloc (s : State) (w : SlotWord) (acca : Bool) : Readiness :=
  if (residueFault s w).isSome then .fire else
  let o := readOps s w 32
  if (heldGrant s o.tid acca).isSome then .fire else if hasReq s o.tid then .wait
  else if !acca && s.commitWaits s.loc.core o.tid && (s.here.thread o.tid).lettingGo then .wait else .ask

/-- ALLOC: with a grant it fires; without one it passes its safe point, once its commit can be complete (log 121), and joins the list. -/
def execAlloc (w : SlotWord) (s : State) : Host.Outcome State Fault Refusal :=
  match residueFault s w with
  | some p => .next (residueTrap s w p)
  | none =>
    let o := readOps s w 32
    let d := (s.here.ctx s.loc.ctx).resumeAt s.loc.site w.dq
    match heldGrant s o.tid false with
    | some g =>
      let s1 := fireWith s w 4 o { res := fillLanes 32 (s.here.handle g.num) }
      .next (s1.modHere fun c => { c with grants := c.grants.erase g }.modThread o.tid fun th =>
        { th with allocAt := if d.isSome then some (s.loc.site, s.loc.slot, g.num) else none })
    | none =>
      if hasReq s o.tid then .next s
      else if !allocOk s w o then .next (slotFault s w 0x23 0)
      else if s.commitWaits s.loc.core o.tid then .next (s.commit s.loc.core o.tid)
      else
        let s1 := s.commitSafe s.loc.core o.tid
        let s2 := match d with
          | some d => s1.passSafe o.tid d (slotOf (s.here.head s.cycle s.loc.site s.loc.ctx d.rin))
          | none => s1
        .next (s2.modHere fun c => c.join
          ⟨.alloc s.loc.site s.loc.ctx s.loc.slot (layoutOf w), o.tid, bits w.imm.toNat 3 0, allocSize w o, s.cycle⟩)

/-! ### ACCA and ACCF (R193) -/

/-- ACCA: with a grant it fires; without one it joins the list of the bank pool. -/
def execAcca (w : SlotWord) (s : State) : Host.Outcome State Fault Refusal :=
  match residueFault s w with
  | some p => .next (residueTrap s w p)
  | none =>
    let o := readOps s w 32
    let n := lane o.b 32 0
    match heldGrant s o.tid true with
    | some g =>
      .next ((fireWith s w 4 o { res := ofLanes 32 [g.num, (s.here.bank g.num).count, 0, 0] }).modHere fun c =>
        { c with grants := c.grants.erase g })
    | none =>
      if hasReq s o.tid then .next s
      else if n = 0 || 192 < n then .next (slotFault s w 0x23 0)
      else .next (s.modHere fun c => c.join ⟨.acca s.loc.site s.loc.ctx s.loc.slot, o.tid, 16, n, s.cycle⟩)

/-- Whether a bank is the first of an allocation that a thread's ACCA made. -/
def Core.ownsAlloc (c : Core) (b tid : Nat) : Bool := (c.bank b).holder == some tid && (c.bank b).first == b

/-- The banks of an allocation. -/
def Core.allocBanks (c : Core) (b : Nat) : List Nat := (List.range (c.bank b).count).map (b + ·)

def readyAccf (s : State) (w : SlotWord) : Readiness :=
  if (residueFault s w).isSome then .fire else
  let o := readOps s w 32
  let b := lane o.a 32 0
  if !s.here.ownsAlloc b o.tid then .fire
  else if (s.here.allocBanks b).all fun k => s.here.inflight s.cycle k == 0 then .fire else .wait

/-- ACCF. -/
def execAccf (w : SlotWord) (s : State) : Host.Outcome State Fault Refusal :=
  match residueFault s w with
  | some p => .next (residueTrap s w p)
  | none =>
    let o := readOps s w 32
    let b := lane o.a 32 0
    if !s.here.ownsAlloc b o.tid then .next (slotFault s w 0x24 0)
    else if !((s.here.allocBanks b).all fun k => s.here.inflight s.cycle k == 0) then .next s
    else .next ((fireFree s w 2 o).modHere fun c => (s.here.allocBanks b).foldl (fun c k => c.freeBank s.cycle k) c)

end Sys2Proof.Machine
end

