-- ==== Sys2Proof/Machine/Matrix.lean ====
section
/-! DEFINITION. The matrix tiles and the accumulator banks (R244 to R247, R252, R257 to R266), and a start's request (R350). -/

namespace Sys2Proof.Machine

/-! ### Elements (R246, R247, R259) -/

/-- planes(f) of R245. -/
def planes (f : Fmt) : Nat :=
  match f with
  | .sx2 => 2
  | .e5m2 => 3
  | .sx4 | .e4m3 => 4
  | _ => 7

/-- Whether a format is one of the shared-exponent formats. -/
def isSx (f : Fmt) : Bool := f == .sx7 || f == .sx4 || f == .sx2

/-- Bit (x, t) of the slab at an offset of a sub-block. -/
def slabBit (sub : Nat) (off x t : Nat) : Nat := sub / 2 ^ (8 * off + 32 * x + t) % 2

/-- Element (x, t) of a PLANES sub-block, from its bytes as a number (R247, R259). -/
def planeElem (f : Fmt) (sub x t : Nat) : Num :=
  let at_ := fun (n : Nat) => slabBit sub (128 * n) x t
  if isSx f then
    let m := sxBits f
    let mag := ((List.range m).map fun i => at_ (i + 1) * 2 ^ i).sum
    let b := 2 * x + t / 16
    let sc := 8 * (128 * (m + 1) + 2 * b)
    sxDecode m (bits sub (sc + 7) sc) (bits sub (sc + 15) (sc + 8)) (t % 16) (mag + at_ 0 * 2 ^ m)
  else
    let ff := fpOf f
    let man := ((List.range ff.mbits).map fun i => at_ (i + 1) * 2 ^ i).sum
    let ex := ((List.range ff.ebits).map fun j => at_ (ff.mbits + 1 + j) * 2 ^ j).sum
    fpDecode ff (man + ex * 2 ^ ff.mbits + at_ 0 * 2 ^ (ff.mbits + ff.ebits))

/-- Element (x, t) of a packed sub-block, from its bytes as a number (R246, R226). -/
def packedElem (f : Fmt) (sub x t : Nat) : Num :=
  if isSx f then
    let m := sxBits f
    let b := 8 * (2 * (m + 2)) * (2 * x + t / 16)
    let k := b + 16 + (m + 1) * (t % 16)
    sxDecode m (bits sub (b + 7) b) (bits sub (b + 15) (b + 8)) (t % 16) (bits sub (k + m) k)
  else fpDecode (fpOf f) (bits sub (8 * (32 * x + t) + 7) (8 * (32 * x + t)))

/-- chunkround of R260 over the 32 products of one output. -/
def chunkRound (as bs : List Num) : Nat × BitVec 5 :=
  if as.any Num.isNaN || bs.any Num.isNaN then (fpNaN fpF32, 0)
  else fpSum fpF32 .rne false ((as.zip bs).map fun p => ⟨false, [p.1, p.2]⟩) true

/-- The 1,024 rounded sums of a chunk, in the order 32x + y, and their flags. -/
def chunkSums (fa fb : Fmt) (a b : Nat) : List (BitVec 32) × BitVec 5 :=
  let rows := (List.range 32).map fun x => (List.range 32).map fun t => planeElem fa a x t
  let cols := (List.range 32).map fun y => (List.range 32).map fun t => packedElem fb b y t
  let rs := rows.flatMap fun r => cols.map fun k => chunkRound r k
  (rs.map fun r => .ofNat 32 r.1, rs.foldl (fun f r => f ||| r.2) 0)

/-- rne32(acc + q) of R259 and R260. -/
def accumulate (acc q : Nat) : Nat × BitVec 5 :=
  fpSum fpF32 .rne false [⟨false, [fpDecode fpF32 acc]⟩, ⟨false, [fpDecode fpF32 q]⟩]

/-- A bank's word. -/
def Bank.word (b : Bank) (w : Nat) : Payload := tblGet 0 b.words w

/-- Element e of a bank. -/
def Bank.elem (b : Bank) (e : Nat) : Nat := lane (b.word (e / 4)) 32 (e % 4)

/-- A bank after a chunk's 512 elements are added to it, or replace it, with the flags of the accumulations. -/
def Bank.addChunk (b : Bank) (zero : Bool) (qs : List (BitVec 32)) : Bank × BitVec 5 :=
  (List.range 128).foldl (fun p w =>
    let rs := [0, 1, 2, 3].map fun i =>
      let q := (qs.getD (4 * w + i) 0).toNat
      if zero then (q, 0) else accumulate (lane (b.word w) 32 i) q
    ({ p.1 with words := tblSet p.1.words w (ofLanes 32 (rs.map (·.1))) }, rs.foldl (fun f r => f ||| r.2) p.2)) (b, 0)

/-! ### Banks and journals (R262, R263, R266) -/

/-- Whether a thread holds a bank (R262). -/
def Core.holds (c : Core) (b tid : Nat) : Bool := b ≤ 191 && (c.bank b).holder == some tid

/-- Banks whose journal copy must still be made, and whether one of them can be asked for now: none of its chunks is in
flight, and no request or copy of it is under way (R266; log 20). -/
def Core.journalsMissing (c : Core) (bs : List Nat) : List Nat := bs.filter fun b => (c.bank b).journal.isNone
def Core.journalAsk (c : Core) (bs : List Nat) : List Nat :=
  (c.journalsMissing bs).filter fun b => (c.bank b).jrun.isNone && !(c.chunks.any fun k => k.bank == b || k.bank + 1 == b)
    && !(c.waiting.any fun q => match q.kind with
      | .journal k _ _ => k == b
      | _ => false)

def readyJournals (s : State) (bs : List Nat) (tid : Nat) (go : Readiness) : Readiness :=
  if (s.here.journalsMissing bs).isEmpty then go else if (s.here.journalAsk bs).isEmpty || hasReq s tid then .wait else .ask

/-- The request for the granules of the next journal copy: a slot holds one request at a time (R178). -/
def askJournals (s : State) (bs : List Nat) (tid : Nat) : State :=
  s.modHere fun c => match c.journalAsk bs with
    | b :: _ => c.join ⟨.journal b s.loc.site s.loc.slot, tid, 15, 64, s.cycle⟩
    | [] => c

/-! ### MTCFG (R252) -/

/-- MTCFG: the binding takes effect at the end of the firing cycle, and later firings change nothing. -/
def execMtcfg (w : SlotWord) (s : State) : Host.Outcome State Fault Refusal :=
  .next ((fireOp s w 2 32 fun _ => { res := ofLanes 32 [w.imm.toNat] }).modHereCtx fun y =>
    { y with mtsrc := match y.mtsrc with
      | some b => some b
      | none => some (bits w.imm.toNat 3 0, s.cycle + 1) })

/-! ### MMA and MMAZ (R257 to R261) -/

/-- The A format that MOD states. -/
def aFmt (w : SlotWord) : Fmt := Fmt.ofCode (w.mod.toNat % 8)

/-- What an MMA meets: a fault, a wait, a request for journals or for its start, or its firing. -/
inductive MmaPlan where
  | bad (code detail : Nat)
  | wait
  | journals (bs : List Nat)
  | start
  | go
  deriving DecidableEq, Repr

def startReq (s : State) (tid : Nat) : StartReq := ⟨s.cycle, s.loc.core, s.loc.site, s.loc.ctx, s.loc.slot, tid⟩
def sameStart (a b : StartReq) : Bool := a.core == b.core && a.site == b.site && a.ctx == b.ctx && a.slot == b.slot && a.tid == b.tid

/-- Whether a matrix tile's next MMA is a start (R350). -/
def isStart (s : State) : Bool :=
  match s.hereSite.lastMma with
  | none => true
  | some l => l + 256 < s.cycle

/-- The beats of a B chunk at the front of the wide buffer, when all are the thread's and the context's. -/
def chunkBeats (s : State) (w : SlotWord) (tid : Nat) : Option (List Beat) :=
  let n := subBlock w.fmt / 128
  let bs := (wideFront s.cycle s.hereSite.wb).take n
  if bs.length == n && bs.all fun b => b.ctx == s.loc.ctx && b.tid == tid then some bs else none

/-- The checks of R258, in order. -/
def mmaPlan (s : State) (w : SlotWord) (o : Ops) : MmaPlan :=
  let h := bits o.c.toNat 47 32
  let u := lane o.c 32 0
  let b := lane o.c 32 2
  let c := s.here
  match tileUse s h (some 2) false o.tid with
  | .bad code => .bad code h
  | .wait => .wait
  | .ok =>
    if 32 * (c.tile (handleIdx h)).size < (u + 1) * subBlock (aFmt w) then .bad 0x20 h
    else if 190 < b || !c.holds b o.tid || !c.holds (b + 1) o.tid then .bad 0x24 0
    else if (chunkBeats s w o.tid).isNone || s.cycle < s.hereSite.busy then .wait
    else if c.chunks.any fun k => k.site != s.loc.site && (k.bank == b || k.bank + 1 == b || k.bank == b + 1) then .wait
    else if !(c.journalsMissing [b, b + 1]).isEmpty then
      (if (c.journalAsk [b, b + 1]).isEmpty || hasReq s o.tid then .wait else .journals [b, b + 1])
    else if !isStart s then .go
    else
      let d := s.die (dieOf s.loc.core)
      if d.granted.any (sameStart (startReq s o.tid)) then .go
      else if d.starts.any (sameStart (startReq s o.tid)) then .wait else .start

def readyMma (s : State) (w : SlotWord) : Readiness :=
  if (residueFault s w).isSome then .fire else
  match mmaPlan s w (readOps s w 32) with
  | .bad _ _ | .go => .fire
  | .wait => .wait
  | .journals _ | .start => .ask

/-- A firing of MMA or MMAZ (R259). -/
def fireMma (w : SlotWord) (s : State) (zero : Bool) : State :=
  match residueFault s w with
  | some p => residueTrap s w p
  | none =>
    let o := readOps s w 32
    match mmaPlan s w o, chunkBeats s w o.tid with
    | .bad code detail, _ => slotFault s w code detail
    | .journals bs, _ => askJournals s bs o.tid
    | .start, _ => s.modDie (dieOf s.loc.core) fun d => { d with starts := d.starts ++ [startReq s o.tid] }
    | .go, some beats =>
      let fa := aFmt w
      let i := handleIdx (bits o.c.toNat 47 32)
      let a := leNat (s.here.tileRead (s.here.tile i) (lane o.c 32 0 * subBlock fa) (subBlock fa))
      let r := chunkSums fa w.fmt a (leNat (beats.flatMap (·.data)))
      let k : Chunk :=
        { site := s.loc.site, fired := s.cycle, due := s.cycle + 8 * planes fa + 8, reads := s.cycle + 8 * planes fa, bank := lane o.c 32 2, zero, tile := i
          tid := o.tid, q := r.1, flags := r.2 }
      let s1 := fireWith s w 40 o { res := o.c }
      let s2 := s1.modHereSite fun x =>
        { x with wb := wideTake s.cycle beats.length x.wb, busy := s.cycle + 8 * planes fa, lastMma := some s.cycle }
      let s3 := s2.modHere fun c => { c with chunks := c.chunks ++ [k] }
      s3.modDie (dieOf s.loc.core) fun d => { d with granted := d.granted.filter fun r => !sameStart (startReq s o.tid) r }
    | _, _ => s

/-- MMA. -/
def execMma (w : SlotWord) (s : State) : Host.Outcome State Fault Refusal := .next (fireMma w s false)

/-- MMAZ. -/
def execMmaz (w : SlotWord) (s : State) : Host.Outcome State Fault Refusal := .next (fireMma w s true)

/-! ### Reading and writing banks (R263 to R265) -/

/-- The bank that SA names, when the thread holds it. -/
def accBank (s : State) (o : Ops) : Option Nat :=
  let b := lane o.a 32 0
  if s.here.holds b o.tid then some b else none

/-- The readiness of a bank access: `drain` waits for its chunks, `write` needs its journal copy too. -/
def readyAcc (s : State) (w : SlotWord) (drain write : Bool) : Readiness :=
  if (residueFault s w).isSome then .fire else
  let o := readOps s w 32
  match accBank s o with
  | none => .fire
  | some b =>
    if drain && s.here.inflight s.cycle b != 0 then .wait
    else if write then readyJournals s [b] o.tid .fire else .fire

/-- A firing on a bank: the fault, the wait for its journal, or what the instruction does. -/
def fireAcc (s : State) (w : SlotWord) (drain write : Bool) (f : Ops → Nat → State) : State :=
  match residueFault s w with
  | some p => residueTrap s w p
  | none =>
    let o := readOps s w 32
    match accBank s o with
    | none => slotFault s w 0x24 0
    | some b =>
      match readyAcc s w drain write with
      | .fire => f o b
      | .ask => askJournals s [b] o.tid
      | .wait => s

/-- The word that SA lane 1 names. -/
def accWord (o : Ops) : Nat := bits (lane o.a 32 1) 6 0

/-- ACCRD. -/
def execAccrd (w : SlotWord) (s : State) : Host.Outcome State Fault Refusal :=
  .next (fireAcc s w true false fun o b => fireWith s w 8 o { res := (s.here.bank b).word (accWord o), tag := .f32 })

/-- ACCRDN. -/
def execAccrdn (w : SlotWord) (s : State) : Host.Outcome State Fault Refusal :=
  .next (fireAcc s w false false fun o b => fireWith s w 8 o { res := (s.here.bank b).word (accWord o), tag := .f32 })

/-- ACCWR. -/
def execAccwr (w : SlotWord) (s : State) : Host.Outcome State Fault Refusal :=
  .next (fireAcc s w true true fun o b => (fireWith s w 8 o { res := o.a }).endOp (.word b (accWord o) o.b))

/-- ACCZ. -/
def execAccz (w : SlotWord) (s : State) : Host.Outcome State Fault Refusal :=
  .next (fireAcc s w true true fun o b => (fireWith s w 4 o { res := o.a }).endOp (.zero b))

/-- ACCCV's elements and their conversion (R265). -/
def acccvPack (w : SlotWord) (b : Bank) (e : Nat) : Payload × BitVec 5 :=
  let n := if w.fmt == .bf16 then 8 else 16
  packFp (fpWidth w) ((List.range n).map fun i => fpConv (fpFmtOf w) (fpMode w) (satBit w) (fpDecode fpF32 (b.elem (e / n * n + i))))

/-- ACCCV: one token, or an scl token and then its dat token. R265 sets no limit on OK and DR of the SX forms, whose two tokens go as
SXPK's do: the second has the kind that OK says, and no d-register is written (DESIGN CHOICE, log 124). -/
def execAcccv (w : SlotWord) (s : State) : Host.Outcome State Fault Refusal :=
  .next (fireAcc s w true false fun o b =>
    let e := bits (lane o.a 32 1) 8 0
    let k := s.here.bank b
    if isSx w.fmt then
      let m := sxBits w.fmt
      let p := sxPack m (fpMode w) (satBit w) ((List.range 16).map fun i => fpDecode fpF32 (k.elem (e / 16 * 16 + i)))
      let scl : Payload := .ofNat 128 (p.e + 2 ^ 8 * p.d)
      pushFlights (fireHeads s w o { res := 0 })
        [flightOf s o.tid (some (s.cycle + 10)) 0 w.om none scl .scl w.fmt true p.flags,
         flightOf s o.tid (some (s.cycle + 11)) 0 w.om none (sxDat m p.fields) w.ok w.fmt true 0]
    else
      let r := acccvPack w k e
      fireWith s w 10 o { res := r.1, tag := w.fmt, flags := r.2 })

end Sys2Proof.Machine
end

