-- ==== Sys2Proof/Machine/Sha512.lean ====
section
/-! DEFINITION. SHA-512, which digests and measurements use (R61, R64, R386, R387, R399). -/

namespace Sys2Proof.Machine

/-! ### Constants

The standard takes them from the roots of the first primes, 64 fraction bits of each; they are computed here from that description. -/

/-- The first primes: those below 410, of which there are 80. Every composite number below 441 has a divisor of at most 20. -/
def shaPrimes : List Nat := (List.range 410).filter fun n => 2 ≤ n && (List.range 21).all fun d => d < 2 || n ≤ d || n % d != 0

/-- The largest number whose k-th power is at most n, from bit `bits` − 1 down; `r` holds the bits above. -/
def rootOf (k n bits r : Nat) : Nat :=
  match bits with
  | 0 => r
  | b + 1 => rootOf k n b (if (r + 2 ^ b) ^ k ≤ n then r + 2 ^ b else r)

/-- The first 64 fraction bits of a prime's k-th root, whose whole part is below 8 for k = 3 and for the first 8 primes. -/
def rootFraction (k p : Nat) : Nat := rootOf k (p * 2 ^ (64 * k)) 67 0 % 2 ^ 64

/-- The round constants. -/
def shaK : List Nat := shaPrimes.map (rootFraction 3)

/-- The initial hash. -/
def shaH : List Nat := (shaPrimes.take 8).map (rootFraction 2)

/-- A rotation to the right of a 64-bit word. -/
def rotr (x k : Nat) : Nat := x / 2 ^ k + x % 2 ^ k * 2 ^ (64 - k)

/-- The number of a big-endian sequence of bytes. -/
def beNat (bs : Bytes) : Nat := bs.foldl (fun n b => n * 256 + b.toNat) 0

/-- The k bytes of a number, highest first. -/
def beBytes (n k : Nat) : Bytes := (leBytes n k).reverse

/-- A sum of 64-bit words. -/
def shaSum (xs : List Nat) : Nat := xs.sum % 2 ^ 64

/-- A word rotated by each of several distances, and the results combined by exclusive or. -/
def spread (x : Nat) (ks : List Nat) : Nat := (ks.map (rotr x)).foldl (· ^^^ ·) 0

/-- The 80 words of a block's schedule, the last first: each after the sixteenth follows from four that stand before it. -/
def shaWords (ws : List Nat) (more : Nat) : List Nat :=
  match more with
  | 0 => ws
  | n + 1 =>
    let back := fun (i : Nat) => ws.getD (i - 1) 0
    let near := spread (back 2) [19, 61] ^^^ back 2 / 2 ^ 6
    let far := spread (back 15) [1, 8] ^^^ back 15 / 2 ^ 7
    shaWords (shaSum [near, back 7, far, back 16] :: ws) n

/-- One round on the eight working words: two of them are new, and each other one moves up a place. `kw` is the round's constant and its
schedule word. -/
def shaRound (v : List Nat) (kw : Nat × Nat) : List Nat :=
  let at_ := fun (i : Nat) => v.getD i 0
  let pick := at_ 6 ^^^ (at_ 4 &&& (at_ 5 ^^^ at_ 6))
  let most := (at_ 0 &&& at_ 1) ||| (at_ 2 &&& (at_ 0 ||| at_ 1))
  let t := kw.1 + kw.2 + pick + spread (at_ 4) [14, 18, 41] + at_ 7
  shaSum [t, most, spread (at_ 0) [28, 34, 39]] :: v.take 3 ++ shaSum [at_ 3, t] :: (v.drop 4).take 3

/-- The hash after one more block of 128 bytes. -/
def shaBlock (v : List Nat) (b : Bytes) : List Nat :=
  let first := (List.range 16).map fun i => beNat ((b.drop (8 * i)).take 8)
  let rounds := shaK.zip (shaWords first.reverse 64).reverse
  List.zipWith (fun x y => shaSum [x, y]) v (rounds.foldl shaRound v)

/-- SHA-512 of a message: the message, a one bit, zeros and its length in bits fill whole blocks; 64 bytes. -/
def sha512 (m : Bytes) : Bytes :=
  let fill := (239 - m.length % 128) % 128
  let p := m ++ [0x80] ++ List.replicate fill 0 ++ beBytes (8 * m.length) 16
  let v := (List.range (p.length / 128)).foldl (fun v i => shaBlock v ((p.drop (128 * i)).take 128)) shaH
  v.flatMap fun x => beBytes x 8

end Sys2Proof.Machine
end

