-- ==== Sys2Proof/Machine/Elements.lean ====
section
/-! DEFINITION. The instructions of the memory elements that reach memory (R131, R132, R135 to R154). -/

namespace Sys2Proof.Machine

/-- The virtual address that SA gives (R136). -/
def vaOf (p : Payload) : Nat := p.toNat % 2 ^ 64

/-- The scope of classes A and S. -/
def scopeOf (w : SlotWord) : Nat := w.mod.toNat % 8

/-- The access limit of R135: no access slot is eligible while 16 accesses are in progress at its element. -/
def accessRoom (s : State) : Bool := s.here.accessesAt s.loc.site < 16

def readyAccess (s : State) : Readiness := if accessRoom s then .fire else .wait

/-- A firing that begins an access (R42, R135): its value token, if it has one, reserves the entry it will take. A FENCE
that names a d-register writes the zeros of its ord token there (R204; log 148). -/
def fireAccess (s : State) (w : SlotWord) (op : MemOp) (tag : Fmt) (val : Bool) (va : Ops → Nat) (n : Ops → Nat) : State :=
  match residueFault s w with
  | some p => residueTrap s w p
  | none =>
    let o := readOps s w 32
    let id := s.here.nextId
    let s := (fireHeads s w o { res := 0, pu := false }).modHere fun c => { c with nextId := id + 1 }
    let dr := if op == .fence then w.dr else none
    let ordF := flightOf s o.tid none id w.om dr 0 .ord .raw (!val) 0
    let s := if (w.om == 0 && dr.isNone) || op == .pref then s else
      pushFlights s (if val then [flightOf s o.tid none id w.om none 0 w.ok tag true 0, ordF] else [ordF])
    let a : Access :=
      { id, site := s.loc.site, ctx := s.loc.ctx, slot := s.loc.slot, tid := o.tid, op, word := w, va := va o, n := n o, data := o.b
        scope := scopeOf w, parts := [], fwd := [], stage := .walk, left := 0, noL1 := false, bound := 0, entry := 0, getx := 0
        old := false, gone := false }
    (s.modHere fun c => { c with accesses := c.accesses ++ [a] }).beginAccess s.loc.core a

/-- The bytes of class L's lane type. -/
def laneBytes (w : SlotWord) : Nat := lwidth w / 8

/-- LD. -/
def execLd (w : SlotWord) (s : State) : Host.Outcome State Fault Refusal :=
  .next (fireAccess s w .ld w.fmt true (fun o => vaOf o.a) fun _ => laneBytes w)

/-- LDT. -/
def execLdt (w : SlotWord) (s : State) : Host.Outcome State Fault Refusal :=
  .next (fireAccess s w .ldt w.fmt true (fun o => vaOf o.a) fun _ => 16)

/-- LDA. -/
def execLda (w : SlotWord) (s : State) : Host.Outcome State Fault Refusal :=
  .next (fireAccess s w .lda .raw true (fun o => vaOf o.a) fun _ => 4)

/-- PREF. -/
def execPref (w : SlotWord) (s : State) : Host.Outcome State Fault Refusal :=
  .next (fireAccess s w .pref .raw false (fun o => vaOf o.a) fun _ => 1)

/-- FENCE. -/
def execFence (w : SlotWord) (s : State) : Host.Outcome State Fault Refusal :=
  .next (fireAccess s w .fence .raw false (fun _ => 0) fun _ => 0)

/-- FLUSH. -/
def execFlush (w : SlotWord) (s : State) : Host.Outcome State Fault Refusal :=
  .next (fireAccess s w .flush .raw false (fun o => vaOf o.a) fun o => lane o.b 32 0)

/-- INVL. -/
def execInvl (w : SlotWord) (s : State) : Host.Outcome State Fault Refusal :=
  .next (fireAccess s w .invl .raw false (fun o => vaOf o.a) fun o => lane o.b 32 0)

/-! ### Atomics -/

/-- The word address of an atomic (R137). -/
def wordAddr (p : Payload) : Nat := vaOf p / 4 * 4

def fireAtomic (s : State) (w : SlotWord) (op : MemOp) : State :=
  fireAccess s w op (if op == .afadd then .f32 else .raw) true (fun o => wordAddr o.a) fun _ => 4

/-- AADD. -/
def execAadd (w : SlotWord) (s : State) : Host.Outcome State Fault Refusal := .next (fireAtomic s w .aadd)

/-- AMIN. -/
def execAmin (w : SlotWord) (s : State) : Host.Outcome State Fault Refusal := .next (fireAtomic s w .amin)

/-- AMAX. -/
def execAmax (w : SlotWord) (s : State) : Host.Outcome State Fault Refusal := .next (fireAtomic s w .amax)

/-- AAND. -/
def execAand (w : SlotWord) (s : State) : Host.Outcome State Fault Refusal := .next (fireAtomic s w .aand)

/-- AOR. -/
def execAor (w : SlotWord) (s : State) : Host.Outcome State Fault Refusal := .next (fireAtomic s w .aor)

/-- AXOR. -/
def execAxor (w : SlotWord) (s : State) : Host.Outcome State Fault Refusal := .next (fireAtomic s w .axor)

/-- AXCHG. -/
def execAxchg (w : SlotWord) (s : State) : Host.Outcome State Fault Refusal := .next (fireAtomic s w .axchg)

/-- ACAS. -/
def execAcas (w : SlotWord) (s : State) : Host.Outcome State Fault Refusal := .next (fireAtomic s w .acas)

/-- AFADD. -/
def execAfadd (w : SlotWord) (s : State) : Host.Outcome State Fault Refusal := .next (fireAtomic s w .afadd)

/-! ### Stores -/

/-- What a store meets when its slot is considered (R138, R140, R99). -/
inductive StorePlan where
  | walk (va : Nat)
  | fail (code va detail : Nat)
  | grow
  | go (es : List AreaEntry) (parts : List Part) (table : List RangeEntry)
  deriving DecidableEq, Repr

/-- The entries that a store of its kind makes once it is translated. -/
def storeMade (s : State) (w : SlotWord) (own red : Bool) (o : Ops) (va n : Nat) (parts : List Part) : List AreaEntry :=
  let es := storeEntries parts va (leBytes o.b.toNat n) (if red || own then scopeOf w else 0)
    ((s.here.ctx s.loc.ctx).nodeOf s.loc.site s.loc.slot).1 s.here.nextId
  if red then es.map fun e => { e with oper := bits w.imm.toNat 2 0 + 1, signed := w.mod.toNat < 8 } else es

/-- The plan of a store that has its sources. -/
def storePlan (s : State) (w : SlotWord) (own red : Bool) (o : Ops) (va n : Nat) : StorePlan :=
  let c := s.here
  match xlate c.rtab (s.xlateOn (dieOf s.loc.core)) s.hereSpace s.herePriv (if red then .atomic else .write) va n with
  | .miss a => .walk a
  | .fail code a detail => .fail code a detail
  | .ok parts _ table =>
    let es := storeMade s w own red o va n parts
    if (c.thread o.tid).needsRoom es (red || own) then .grow else .go es parts table

/-- Who asks for a store's walk. -/
def storeWho (s : State) (tid : Nat) (red : Bool) : WalkFor := .slot s.loc.site s.loc.ctx s.loc.slot tid true red

def growReq (s : State) (tid : Nat) : Req := ⟨.grow s.loc.site s.loc.ctx s.loc.slot, tid, 15, 8, s.cycle⟩

/-- Whether a store fires, asks, or waits for what it asked for. -/
def readyStore (s : State) (w : SlotWord) (own red : Bool) (va : Ops → Nat) (n : Nat) : Readiness :=
  if !accessRoom s then .wait
  else if (residueFault s w).isSome then .fire else
  let o := readOps s w 32
  match storePlan s w own red o (va o) n with
  | .go _ _ _ | .fail _ _ _ => .fire
  | .walk _ => if (s.die (dieOf s.loc.core)).walks.any fun k => k.core == s.loc.core && k.who.contains (storeWho s o.tid red)
      then .wait else .ask
  | .grow => if s.here.waiting.any fun q => q.kind == (growReq s o.tid).kind && q.tid == o.tid then .wait else .ask

/-- A store (R140, R147): it enters the area in the cycle in which it fires, or asks for what it lacks. An STL's own entries take their
room then and enter after its commit (R271). -/
def fireStore (s : State) (w : SlotWord) (own red : Bool) (va : Ops → Nat) (n : Nat) : State :=
  match residueFault s w with
  | some p => residueTrap s w p
  | none =>
    let o := readOps s w 32
    match storePlan s w own red o (va o) n with
    | .walk a => s.askWalk s.loc.core s.hereSpace a (storeWho s o.tid red)
    | .fail code a detail => s.faultHere o.tid (rangeRec (s.recHere code) code a detail true)
    | .grow => s.modHere fun c => c.join (growReq s o.tid)
    | .go es parts table =>
      if own then
        let first := s.here.nextId
        let id := first + es.length
        let s := s.modHere fun c =>
          let c := ({ c with rtab := table } : Core).enter o.tid (es.map fun e => { e with held := true }) true
          { c with nextId := id + 1 }
        let s := fireHeads s w o { res := 0, pu := false }
        let s := if w.om == 0 then s else pushFlights s [flightOf s o.tid none id w.om none 0 .ord .raw true 0]
        let a : Access :=
          { id, site := s.loc.site, ctx := s.loc.ctx, slot := s.loc.slot, tid := o.tid, op := .stl, word := w, va := va o, n, data := o.b
            scope := scopeOf w, parts, fwd := [], stage := .commit, left := es.length, noL1 := false, bound := 0, entry := first, getx := 0
            old := false, gone := false }
        (s.modHere fun c => { c with accesses := c.accesses ++ [a] }).proceed s.loc.core a
      else
        let s := s.modHere fun c => ({ c with rtab := table }).enter o.tid es red
        fireWith s w 2 o { res := 0, pu := false }

/-- ST. -/
def execSt (w : SlotWord) (s : State) : Host.Outcome State Fault Refusal :=
  .next (fireStore s w false false (fun o => vaOf o.a) (laneBytes w))

/-- STT. -/
def execStt (w : SlotWord) (s : State) : Host.Outcome State Fault Refusal :=
  .next (fireStore s w false false (fun o => vaOf o.a) 16)

/-- STL. -/
def execStl (w : SlotWord) (s : State) : Host.Outcome State Fault Refusal :=
  .next (fireStore s w true false (fun o => vaOf o.a) 4)

/-- RED. -/
def execRed (w : SlotWord) (s : State) : Host.Outcome State Fault Refusal :=
  .next (fireStore s w false true (fun o => wordAddr o.a) 4)

end Sys2Proof.Machine
end

