-- ==== Sys2Proof/Machine/Range.lean ====
section
/-! DEFINITION. The range instructions (R102 to R111), walks and invalidations (R95, R102), and what FREEZE
and THAW do to a space (R377, R378). -/

namespace Sys2Proof.Machine

/-! ### Operations of variable latency at a processing element (R103) -/

/-- A firing whose token, of a kind, or register write comes when its operation is complete. -/
def fireVar (s : State) (w : SlotWord) (o : Ops) (kind : Kind) : State × PendOp :=
  let key := s.here.nextId
  let s1 := (fireHeads s w o { res := 0, pu := false }).modHere fun c => { c with nextId := key + 1 }
  let s2 := if w.om == 0 && w.dr.isNone then s1 else pushFlights s1 [flightOf s o.tid none key w.om w.dr 0 kind .raw true 0]
  (s2, ⟨key, s.loc.core, s.loc.site, s.loc.slot⟩)

/-- The operation is complete: its result can leave. -/
def State.finishOp (s : State) (p : PendOp) (v : Payload) : State :=
  s.modSite p.core p.site fun x => { x with flight := fillFlights x.flight p.key s.cycle v }

/-- A status in lane 0 (R103). -/
def State.status (s : State) (p : PendOp) (n : Nat) : State := s.finishOp p (ofLanes 32 [n])

/-! ### Invalidations (R102) -/

/-- Whether an entry of a range table matches an invalidation. -/
def RangeEntry.matches (e : RangeEntry) (space : Option Nat) (lo hi : Nat) : Bool :=
  (match space with
    | none => true
    | some s => e.space == none || e.space == some s)
    && decide (e.desc.vbase < hi) && decide (lo < e.desc.limit)

/-- Whether a physical address lies in the span of a descriptor. -/
def Desc.covers (d : Desc) (pa : Nat) : Bool :=
  let b := d.phys d.vbase
  decide (b ≤ pa) && decide (pa < b + d.len)

/-- The accesses of a core that were translated through descriptors or lie in a virtual interval, and such commit entries not yet
acknowledged, but for those of the thread that issued the invalidation. The interval takes in what was translated through an entry that
the table has lost since (log 32). -/
def Core.translated (c : Core) (ds : List Desc) (lo hi : Nat) (own : Option Nat) : List Nat × List Nat :=
  let hit := fun (pa : Nat) => ds.any fun d => d.covers pa
  let within := fun (va n : Nat) => decide (va < hi) && decide (lo < va + n)
  (((c.accesses.filter fun a => a.stage != .walk && (within a.va a.n || a.parts.any fun p => hit p.pa)).map fun a => a.id),
   c.threads.flatMap fun t => if own == some t.1 then [] else
     (t.2.area.filter fun e => e.oper != 8 && (hit (16 * e.pwa) || e.vas.any fun va => within va 16)).map fun e => e.id)

/-- The STORE packets of a core's engine jobs that were translated through removed descriptors or lie in the interval. -/
def State.translatedJobs (s : State) (core : Nat) (ds : List Desc) (lo hi : Nat) : List Nat :=
  s.dies.flatMap fun (d : Nat × Die) => d.2.jobs.flatMap fun j => if j.core != core then [] else
    (j.waits.filter fun w => (decide (w.2.1 < hi) && decide (lo < w.2.1 + 16)) || ds.any fun d => d.covers w.2.2).map fun w => w.1

/-- An invalidation begins: entries are removed, walks restart, and what was translated through the entries is waited for. -/
def State.invalidate (s : State) (core tid : Nat) (cores : List Nat) (space : Option Nat) (lo hi next : Nat) (op : Option PendOp)
    (span : Nat × Nat) (move : Option (Nat × Nat × Nat)) : State :=
  let parts := cores.map fun k =>
    let c := s.core k
    let ds := (c.rtab.filter fun e => e.matches space lo hi).map fun e => e.desc
    let t := c.translated ds lo hi (if k = core then some tid else none)
    (k, t.1 ++ s.translatedJobs k ds lo hi, t.2)
  let s1 := { s with cores := tblMap s.cores fun (k : Nat) (c : Core) =>
    if cores.contains k then { c with rtab := c.rtab.filter fun e => !e.matches space lo hi } else c }
  let s2 := { s1 with dies := tblMap s1.dies fun (d : Nat) (x : Die) =>
    if (cores.any fun k => dieOf k == d) then
      { x with walks := x.walks.map fun (w : Walk) => if space == none || space == some w.space then { w with active := false } else w }
    else x }
  let v : Inval :=
    { die := dieOf core, cores, space, lo, hi, waitAcc := parts.flatMap fun p => p.2.1.map fun i => (p.1, i)
      waitEnt := parts.flatMap fun p => p.2.2.map fun i => (p.1, i), next, op, span, move }
  { s2 with invals := s2.invals ++ [v] }

/-- Whether what an invalidation waited for has been performed or discarded. -/
def State.invalDone (s : State) (v : Inval) : Bool :=
  v.next != 3 && (v.waitAcc.all fun a => ((s.core a.1).access a.2).isNone
      && s.dies.all fun (d : Nat × Die) => d.2.jobs.all fun j => j.core != a.1 || j.waits.all fun w => w.1 != a.2)
    && v.waitEnt.all fun e => (s.core e.1).threads.all fun t => t.2.area.all fun x => x.id != e.2

/-- Every core of the device. -/
def allCores : List Nat := List.range 384

/-! ### Directory edits (R104, R106, R108, R110) -/

/-- Where a space's directory stands, and the descriptor that contains an address. -/
structure Found where
  base  : Nat
  count : Nat
  idx   : Nat
  d     : Desc
  deriving DecidableEq, Repr

/-- What c(va) answers. -/
inductive FindRes where
  | busy
  | bad (addr : Nat)
  | status (n : Nat) (s : State)
  | found (f : Found) (s : State)

def State.findRange (s : State) (die sp va : Nat) : FindRes :=
  match s.spaceDir die sp with
  | .busy => .busy
  | .bad a => .bad a
  | .inactive s => .status 1 s
  | .dir base count s =>
    match s.dirSearch base va 0 count 17 with
    | .error none => .busy
    | .error (some a) => .bad a
    | .ok (lo, s) =>
      if lo = 0 then .status 2 s else
      match s.readDesc base (lo - 1) with
      | .got bs s =>
        let d := Desc.ofBytes bs
        if d.wf (some sp) && va < d.limit then .found ⟨base, count, lo - 1, d⟩ s else .status 2 s
      | .busy => .busy
      | .bad a _ => .bad a

/-- A descriptor of a directory; or nothing while its line is not quiet, or the address of an uncorrectable burst. -/
def State.descAt (s : State) (base i : Nat) : Except (Option Nat) (Desc × State) :=
  match s.readDesc base i with
  | .got bs s => .ok (Desc.ofBytes bs, s)
  | .busy => .error none
  | .bad a _ => .error (some a)

/-- A descriptor written. -/
def State.writeDesc (s : State) (base i : Nat) (d : Desc) : State := s.cohWrite (base + 32 * i) d.bytes

/-- A space's count written (R91). -/
def State.writeCount (s : State) (die sp n : Nat) : State :=
  s.cohWrite (bits (s.die die).sptBase.toNat 47 16 * 65536 + 16 * sp + 8) (leBytes n 8)

/-- The tail of a directory from descriptor i on moved to begin at descriptor j. -/
def State.moveTail (s : State) (f : Found) (i j : Nat) : Except (Option Nat) State :=
  let n := f.count - i
  if !s.quietSpan (f.base + 32 * min i j) (32 * (n + 1)) then .error none else
  if n = 0 then .ok s else
  match s.cohBytes (f.base + 32 * i) (32 * n) with
  | .ok (bs, s) => .ok (s.cohWrite (f.base + 32 * j) bs)
  | .error e => .error (some e.1)

/-- The window of a descriptor clipped to [x, y) and shifted down by `sh` (R106). -/
def clip (lo hi x y sh : Nat) : Nat × Nat :=
  let l := max lo x
  let h := min hi y
  if l < h then (l - sh, h - sh) else (0, 0)

def Desc.setWin (d : Desc) (w : Nat × Nat) : Desc := { d with w3 := .ofNat 64 (w.1 * 2 ^ 32 + w.2) }
def Desc.setLimit (d : Desc) (x : Nat) : Desc := { d with w1 := .ofNat 64 (x / 256 * 256 + d.perm) }
def Desc.setVbase (d : Desc) (x : Nat) : Desc := { d with w0 := .ofNat 64 (x / 256 * 256 + d.flags) }
def Desc.setTransit (d : Desc) (b : Bool) : Desc := { d with w0 := .ofNat 64 (d.vbase + d.flags / 2 * 2 + b.toNat) }
def Desc.setOffset (d : Desc) (x : Nat) : Desc := { d with w2 := .ofNat 64 (x % 2 ^ 64 / 256 * 256 + d.space8) }

/-- RSPLIT: its status and the directory after it; or nothing while a line is not quiet, or the address of an uncorrectable burst. -/
def State.rsplit (s : State) (die : Nat) (r : RangeOp) : Except (Option Nat) (Nat × State) :=
  match s.findRange die r.space r.va with
  | .busy => .error none
  | .bad a => .error (some a)
  | .status n s => .ok (n, s)
  | .found f s =>
    let d := f.d
    let u := (r.va - d.vbase) / 256
    if r.va % 256 != 0 || r.va == d.vbase then .ok (3, s)
    else if d.transit then .ok (6, s)
    else if f.count = 65536 then .ok (4, s)
    else
      let a := (d.setLimit r.va).setWin (clip d.rlo d.rhi 0 u 0)
      let b := (d.setVbase r.va).setWin (clip d.rlo d.rhi u (d.len / 256) u)
      match s.moveTail f (f.idx + 1) (f.idx + 2) with
      | .error e => .error e
      | .ok s => .ok (0, ((s.writeDesc f.base f.idx a).writeDesc f.base (f.idx + 1) b).writeCount die r.space (f.count + 1))

/-- The window of two joined ranges, where they can be joined (R106). -/
def joinWin (a b : Desc) : Option (Nat × Nat) :=
  let n := a.len / 256
  let ea := a.rlo == a.rhi
  let eb := b.rlo == b.rhi
  if ea && eb then some (0, 0)
  else if ea then some (b.rlo + n, b.rhi + n)
  else if eb then some (a.rlo, a.rhi)
  else if a.rhi == n && b.rlo == 0 then some (a.rlo, n + b.rhi)
  else none

/-- RMERGE. -/
def State.rmerge (s : State) (die : Nat) (r : RangeOp) : Except (Option Nat) (Nat × State) :=
  match s.findRange die r.space r.va with
  | .busy => .error none
  | .bad a => .error (some a)
  | .status n s => .ok (n, s)
  | .found f s =>
    let b := f.d
    if b.vbase != r.va || f.idx == 0 then .ok (2, s) else
    match s.descAt f.base (f.idx - 1) with
    | .error e => .error e
    | .ok (a, s) =>
      if !a.wf (some r.space) || a.limit != r.va then .ok (2, s)
      else if r.va % 256 != 0 then .ok (3, s)
      else if a.transit || b.transit then .ok (6, s)
      else if a.flags != b.flags || a.perm != b.perm || a.offset != b.offset || 0xFFFFFFFF00 < a.len + b.len then .ok (5, s)
      else match joinWin a b with
        | none => .ok (5, s)
        | some win => match s.moveTail f (f.idx + 1) f.idx with
          | .error e => .error e
          | .ok s => .ok (0, (s.writeDesc f.base (f.idx - 1) ((a.setLimit b.limit).setWin win)).writeCount die r.space (f.count - 1))

/-! ### Freezing and thawing a space (R377, R378) -/

/-- Whether a core's part is of a space. -/
def Core.runs_ (c : Core) (sp : Nat) : Bool := match c.part with
  | some p => p.space == sp
  | none => false

/-- Whether a space is active (R91); or nothing while its entry's line is not quiet, or the address of an uncorrectable burst. -/
def State.spaceActive (s : State) (d sp : Nat) : Except (Option Nat) Bool :=
  match s.spaceDir d sp with
  | .busy => .error none
  | .bad a => .error (some a)
  | .inactive _ => .ok false
  | .dir _ _ _ => .ok true

/-- Whether a space has a parked thread, on a core or in a save image, or a held job. -/
def State.hasParked (s : State) (sp : Nat) : Bool :=
  (s.cores.any fun (k : Nat × Core) => k.2.runs_ sp && k.2.threads.any fun t => t.2.st == .parked)
    || s.dies.any fun (d : Nat × Die) => (d.2.jobs.any fun j => j.space == sp && j.held)
      || d.2.ready.any fun q => q.2.any fun r => r.space == sp && r.saved.isSome && r.kept.any fun x => x.hold && !x.retry

/-- A freeze that the owner or a privileged program asks for: as a fault's, with no code. -/
def State.askFreeze (s : State) (core sp : Nat) : State := s.freezeSpace core sp 0

/-- A FREEZE of an active space: it reports once the space stands still. -/
def State.tryFreeze (s : State) (r : RangeOp) : State :=
  if s.frozen.contains r.space then s.status r.op 2 else
  let s := s.askFreeze r.op.core r.space
  { s with freezeOps := s.freezeOps ++ [(r.op, r.space)] }

/-- A thread that THAW with RETRY re-queues: frozen, or parked by RANGE_REVOKED. -/
def Core.thawThreads (c : Core) (now : Nat) : Core :=
  c.threads.foldl (fun (c : Core) t =>
    if t.2.st == .parked && t.2.hold && !t.2.moving then (c.requeue t.1 (now + 1)).modThread t.1 fun th => { th with record := none } else c) c

/-- THAW with RETRY on a part in a save image: its held threads are re-queued at its resumption (log 82). -/
def Ready.thaw (r : Ready) (sp : Nat) : Ready :=
  if r.space != sp then r else { r with kept := r.kept.map fun x => if x.hold && !x.moving then { x with retry := true } else x }

/-- THAW on one engine job. -/
def State.thawJob (s : State) (sp : Nat) (jobs : Bool) (j : Job) : Job :=
  if j.space != sp then j
  else if jobs then { j.restart with transit := false, revoked := false }
  else
    let stood := (s.core j.core).frozen.contains sp
    if stood && !j.moved then { j with held := true } else j

/-- THAW's effect on a space. -/
def State.thaw (s : State) (sp : Nat) (retry jobs : Bool) : State :=
  { s with
    frozen := s.frozen.filter (· != sp)
    freezing := s.freezing.filter fun m => m.space != sp
    cores := tblMap s.cores fun (_ : Nat) (c : Core) =>
      let was := c.frozen.contains sp
      let c := { c with frozen := c.frozen.filter (· != sp) }
      if !c.runs_ sp then c
      else if retry then c.thawThreads s.cycle
      else if was then { c with threads := tblMap c.threads fun _ th => if th.st == .parked then { th with hold := true } else th }
      else c
    dies := tblMap s.dies fun (_ : Nat) (d : Die) => { d with
      jobs := d.jobs.map (s.thawJob sp jobs)
      ready := if retry then tblMap d.ready fun (_ : Nat) (q : List Ready) => q.map fun (r : Ready) => r.thaw sp else d.ready } }

/-- The cores a scope of RINV names (R107). -/
def scopeCores (core scope : Nat) : List Nat := holdersOf core scope

/-- RINV's invalidation of a space, or of every space, over an interval, or over every address when its length is 0 (R107). -/
def State.rinv (s : State) (op : PendOp) (tid scope : Nat) (space : Option Nat) (va len : Nat) : State :=
  s.invalidate op.core tid (scopeCores op.core scope) space (if len = 0 then 0 else va) (if len = 0 then 2 ^ 64 else va + len) 0 (some op) (0, 0) none

/-- A read of a directory or of the space table that cannot be corrected: the instruction that made it faults with SOFT_ERROR, as the access
that a walker's read serves does (R85). A thread that has left the block since, or has been squashed, consumes no result, and does not fault
(R320). -/
def State.opSoft (s : State) (op : PendOp) (tid addr : Nat) : State :=
  let c := s.core op.core
  let th := c.thread tid
  if th.st != .inBlock || op.key < th.from_ then s else
    s.raiseFault op.core tid { FaultRec.zero with
      code := 0x32, persist := true, addr, block := th.blk.block, ctx := th.ctx, site := op.site, slot := op.slot
      space := match c.part with
        | some p => p.space
        | none => 0 }

def State.rangeSoft (s : State) (r : RangeOp) (addr : Nat) : State := s.opSoft r.op r.tid addr

/-- The range instructions that name one space, FREEZE and THAW: none while a line they need is not quiet; otherwise the
state after, with the result given unless an invalidation is still to complete, or with the thread's fault. No rule says which status a
nonzero bit of RMOVE's SC[63:48] gives: its physical address then lies outside HBM, and the status is that of R110's own order of checks
(DEDUCED, log 130). -/
def State.tryRange (s : State) (r : RangeOp) : Option State :=
  let die := dieOf r.op.core
  let win := fun (d : Desc) => (d.vbase, d.limit)
  let given := fun (x : Except (Option Nat) (Nat × State)) => match x with
    | .ok p => some (p.2.status r.op p.1)
    | .error none => none
    | .error (some a) => some (s.rangeSoft r a)
  match r.kind with
  | 0 => given (s.rsplit die r)
  | 1 => given (s.rmerge die r)
  | 2 => match s.findRange die r.space r.va with
    | .busy => none
    | .bad a => some (s.rangeSoft r a)
    | .status n s => some (s.status r.op n)
    | .found f s => some (s.invalidate r.op.core r.tid allCores (some r.space) (win f.d).1 (win f.d).2 1 (some r.op)
        (f.d.phys f.d.vbase, f.d.len) none)
  | 3 => match s.findRange die r.space r.va with
    | .busy => none
    | .bad a => some (s.rangeSoft r a)
    | .status n s => some (s.status r.op n)
    | .found f s =>
      let d := f.d
      let old := d.phys d.vbase
      let pa := r.arg
      if pa % 256 != 0 then some (s.status r.op 3)
      else if !(inHbm pa && inHbm (pa + d.len - 1)) || (decide (pa < old + d.len) && decide (old < pa + d.len)) then some (s.status r.op 7)
      else if d.transit then some (s.status r.op 6)
      else if !s.quietSpan (f.base + 32 * f.idx) 32 then none
      else
        let s := s.writeDesc f.base f.idx (d.setTransit true)
        let m : Move := { op := r.op, tid := r.tid, die, space := r.space, vbase := d.vbase, len := d.len, oldPa := old, newPa := pa, lo := d.rlo
                          hi := d.rhi, phase := 0 }
        some ({ s with moves := s.moves ++ [m] }.invalidate r.op.core r.tid allCores (some r.space) d.vbase d.limit 2 none (0, 0)
          (some (r.op.key, r.op.core, r.op.site)))
  | 4 => match s.findRange die r.space r.va with
    | .busy => none
    | .bad a => some (s.rangeSoft r a)
    | .status n s => some (s.status r.op n)
    | .found f s =>
      let d := f.d
      let lo := bits r.arg 31 0
      let hi := bits r.arg 63 32
      if !(lo ≤ hi && hi ≤ d.len / 256) then some (s.status r.op 7)
      else if d.transit then some (s.status r.op 6)
      else if !s.quietSpan (f.base + 32 * f.idx) 32 then none
      else
        let s := s.writeDesc f.base f.idx (d.setWin (if lo = hi then (0, 0) else (lo, hi)))
        some (s.invalidate r.op.core r.tid allCores (some r.space) d.vbase d.limit 0 (some r.op) (0, 0) none)
  | 7 =>
    if 2 ^ 64 < r.va + r.arg then some (s.status r.op 7)
    else some (s.rinv r.op r.tid r.scope (some r.space) r.va r.arg)
  | k => match s.spaceActive die r.space with
    | .error none => none
    | .error (some a) => some (s.rangeSoft r a)
    | .ok false => some (s.status r.op 1)
    | .ok true =>
      if k = 5 then some (s.tryFreeze r)
      else if 4 ≤ r.arg then some (s.status r.op 1)
      else if !s.frozen.contains r.space && !s.hasParked r.space then some (s.status r.op 2)
      else some ((s.thaw r.space (bit r.arg 0) (bit r.arg 1)).status r.op 0)

/-- Whether an instruction is a range instruction, and no FREEZE or THAW. -/
def RangeOp.isRange (r : RangeOp) : Bool := r.kind < 5 || r.kind == 7

/-- Whether an earlier instruction must be done first: range instructions of one space are performed one at a time (R104). -/
def RangeOp.follows (r q : RangeOp) : Bool := r.isRange && q.isRange && q.space == r.space

/-- Whether an instruction acts on some address of the range of a move: what BUSY does not turn away (R104, R107, R109). -/
def RangeOp.meets (r : RangeOp) (m : Move) : Bool :=
  r.space == m.space && ((r.kind == 2 && decide (m.vbase ≤ r.va) && decide (r.va < m.vbase + m.len))
    || (r.kind == 7 && (r.arg == 0 || (decide (m.vbase < r.va + r.arg) && decide (r.va < m.vbase + m.len)))))

/-- Whether a range instruction of the same space is being performed: its invalidation goes on, or its discards, or a move of the very range.
A move holds no instruction on another range up, and turns away those that report BUSY (R104). -/
def State.rangeHeld (s : State) (r : RangeOp) : Bool :=
  r.isRange && ((s.invals.any fun v => v.op.isSome && v.space == some r.space) || s.moves.any r.meets)

/-- An instruction begun: performed at once unless an earlier one, or a line that is not quiet, holds it. -/
def State.beginRange (s : State) (r : RangeOp) : State :=
  let queued := { s with rangeq := s.rangeq ++ [r] }
  if s.rangeq.any r.follows || s.rangeHeld r then queued else
  match s.tryRange r with
  | some t => t
  | none => queued

/-- The range instructions that wait, tried again in order; `fuel` bounds them. -/
def State.runRanges (s : State) (done : List RangeOp) (fuel : Nat) : State :=
  match fuel, s.rangeq with
  | 0, _ | _, [] => { s with rangeq := done ++ s.rangeq }
  | fuel + 1, r :: rest =>
    let s := { s with rangeq := rest }
    if done.any r.follows || s.rangeHeld r then s.runRanges (done ++ [r]) fuel
    else match s.tryRange r with
      | some t => t.runRanges done fuel
      | none => s.runRanges (done ++ [r]) fuel

/-! ### The instructions -/

/-- The space that SA names, unless a bit that must be 0 is set (R103). -/
def saSpace (o : Ops) (inv : Bool) : Option Nat :=
  let x := lane o.a 32 0
  if bits x 31 13 != 0 || (!inv && bit x 12) then none else some (bits x 11 0)

/-- A firing of an instruction that names one space. -/
def fireRange (s : State) (w : SlotWord) (kind : Nat) (arg : Ops → Nat) : State :=
  match residueFault s w with
  | some p => residueTrap s w p
  | none =>
    let o := readOps s w 32
    let (s, op) := fireVar s w o .dat
    match saSpace o false with
    | none => s.status op 1
    | some sp => s.beginRange { op, kind, space := sp, va := vaOf o.b, arg := arg o, tid := o.tid, scope := 0 }

/-- RSPLIT. -/
def execRsplit (w : SlotWord) (s : State) : Host.Outcome State Fault Refusal := .next (fireRange s w 0 (fun _ => 0))

/-- RMERGE. -/
def execRmerge (w : SlotWord) (s : State) : Host.Outcome State Fault Refusal := .next (fireRange s w 1 (fun _ => 0))

/-- RDISC. -/
def execRdisc (w : SlotWord) (s : State) : Host.Outcome State Fault Refusal := .next (fireRange s w 2 (fun _ => 0))

/-- RMOVE. A base with a bit of [63:48] set lies outside HBM. -/
def execRmove (w : SlotWord) (s : State) : Host.Outcome State Fault Refusal := .next (fireRange s w 3 (fun o => vaOf o.c))

/-- RWIN. -/
def execRwin (w : SlotWord) (s : State) : Host.Outcome State Fault Refusal := .next (fireRange s w 4 (fun o => vaOf o.c))

/-- RINV: of one space it takes its turn among that space's range instructions; of all spaces it begins at once. -/
def execRinv (w : SlotWord) (s : State) : Host.Outcome State Fault Refusal :=
  match residueFault s w with
  | some p => .next (residueTrap s w p)
  | none =>
    let o := readOps s w 32
    let (s, op) := fireVar s w o .dat
    let va := vaOf o.b
    let len := vaOf o.c
    match saSpace o true with
    | none => .next (s.status op 1)
    | some sp =>
      if !bit (lane o.a 32 0) 12 then .next (s.beginRange { op, kind := 7, space := sp, va, arg := len, tid := o.tid, scope := scopeOf w })
      else if 2 ^ 64 < va + len then .next (s.status op 7)
      else .next (s.rinv op o.tid (scopeOf w) none va len)

/-- RPROBE's result from the descriptor found (R111); `own` marks a caller without privilege, and `sp` its space. -/
def probeResult (half : Nat) (own : Bool) (sp : Nat) (d : Option Desc) : Payload :=
  match d with
  | none => 0
  | some d =>
    let w2 := if own then bits sp 7 0 else d.w2.toNat
    if half = 0 then .ofNat 128 (d.w0.toNat + d.w1.toNat * 2 ^ 64) else .ofNat 128 (w2 + d.w3.toNat * 2 ^ 64)

/-- RPROBE. A bit of SA lane 0 outside [11:0] names no space: the result is 0 in a privileged block, and the instruction faults with PRIV in
another, whose space it then does not name; the rules give it no status (log 120). -/
def execRprobe (w : SlotWord) (s : State) : Host.Outcome State Fault Refusal :=
  match residueFault s w with
  | some p => .next (residueTrap s w p)
  | none =>
    let o := readOps s w 32
    let own := !s.herePriv
    let half := lane o.c 32 0 % 2
    let sp := saSpace o false
    if own && sp != some s.hereSpace then .next (slotFault s w 0x40 0) else
    let space := s.hereSpace
    let (s, op) := fireVar s w o .dat
    match sp with
    | none => .next (s.finishOp op 0)
    | some sp =>
      let hit := if s.xlateOn (dieOf s.loc.core) then rtabFind s.here.rtab sp (vaOf o.b) else none
      match hit with
      | some e =>
        let s := s.modHere fun c => { c with rtab := rtabTouch c.rtab e }
        .next (s.finishOp op (probeResult half own space (some e.desc)))
      | none => .next (s.askWalk s.loc.core sp (vaOf o.b) (.probe op.site s.loc.ctx s.loc.slot o.tid op.key half own))

/-! ### Walks (R95) -/

/-- RANGE_TABLE_MISS: one of a die's four walkers takes the oldest request that none has. -/
def execRangeTableMiss (die : Nat) (s : State) : Host.Outcome State Fault Refusal :=
  let d := s.die die
  if 4 ≤ (d.walks.filter fun w => w.active).length then .next s else
  match findIdx d.walks fun w => !w.active with
  | none => .next s
  | some (i, w) => .next (s.setDie die { d with walks := setAt d.walks i { w with active := true } })

/-- One waiter of a walk goes on: with the descriptor found, without one, or after an uncorrectable read (R85). -/
def State.walkAnswer (s : State) (core : Nat) (w : Walk) (found : Option Desc) (bad : Option Nat) (who : WalkFor) : State :=
  let rec_ := fun (site ctx slot : Nat) => { FaultRec.zero with
    space := match (s.core core).part with
      | some p => p.space
      | none => 0
    block := ((s.core core).ctx ctx).blk.block, site, slot, ctx }
  match who with
  | .access id => match (s.core core).access id with
    | none => s
    | some a =>
      match bad, found with
      | some addr, _ => s.accessError core a addr true
      | none, some _ => s.beginAccess core a
      | none, none =>
        s.accessFault core a (rangeRec (s.recAccess core a 0x10) 0x10 w.va 0 a.op.need.writes)
  | .slot site ctx slot tid _ _ =>
    let r := rec_ site ctx slot
    match bad, found with
    | some addr, _ => s.raiseFault core tid { r with code := 0x32, persist := true, addr }
    | none, some _ => s
    | none, none => s.raiseFault core tid (rangeRec r 0x10 w.va 0 true)
  | .probe site ctx slot tid key half own => match bad with
    | some addr => s.opSoft ⟨key, core, site, slot⟩ tid addr
    | none => s.finishOp ⟨key, core, site, slot⟩ (probeResult half own w.space found)

/-- WALK_INSTALL: a walker's search ends; the descriptor is installed and every request of the core that it answers goes on. -/
def execWalkInstall (die idx : Nat) (s : State) : Host.Outcome State Fault Refusal :=
  match (s.die die).walks[idx]? with
  | none => .next s
  | some w =>
    if !w.active then .next s else
    let count := fun (s : State) => s.modDie die fun d =>
      { d with wkCnt := (d.wkCnt + 1) % 2 ^ 64, wkCyc := (d.wkCyc + (s.cycle - w.asked)) % 2 ^ 64 }
    let drop := fun (s : State) => s.modDie die fun d => { d with walks := dropAt d.walks idx }
    match s.walk die w.space w.va with
    | .busy => .next s
    | .bad addr => .next (w.who.foldl (fun s a => s.walkAnswer w.core w none (some addr) a) (drop (count s)))
    | .none s => .next (w.who.foldl (fun s a => s.walkAnswer w.core w none none a) (drop (count s)))
    | .found sp d _ s =>
      let s := (drop (count s)).modCore w.core fun c => c.install sp d
      let also := (s.die die).walks.filter fun v =>
        v.core == w.core && (sp == none || sp == some v.space) && decide (d.vbase ≤ v.va) && decide (v.va < d.limit)
      let s := s.modDie die fun x => { x with walks := x.walks.filter fun v => !also.contains v }
      .next ((w :: also).foldl (fun s v => v.who.foldl (fun s a => s.walkAnswer v.core v (some d) none a) s) s)

end Sys2Proof.Machine
end

