-- ==== Sys2Proof/Machine/Bulk.lean ====
section
/-! DEFINITION. The translated reads and writes that engines and the distributor make a line at a time (R99, R160, R414), and
the messages, regions and element layouts of engine jobs (R155 to R157, R246 to R248). -/

namespace Sys2Proof.Machine

/-! ### Translated lines (R97 to R99; log 15) -/

/-- Why a read or write of a job stops: a line is not quiet yet, or something of it still stands at the stop of the job's core (R113), or a
fault, with the state at that moment. -/
inductive EngErr where
  | busy
  | fault (r : FaultRec) (s : State)

/-- Whose access it is: the core whose range table serves it, the die, the space and the privilege. -/
structure Actor where
  core  : Nat
  die   : Nat
  space : Nat
  priv  : Bool
  deriving DecidableEq, Repr

/-- A fault at an address. -/
def engFault (s : State) (need : Need) (code va detail : Nat) (persist : Bool) : EngErr :=
  .fault { FaultRec.zero with code, addr := va, detail, persist, write := need.writes } s

/-- The checks of one line through a descriptor. -/
def lineCheck (s : State) (a : Actor) (need : Need) (va : Nat) (d : Desc) : Except EngErr (Nat × State) :=
  match checkPart d need a.priv va with
  | none => .ok (d.phys va, s)
  | some (_, code) => .error (engFault s need code va (if code = 0x12 then (va - d.vbase) / 256 else 0) false)

/-- One line translated as it is issued: through the core's range table, or by a walk that installs what it finds. -/
def State.xlateLine (s : State) (a : Actor) (need : Need) (va : Nat) : Except EngErr (Nat × State) :=
  if !s.xlateOn a.die then .error (engFault s need 0x10 va 0 false) else
  match rtabFind (s.core a.core).rtab a.space va with
  | some e => lineCheck (s.modCore a.core fun c => { c with rtab := rtabTouch c.rtab e }) a need va e.desc
  | none =>
    let count := fun (s : State) => s.modDie a.die fun d => { d with wkCnt := (d.wkCnt + 1) % 2 ^ 64 }
    match s.walk a.die a.space va with
    | .busy => .error .busy
    | .bad addr => .error (engFault s need 0x32 addr 0 true)
    | .none s => .error (engFault (count s) need 0x10 va 0 false)
    | .found sp d _ s => lineCheck ((count s).modCore a.core fun c => c.install sp d) a need va d

/-- The bytes at a virtual address up to the end of its line, at most n of them. -/
def State.xPart (s : State) (a : Actor) (need : Need) (va n : Nat) : Except EngErr (Bytes × State) :=
  let va := va % 2 ^ 64
  match s.xlateLine a need va with
  | .error e => .error e
  | .ok (pa, s) =>
    if !(s.quietLine (pa / 128) && s.stopClear a.core (pa / 128)) then .error .busy else
    match s.lineRead (pa / 128) with
    | .error e => .error (engFault s need 0x32 e.1 0 e.2)
    | .ok (bs, s) => .ok ((bs.drop (pa % 128)).take (min n (128 - va % 128)), s)

/-- n bytes read from a virtual address, a line at a time; `fuel` bounds the lines. -/
def State.xGet (s : State) (a : Actor) (need : Need) (va n fuel : Nat) : Except EngErr (Bytes × State) :=
  match fuel with
  | 0 => .ok ([], s)
  | fuel + 1 =>
    if n = 0 then .ok ([], s) else
    match s.xPart a need va n with
    | .error e => .error e
    | .ok (bs, s) =>
      let k := min n (128 - va % 128)
      match s.xGet a need (va + k) (n - k) fuel with
      | .error e => .error e
      | .ok (r, s) => .ok (bs ++ r, s)

def State.xRead (s : State) (a : Actor) (need : Need) (va n : Nat) : Except EngErr (Bytes × State) := s.xGet a need va n (n / 128 + 2)

/-- Bytes written from a virtual address up, a line at a time. -/
def State.xPut (s : State) (a : Actor) (va : Nat) (bs : Bytes) (fuel : Nat) : Except EngErr State :=
  match fuel with
  | 0 => .ok s
  | fuel + 1 =>
    if bs.isEmpty then .ok s else
    let va := va % 2 ^ 64
    let k := min bs.length (128 - va % 128)
    match s.xlateLine a .engWrite va with
    | .error e => .error e
    | .ok (pa, s) =>
      if !(s.quietLine (pa / 128) && s.stopClear a.core (pa / 128)) then .error .busy else
      (s.cohWrite pa (bs.take k)).xPut a (va + k) (bs.drop k) fuel

/-! ### Messages (R155, R156) -/

def msgByte (m : Bytes) (i : Nat) : Nat := (m.getD i 0).toNat
def msgNum (m : Bytes) (i k : Nat) : Nat := leNat ((m.drop i).take k)

/-- Region j of a message. -/
def msgRegion (m : Bytes) (j : Nat) : Region :=
  let x := msgNum m (24 + 12 * j) 4
  { base := msgNum m (16 + 12 * j) 8, tile := bit x 30, w := bit x 31, len := bits x 27 0 }

def msgNreg (m : Bytes) : Nat := msgByte m 1 % 16
def msgRk (m : Bytes) : Nat := msgByte m 2 / 64
def msgWout (m : Bytes) : Bool := bit (msgByte m 1) 4
def msgReply (m : Bytes) : Nat := msgNum m 4 2
def msgEsz (m : Bytes) : Nat := msgNum m 8 4
def msgEfmt (m : Bytes) : Fmt := Fmt.ofCode (msgByte m 6 % 8)
def msgSlay (m : Bytes) : Nat := msgByte m 2 % 8
def msgDlay (m : Bytes) : Nat := bits (msgByte m 2) 5 3

/-- The declared regions, with their numbers. -/
def msgRegions (m : Bytes) : List (Nat × Region) := (List.range (min 4 (msgNreg m))).map fun j => (j, msgRegion m j)

/-- The tile index, and the virtual address or tile offset of a region. -/
def Region.tileIdx (r : Region) : Nat := handleIdx r.base
def Region.start (r : Region) : Nat := if r.tile then bits r.base 63 32 else r.base

/-- The header and region words of R155 and R156. -/
def headerOk (m : Bytes) : Bool :=
  let opc := msgByte m 0
  let elems := opc == 0x10 || opc == 0x11
  bits (msgByte m 1) 7 5 == 0 && decide (1 ≤ msgNreg m) && decide (msgNreg m ≤ 4) && msgRk m != 3
    && (if msgRk m = 1 then msgByte m 3 != 0 else msgByte m 3 == 0) && (msgRk m != 0 || msgReply m == 0)
    && bits (msgByte m 6) 7 3 == 0 && msgByte m 7 == 0
    && (if opc = 2 || opc = 3 then decide (3 ≤ msgByte m 6) else msgByte m 6 == 0)
    && (if elems then decide (1 ≤ msgEsz m) && decide (msgEsz m ≤ 4096) else msgEsz m == 0) && msgNum m 12 4 == 0
    && (m.drop (16 + 12 * msgNreg m)).all (· == 0)
    && ((msgRegions m).all fun r => bits (msgNum m (24 + 12 * r.1) 4) 29 28 == 0 && decide (1 ≤ r.2.len)
      && (!r.2.tile || bits r.2.base 31 16 == 0))
    && (!msgWout m || ((msgRegion m 0).tile && !(msgRegion m 0).w))

/-- The engine kinds that run an opcode (R157, R298): copy, gather/scatter, collective. -/
def opcKind (opc : Nat) : Option Nat :=
  if 1 ≤ opc && opc ≤ 3 then some 0
  else if opc = 0x10 || opc = 0x11 then some 1
  else if (0x20 ≤ opc && opc ≤ 0x24) || opc = 0x28 || opc = 0x29 then some 2 else none

/-- The engine kind of a queue. -/
def queueKind (q : Nat) : Nat := if 1536 ≤ q then 2 else if q % 4 = 2 then 1 else 0

/-- The regions that an opcode takes (R157, R297, R298), but for the lengths a control block decides. -/
def regionsOk (m : Bytes) : Bool :=
  let r := msgRegion m
  let n := msgNreg m
  let rd := fun (j : Nat) => !(r j).w
  let wr := fun (j : Nat) => (r j).w
  match msgByte m 0 with
  | 1 => n == 2 && rd 0 && wr 1 && (r 0).len == (r 1).len
  | 2 => n == 2 && rd 0 && wr 1 && !(r 0).tile && (r 1).tile && msgDlay m == 2 && (r 0).len == (r 1).len
      && (r 0).len % subBlock (msgEfmt m) == 0 && bits (r 1).base 38 32 == 0
  | 3 => n == 2 && rd 0 && wr 1 && (r 0).tile && !(r 1).tile && msgSlay m == 2 && (r 0).len == (r 1).len
      && (r 0).len % subBlock (msgEfmt m) == 0 && bits (r 0).base 38 32 == 0
  | 0x10 => n == 3 && rd 0 && rd 1 && wr 2 && (r 0).len % 4 == 0 && (r 2).len == (r 0).len / 4 * msgEsz m
  | 0x11 => n == 3 && rd 0 && rd 1 && wr 2 && (r 0).len % 4 == 0 && (r 1).len == (r 0).len / 4 * msgEsz m
  | 0x28 => n == 2 && rd 0 && !(r 0).tile && (r 0).len == 32 && wr 1
  | 0x29 => n == 2 && rd 0 && !(r 0).tile && (r 0).len == 32 && rd 1
  | _ => n == 3 && rd 0 && !(r 0).tile && (r 0).len == 32 && rd 1 && wr 2

/-- Whether two intervals meet. -/
def meets (a n b k : Nat) : Bool := decide (a < b + k) && decide (b < a + n)

/-- Whether two regions of jobs overlap (R161). -/
def regionsMeet (sp1 core1 sp2 core2 : Nat) (a b : Region) : Bool :=
  if a.tile && b.tile then core1 == core2 && a.tileIdx == b.tileIdx && meets a.start a.len b.start b.len
  else if !a.tile && !b.tile then sp1 == sp2 && meets a.start a.len b.start b.len
  else false

/-- The regions of one job do not overlap where one is written (R159, check 2). -/
def selfApart (m : Bytes) : Bool :=
  (msgRegions m).all fun a => (msgRegions m).all fun b =>
    a.1 == b.1 || !(a.2.w || b.2.w) || !regionsMeet 0 0 0 0 a.2 b.2

/-! ### Layouts (R246 to R248) -/

/-- A byte from its bits. -/
def byteOf (f : Nat → Nat) : Byte := .ofNat 8 ((List.range 8).map fun i => f i * 2 ^ i).sum

/-- Bit p of element (x, t) of a packed sub-block: its field for the SX formats, else its byte. -/
def packedBit (f : Fmt) (sub : Bytes) (x t p : Nat) : Nat :=
  if isSx f then
    let m := sxBits f
    let at_ := (2 * x + t / 16) * (2 * (m + 2)) * 8 + 16 + (m + 1) * (t % 16) + p
    ((sub.getD (at_ / 8) 0).toNat / 2 ^ (at_ % 8)) % 2
  else ((sub.getD (32 * x + t) 0).toNat / 2 ^ p) % 2

/-- The number of bits of an element, sign included. -/
def elemBits (f : Fmt) : Nat := if isSx f then sxBits f + 1 else 8

/-- TOPLANES' bits: a magnitude of 0 is written with sign 0, and a block with E = 255 with every field 0 (R248). -/
def toPlaneBit (f : Fmt) (sub : Bytes) (x t p : Nat) : Nat :=
  if isSx f then
    let m := sxBits f
    let e := (sub.getD ((2 * x + t / 16) * (2 * (m + 2))) 0).toNat
    let mag := ((List.range m).map fun i => packedBit f sub x t i).sum
    if e = 255 || (p == m && mag == 0) then 0 else packedBit f sub x t p
  else packedBit f sub x t p

/-- A packed sub-block in PLANES layout (R247, R248): slab 0 holds the sign, slab i bit i − 1, and the last slab of an SX format
the scales. -/
def toPlanes (f : Fmt) (sub : Bytes) : Bytes :=
  let n := elemBits f
  (List.range (subBlock f)).map fun k =>
    let slab := k / 128
    let x := k % 128 / 4
    let t := k % 4 * 8
    if slab < n then byteOf fun i => toPlaneBit f sub x (t + i) (if slab = 0 then n - 1 else slab - 1)
    else
      let m := sxBits f
      let b := k % 128 / 2 * (2 * (m + 2))
      let e := sub.getD b 0
      if k % 2 = 0 then e else if e = 255 then 0 else sub.getD (b + 1) 0

/-- A PLANES sub-block in packed layout (R248). What the tile holds beyond TOPLANES' own values is written as R227 has it: a magnitude of 0
with sign 0, and a block with E = 255 with D and every field 0. -/
def fromPlanes (f : Fmt) (sub : Bytes) : Bytes :=
  let n := elemBits f
  let at_ := fun (x t p : Nat) =>
    let slab := if p = n - 1 then 0 else p + 1
    ((sub.getD (128 * slab + 4 * x + t / 8) 0).toNat / 2 ^ (t % 8)) % 2
  (List.range (subBlock f)).map fun k =>
    if isSx f then
      let m := sxBits f
      let z := 2 * (m + 2)
      let b := k / z
      let e := sub.getD (128 * n + 2 * b) 0
      if k % z = 0 then e
      else if e = 255 then 0
      else if k % z = 1 then sub.getD (128 * n + 2 * b + 1) 0
      else byteOf fun i =>
        let q := 8 * (k % z - 2) + i
        let t := 16 * (b % 2) + q / n
        if q % n = m && (List.range m).all fun p => at_ (b / 2) t p == 0 then 0 else at_ (b / 2) t (q % n)
    else byteOf fun i => at_ (k / 32) (k % 32) i

end Sys2Proof.Machine
end

