-- ==== Sys2Proof/Machine/Engines.lean ====
section
/-! DEFINITION. Engine commands, the footprint order unit, the copy and gather/scatter engines, completions and faults of jobs
(R50, R51, R155 to R165, R343, R362), and the ends of invalidations and moves (R102, R109, R110). -/

namespace Sys2Proof.Machine

/-! ### Engine commands (R50, R158, R165, R343) -/

/-- The job of a message. -/
def Job.mk0 (msg : Bytes) (queue core space : Nat) (priv : Bool) (tid : Nat) : Job :=
  { msg, opc := msgByte msg 0, queue, core, space, priv, tid, block := 0, graph := 0, task := none, map := [], held := false
    revoked := false, transit := false, frozen := false, begun := false, moved := false, waits := [], attached := false, cb := [], arrived := false
    got := [], scat := none, target := none
    flags := 0, seq := 0, scope := 3, move := none }


/-- An engine's queue: of a core, or of a die's collective engines. -/
def State.jobQueue (s : State) (q : Nat) : List Job :=
  if q < 1536 then tblGet [] (s.core (q / 4)).queues (q % 4) else tblGet [] (s.die ((q - 1536) / 2)).collect ((q - 1536) % 2)
def State.setJobQueue (s : State) (q : Nat) (l : List Job) : State :=
  if q < 1536 then s.modCore (q / 4) fun c => { c with queues := tblSet c.queues (q % 4) l }
  else s.modDie ((q - 1536) / 2) fun d => { d with collect := tblSet d.collect ((q - 1536) % 2) l }

/-- How many messages a core has sent to a queue in this cycle: they enter it at the cycle's end (R158). -/
def Core.sending (c : Core) (q : Nat) : Nat := (c.endq.filter fun e => match e with
  | .send j => j.queue == q
  | _ => false).length

/-- Those of every core that may send to it. -/
def State.sending (s : State) (q : Nat) : Nat :=
  if q < 1536 then (s.core (q / 4)).sending q else s.cores.foldl (fun n (c : Nat × Core) => n + c.2.sending q) 0

/-- Free entries of an engine's queue of 16, less what is on its way there. -/
def State.queueRoom (s : State) (q : Nat) : Nat := 16 - ((s.jobQueue q).length + s.sending q)

/-- The die of a queue. -/
def queueDie (q : Nat) : Nat := if q < 1536 then dieOf (q / 4) else (q - 1536) / 2

/-- The collective engine of a die that takes the next message: the one with more free entries, the first on a tie. -/
def State.collectQueue (s : State) (d : Nat) : Nat :=
  if s.queueRoom (1536 + 2 * d) < s.queueRoom (1537 + 2 * d) then 1537 + 2 * d else 1536 + 2 * d

/-- The queue that an engine port serves. -/
def portQueue (s : State) (collective : Bool) : Nat :=
  if collective then s.collectQueue (dieOf s.loc.core)
  else 4 * s.loc.core + (if s.loc.site = 4 then 0 else if s.loc.site = 11 then 1 else 2)

/-- The heads of i0 to i3, when all are there with good residues: the message, or none. -/
def fourHeads (o : Ops) : Bytes := (List.range 4).flatMap fun n => leBytes (tblGet ⟨⟨0, 0⟩, .dat, .raw, 0, 0⟩ o.heads n).val.bits.toNat 16
def headsOk (o : Ops) : Bool := o.heads.all fun h => h.2.val.ok

def readyEngine (s : State) (collective : Bool) : Readiness :=
  if s.queueRoom (portQueue s collective) = 0 then .wait else .fire

/-- A firing that sends a message to an engine: it enters the queue at the end of the cycle. `scat` tells SCAT's from GATH's. -/
def fireEngine (s : State) (w : SlotWord) (collective : Bool) (scat : Option Bool) : State :=
  let o := readOps s w 32
  if !headsOk o then headTrap s o.tid else
  let q := portQueue s collective
  if s.queueRoom q = 0 then s else
  let c := s.here
  let blk := (c.ctx s.loc.ctx).blk
  let j := { Job.mk0 (fourHeads o) q s.loc.core s.hereSpace s.herePriv o.tid with
    block := blk.block, graph := blk.graph, scope := if collective then scopeOf w else 3, scat }
  ((fireHeads s w o { res := 0 }).endOp (.send j)).setIrrev s.loc.core o.tid

/-- COPY. -/
def execCopy (w : SlotWord) (s : State) : Host.Outcome State Fault Refusal := .next (fireEngine s w false none)

/-- GATH. -/
def execGath (w : SlotWord) (s : State) : Host.Outcome State Fault Refusal := .next (fireEngine s w false (some false))

/-- SCAT. -/
def execScat (w : SlotWord) (s : State) : Host.Outcome State Fault Refusal := .next (fireEngine s w false (some true))

/-- XCOL. -/
def execXcol (w : SlotWord) (s : State) : Host.Outcome State Fault Refusal := .next (fireEngine s w true none)

/-- ENGQ's lanes (R343). -/
def State.engines (s : State) (core : Nat) : Payload :=
  ofLanes 32 [s.queueRoom (4 * core), s.queueRoom (4 * core + 1), s.queueRoom (4 * core + 2), 256 - (s.die (dieOf core)).jobs.length]

/-- ENGQ: its values are those at the end of the firing cycle, filled in then. -/
def execEngq (w : SlotWord) (s : State) : Host.Outcome State Fault Refusal :=
  match residueFault s w with
  | some p => .next (residueTrap s w p)
  | none => .next ((fireWith s w 4 (readOps s w 32) { res := 0 }).endOp (.engines s.loc.site s.loc.slot 0))

/-! ### Faults of jobs (R164, R355, R359, R362) -/

/-- Change a job of a die's order unit, found by its number. -/
def State.modJob (s : State) (die seq : Nat) (f : Job → Job) : State :=
  s.modDie die fun d => { d with jobs := d.jobs.map fun j => if j.seq == seq then f j else j }

/-- The site of an engine port. -/
def queueSite (q : Nat) : Nat := if 1536 ≤ q then 251 else if q % 4 = 0 then 4 else if q % 4 = 1 then 11 else 244

/-- The record of a job's fault: the sender, the message's first 16 bytes and the region (R359). -/
def jobRec (j : Job) (r : FaultRec) : FaultRec :=
  { r with engine := true, space := j.space, block := j.block, site := queueSite j.queue
           tid := if j.tid = noTid then 0 else j.tid, data := .ofNat 128 (leNat (j.msg.take 16))
           region := leNat ((j.msg.drop (16 + 12 * r.ridx)).take 12) }

/-- A job reads no longer: the tiles it has read are unpinned (R181). -/
def State.readDone (s : State) (j : Job) : State :=
  s.modCore j.core fun c => (msgRegions j.msg).foldl (fun c r => if r.2.tile && !r.2.w then c.unpin r.2.tileIdx else c) c

/-- A job faults: it keeps its place, what it has read is void, and the code's class says what follows. -/
def State.jobFault (s : State) (die : Nat) (j : Job) (r : FaultRec) : State :=
  let r := jobRec j r
  let s := (s.modJob die j.seq fun j => { j with got := [] }).readDone j
  let hold := fun (s : State) => s.modJob die j.seq fun j => { j with held := true }
  match faultClass r.code with
  | .violation => (hold s).freezeSpace j.core j.space r.code
  | .parked => s.modJob die j.seq fun j => { j with held := true, transit := r.code == 0x13, revoked := r.code == 0x14 }
  | c =>
    if c == .restartable && !r.persist then s
    else match (s.core j.core).handlerOf r.code with
      | some _ => (hold s).modCore j.core fun c => { c with activations := c.activations ++ [⟨r, j⟩] }
      | none => (hold s).freezeSpace j.core j.space r.code

/-! ### Acceptance and order (R161, R162) -/

/-- Whether a job's space is frozen where its core is. -/
def State.jobFrozen (s : State) (j : Job) : Bool := (s.core j.core).frozen.contains j.space

/-- A job's actor. -/
def Job.actor (j : Job) : Actor := { core := j.core, die := queueDie j.queue, space := j.space, priv := j.priv }

/-- Whether the opcode belongs to the instruction that has sent the message (R157): to its engine's kind, and to GATH or SCAT as it is. -/
def Job.belongs (j : Job) : Bool :=
  opcKind j.opc == some (queueKind j.queue) && match j.scat with
    | some b => (j.opc == 0x11) == b
    | none => true

/-- The checks 1 and 2 of R159 that need only the message. -/
def messageOk (j : Job) : Bool := headerOk j.msg && j.belongs && regionsOk j.msg && selfApart j.msg

/-- ENGINE_JOB_ACCEPT: the head of an engine's queue enters the order unit of its die. -/
def execEngineJobAccept (queue : Nat) (s : State) : Host.Outcome State Fault Refusal :=
  let die := queueDie queue
  let d := s.die die
  match s.jobQueue queue with
  | [] => .next s
  | j :: rest =>
    if 256 ≤ d.jobs.length then .next s else
    let j := { j with seq := d.jobSeq }
    let s := s.setJobQueue queue rest
    let s := s.modDie die fun d => { d with jobs := d.jobs ++ [j], jobSeq := d.jobSeq + 1 }
    .next (if j.move.isSome || messageOk j then s else s.jobFault die j { FaultRec.zero with code := 0x41 })

/-- The physical spans of a virtual interval, range by range; none when a line that the walk needs is not quiet. -/
def State.physSpans (s : State) (die space va stop fuel : Nat) : Option (List (Nat × Nat)) :=
  match fuel with
  | 0 => some []
  | fuel + 1 =>
    if stop ≤ va then some [] else
    match s.walk die space va with
    | .busy | .bad _ => none
    | .none _ => some []
    | .found _ d _ _ =>
      let e := min stop d.limit
      (s.physSpans die space e stop fuel).map fun r => (d.phys va, e - va) :: r

/-- A job's written or read physical spans: those of its memory regions, or the old and the new span of RMOVE's copy (R110). -/
def State.jobSpans (s : State) (die : Nat) (j : Job) : Option (List (Bool × Nat × Nat)) :=
  match j.move with
  | some m => some [(false, m.src, m.len), (true, m.dst, m.len)]
  | none => (msgRegions j.msg).foldl (fun acc r => match acc with
      | none => none
      | some l => if r.2.tile then some l else
        match s.physSpans die j.space r.2.start (r.2.start + r.2.len) 65536 with
        | none => none
        | some ps => some (l ++ ps.map fun p => (r.2.w, p.1, p.2))) (some [])

def isRemote (opc : Nat) : Bool := opc == 0x28 || opc == 0x29

/-- The remote interval of an RGET or RPUT that has read its control block (R301): whether it is written, the target, the space, the
address and the length. -/
def Job.remote (j : Job) : Option (Bool × (Nat × Nat) × Nat × Nat × Nat) :=
  if isRemote j.opc then j.target.map fun t => (j.opc == 0x29, t, j.space, msgNum j.cb 16 8, (msgRegion j.msg 1).len) else none

/-- Whether a later RGET or RPUT waits for an earlier one by their remote bytes (R301): the target is the device, whichever of its dies
serves it. Until an earlier one has read its control block, where its bytes lie is not known. -/
def remoteEdge (a b : Job) : Bool :=
  match b.remote with
  | none => false
  | some y => match a.remote with
    | some x => (x.1 || y.1) && x.2.1.1 == y.2.1.1 && x.2.2.1 == y.2.2.1 && meets x.2.2.2.1 x.2.2.2.2 y.2.2.2.1 y.2.2.2.2
    | none => isRemote a.opc && !a.moved && a.space == b.space

/-- Whether the regions of two jobs make the later one wait (R162). -/
def State.jobEdge (s : State) (die : Nat) (a b : Job) : Bool :=
  if a.move.isSome || b.move.isSome then
    match s.jobSpans die a, s.jobSpans die b with
    | some x, some y => x.any fun p => y.any fun q => (p.1 || q.1) && meets p.2.1 p.2.2 q.2.1 q.2.2
    | _, _ => true
  else
    (msgRegions a.msg).any (fun x => (msgRegions b.msg).any fun y =>
        (x.2.w || y.2.w) && regionsMeet a.space a.core b.space b.core x.2 y.2)
      || remoteEdge a b

/-- Whether a job has started, as the order of its engine counts it: it has begun, its bytes are moved, or a fault of it is held. -/
def Job.started (j : Job) : Bool := j.begun || j.moved || j.held

/-- Whether a job may start: not held or frozen, after the earlier jobs of its engine, and free of edges. -/
def State.jobReady (s : State) (die idx : Nat) (j : Job) : Bool :=
  !j.moved && !j.held && !s.jobFrozen j
    && ((s.die die).jobs.take idx).all fun a => !(a.queue == j.queue && !a.started) && !s.jobEdge die a j

/-! ### Tiles of a job (R51, R159) -/

/-- What the checks 3 and 4 answer. -/
inductive JobCheck where
  | wait
  | bad (code detail ridx : Nat)
  | ok
  deriving DecidableEq, Repr

/-- The first answer that is not ok. -/
def firstCheck (l : List JobCheck) : JobCheck := (l.find? fun c => c != .ok).getD .ok

/-- Whether a handle names a live entry of the job's space. -/
def Core.live (c : Core) (space h : Nat) : Bool :=
  let t := c.tile (handleIdx h)
  t.gen == handleGen h && (t.state == .empty || t.space == space)

/-- Whether another job is already the write-out of a tile. -/
def State.woutTaken (s : State) (die : Nat) (j : Job) (i : Nat) : Bool :=
  (s.die die).jobs.any fun k => k.seq != j.seq && k.attached && k.core == j.core && (msgRegion k.msg 0).tileIdx == i

/-- The checks of orders 3 and 4, and the states that a job waits for. R159 does not rank the checks of order 4 among themselves: they are made
region by region (size, layout, FILLING), then for REPLY, then for the states of read tiles (DESIGN CHOICE, log 129). -/
def State.tileChecks (s : State) (die : Nat) (j : Job) : JobCheck :=
  let c := s.core j.core
  let m := j.msg
  let h := fun (r : Region) => bits r.base 15 0
  let mine := fun (h : Nat) => (c.tile (handleIdx h)).state == .filling && (c.tile (handleIdx h)).owner == j.tid
  let ts := (msgRegions m).filter fun r => r.2.tile
  let gens := ts.map (fun r => if c.live j.space (h r.2) then .ok else .bad 0x20 (h r.2) r.1)
    ++ [if msgRk m = 1 && !c.live j.space (msgReply m) then JobCheck.bad 0x20 (msgReply m) 0 else .ok]
  let sizes := ts.map fun r =>
    let t := c.tile r.2.tileIdx
    if t.state != .empty && 32 * t.size < r.2.start + r.2.len then .bad 0x41 (h r.2) r.1
    else if t.state != .empty && t.layout != (if r.2.w then msgDlay m else msgSlay m) then .bad 0x21 (h r.2) r.1
    else if r.2.w && !mine (h r.2) then .bad 0x20 (h r.2) r.1 else .ok
  let reply := if msgRk m = 1 && !mine (msgReply m) then JobCheck.bad 0x20 (msgReply m) 0 else .ok
  let reads := ts.map fun r => if r.2.w then .ok else
    let t := c.tile r.2.tileIdx
    let out := msgWout m && r.1 == 0
    if t.state == .empty || (t.state == .draining && !out) || (out && s.woutTaken die j r.2.tileIdx) then .bad 0x20 (h r.2) r.1
    else if t.state == .filling || (out && t.state != .draining) || c.moving r.2.tileIdx then .wait else .ok
  match firstCheck (gens ++ sizes ++ [reply]) with
  | .ok => match firstCheck (reads.filter fun r => r != .wait) with
    | .ok => if reads.contains .wait then .wait else .ok
    | b => b
  | b => b

/-- A job begun (R162); a write-out is attached to its tile once its checks pass (R159, R171). -/
def State.attach (s : State) (die : Nat) (j : Job) : State :=
  let i := (msgRegion j.msg 0).tileIdx
  let s := s.modJob die j.seq fun j => { j with begun := true }
  if msgWout j.msg && !j.attached && ((s.core j.core).tile i).state != .empty then
    (s.modJob die j.seq fun j => { j with attached := true }).modCore j.core fun c => c.modTile i fun t => { t with wout := true }
  else s

/-- The uncorrectable error that a job's turn meets in a tile it reads (R164, R167). -/
def Job.tileError (j : Job) (err : Option (Nat × Bool)) : Option FaultRec :=
  match err with
  | some (i, persist) =>
    let r := msgRegion j.msg i
    if i < msgNreg j.msg && r.tile && !r.w then
      some { FaultRec.zero with code := 0x32, persist, detail := 5 * 2 ^ 60 + bits r.base 15 0, ridx := i }
    else none
  | none => none

/-! ### Moving bytes (R160) -/

/-- The region that a fault of a line names. -/
def EngErr.region (e : EngErr) (j : Nat) : EngErr :=
  match e with
  | .busy => .busy
  | .fault r s => .fault { r with ridx := j } s

/-- Bytes of a region from an offset: all n of a tile's, of memory those up to the end of a line. -/
def State.regPart (s : State) (j : Job) (i off n : Nat) : Except EngErr (Bytes × State) :=
  let r := msgRegion j.msg i
  if r.tile then .ok ((s.core j.core).tileRead ((s.core j.core).tile r.tileIdx) (r.start + off) n, s)
  else match s.xPart j.actor .engRead (r.start + off) n with
    | .error e => .error (e.region i)
    | .ok p => .ok p

/-- n bytes of a region from an offset. -/
def State.regGet (s : State) (j : Job) (i off n : Nat) : Except EngErr (Bytes × State) :=
  let r := msgRegion j.msg i
  if r.tile then s.regPart j i off n
  else match s.xRead j.actor .engRead (r.start + off) n with
    | .error e => .error (e.region i)
    | .ok p => .ok p

/-- The stop from which an engine's packets leave: the sending core's, or the engine group's (R113). -/
def Job.stop (j : Job) : Nat := if j.queue < 1536 then stopOf j.core else 26

/-- Bytes within one line sent as STORE packets, a word at a time, for a job that then waits for them (R113, R160, R163); `fuel` bounds the
words. -/
def State.postLine (s : State) (j : Job) (va pa : Nat) (bs : Bytes) (fuel : Nat) : State :=
  match fuel with
  | 0 => s
  | fuel + 1 =>
    if bs.isEmpty then s else
    let n := min bs.length (16 - pa % 16)
    let id := (s.core j.core).nextId
    let p := { Pkt.mk0 .store (pa / 128) j.core 0 with
      tid := noTid, id, word := pa % 128 / 16, mask := .ofNat 16 ((2 ^ n - 1) * 2 ^ (pa % 16))
      data := .ofNat 128 (leNat (bs.take n) * 2 ^ (8 * (pa % 16))), scope := j.scope }
    let s := (s.modCore j.core fun c => { c with nextId := id + 1 }).enqueue (homeChan (sliceAt (dieOf j.core) p.line)) j.stop p
    (s.modJob (queueDie j.queue) j.seq fun k => { k with waits := k.waits ++ [(id, va, pa)] }).postLine j (va + n) (pa + n) (bs.drop n) fuel

/-- Bytes written from a virtual address up, translated a line at a time as an actor's and sent to their homes. -/
def State.post (s : State) (a : Actor) (j : Job) (va : Nat) (bs : Bytes) (fuel : Nat) : Except EngErr State :=
  match fuel with
  | 0 => .ok s
  | fuel + 1 =>
    if bs.isEmpty then .ok s else
    let va := va % 2 ^ 64
    let k := min bs.length (128 - va % 128)
    match s.xlateLine a .engWrite va with
    | .error e => .error e
    | .ok (pa, s) => (s.postLine j va pa (bs.take k) 9).post a j (va + k) (bs.drop k) fuel

/-- Bytes written to a region at an offset: into the scratchpad, or sent to their homes. -/
def State.regPut (s : State) (j : Job) (i off : Nat) (bs : Bytes) : Except EngErr State :=
  let r := msgRegion j.msg i
  if r.tile then .ok (s.modCore j.core fun c => c.tilePut (c.tile r.tileIdx) (r.start + off) bs)
  else match s.post j.actor j (r.start + off) bs (bs.length / 128 + 2) with
    | .error e => .error (e.region i)
    | .ok s => .ok s

/-! A job reads all of its source, line after line as the lines come to hand, before its writes leave (R27, R160); what it has read stands in
`got` from one of its turns to the next. -/

/-- A check that fails at the target names RADDR; an uncorrectable burst keeps its own address (R85). -/
def atTarget (raddr : Nat) (e : EngErr) : EngErr :=
  match e with
  | .busy => .busy
  | .fault r s => .fault { r with addr := if r.code = 0x32 then r.addr else raddr, ridx := 1 } s

/-- What a job reads next: nothing more, an element outside its region, part of a region, or bytes at an RGET's target from an offset of
RADDR. -/
inductive Piece where
  | done
  | bad (r : FaultRec)
  | part (i off n : Nat)
  | target (a : Actor) (raddr off n : Nat)

/-- The part of a region that is still to be read. -/
def pieceOf (i len got : Nat) : Piece := if len ≤ got then .done else .part i got (len - got)

/-- The unsigned words of a byte sequence. -/
def wordsOf (bs : Bytes) : List Nat := (List.range (bs.length / 4)).map fun i => leNat ((bs.drop (4 * i)).take 4)

/-- The indices that a gather or scatter has read. -/
def Job.indices (j : Job) : List Nat := wordsOf (j.got.take (msgRegion j.msg 0).len)

/-- What GATHER or SCATTER reads next: its indices, then its elements in ascending order; check 6 stands in front of each. -/
def Job.elementPiece (j : Job) (scatter : Bool) : Piece :=
  let n := (msgRegion j.msg 0).len
  let z := msgEsz j.msg
  let q := j.got.length - n
  let x := j.indices.getD (q / z) 0
  let table := if scatter then 2 else 1
  if j.got.length < n then pieceOf 0 n j.got.length
  else if n / 4 * z ≤ q then .done
  else if (msgRegion j.msg table).len < x * z + z then .bad { FaultRec.zero with code := 0x41, write := scatter, ridx := table }
  else .part 1 (if scatter then q else x * z + q % z) (z - q % z)

/-- The bytes of a piece, or those of it that are read together. -/
def State.readPiece (s : State) (j : Job) (p : Piece) : Except EngErr (Bytes × State) :=
  match p with
  | .done => .ok ([], s)
  | .bad r => .error (.fault r s)
  | .part i off n => s.regPart j i off n
  | .target a raddr off n => match s.xPart a .engRead (raddr + off) n with
    | .error e => .error (atTarget raddr e)
    | .ok p => .ok p

/-- A job's source read on; what stops it before its end: nothing, a line that is not at hand, or a fault. `fuel` bounds the parts. -/
def State.readOn (s : State) (die : Nat) (next : Job → Piece) (j : Job) (fuel : Nat) : State × Job × Option EngErr :=
  let stop := fun (s : State) (e : Option EngErr) => (s.modJob die j.seq fun k => { k with got := j.got }, j, e)
  match fuel with
  | 0 => stop s (some .busy)
  | fuel + 1 =>
    match s.readPiece j (next j) with
    | .error e => stop s (some e)
    | .ok ([], s) => stop s none
    | .ok (b :: bs, s) => s.readOn die next { j with got := j.got ++ b :: bs } fuel

/-- The bound on the parts that a job reads: a byte each. -/
def Job.readBound (j : Job) : Nat := (msgRegion j.msg 0).len + (msgRegion j.msg 1).len + (msgRegion j.msg 2).len + 1

/-- A sequence of bytes changed sub-block by sub-block, of z bytes each. -/
def subBlocks (f : Bytes → Bytes) (z : Nat) (bs : Bytes) : Bytes :=
  (List.range (bs.length / z)).flatMap fun i => f ((bs.drop (z * i)).take z)

/-- The elements that a gather or scatter writes: each with its offset in region 2. -/
def Job.elements (j : Job) (scatter : Bool) : List (Nat × Bytes) :=
  let z := msgEsz j.msg
  let n := (msgRegion j.msg 0).len
  (j.indices.zip (List.range (n / 4))).map fun p =>
    (if scatter then p.1 * z else p.2 * z, (j.got.drop (n + z * p.2)).take z)

/-- The elements written, in order: where two write one byte the later one's stays. -/
def State.putElements (s : State) (j : Job) (es : List (Nat × Bytes)) : Except EngErr State :=
  match es with
  | [] => .ok s
  | e :: rest => match s.regPut j 2 e.1 e.2 with
    | .error e => .error e
    | .ok s => s.putElements j rest

/-- RMOVE's copy: the resident window, by physical address (R110); none while a line is not quiet. -/
def State.moveCopy (s : State) (src dst off len : Nat) : Option (Except (Nat × Bool) State) :=
  if !(s.quietSpan (src + off) len && s.quietSpan (dst + off) len) then none else
  match s.cohBytes (src + off) len with
  | .error e => some (.error e)
  | .ok (bs, s) => some (.ok (s.cohWrite (dst + off) bs))

/-- One job's turn: its checks, made before any byte moves (R159), its source read on, its bytes written once all of it is read, and its fault. -/
def State.runJob (s : State) (die : Nat) (at_ : JobTurn) (opc : Nat) (next : Job → Piece) (body : State → Job → Except EngErr State) : State :=
  match (s.die die).jobs[at_.idx]? with
  | none => s
  | some j =>
    if j.opc != opc || j.move.isSome || !s.jobReady die at_.idx j then s else
    match (if j.got.isEmpty then s.tileChecks die j else .ok) with
    | .bad code detail ridx => s.jobFault die j { FaultRec.zero with code, detail := if code = 0x41 then 0 else detail, ridx }
    | .wait => s.attach die j
    | .ok => match j.tileError at_.err with
      | some r => (s.attach die j).jobFault die j r
      | none => match (s.attach die j).readOn die next j j.readBound with
        | (t, _, some .busy) => t
        | (_, _, some (.fault r t)) => t.jobFault die j r
        | (t, k, none) => match body t k with
          | .error .busy => t
          | .error (.fault r t) => t.jobFault die j r
          | .ok t => (t.modJob die j.seq fun j => { j with moved := true, got := [] }).readDone j

/-- LINEAR (R157). RMOVE's copy has this opcode too: it is run by `execRmoveCopyComplete`. -/
def execLinear (die : Nat) (at_ : JobTurn) (s : State) : Host.Outcome State Fault Refusal :=
  .next (s.runJob die at_ 1 (fun j => pieceOf 0 (msgRegion j.msg 0).len j.got.length) fun s j => s.regPut j 1 0 j.got)

/-- TOPLANES and FROMPLANES: region 0 read, and region 1 written with its sub-blocks changed. -/
def State.convert (s : State) (die : Nat) (at_ : JobTurn) (opc : Nat) (f : Fmt → Bytes → Bytes) : State :=
  s.runJob die at_ opc (fun j => pieceOf 0 (msgRegion j.msg 0).len j.got.length)
    fun s j => s.regPut j 1 0 (subBlocks (f (msgEfmt j.msg)) (subBlock (msgEfmt j.msg)) j.got)

/-- TOPLANES (R248). -/
def execToplanes (die : Nat) (at_ : JobTurn) (s : State) : Host.Outcome State Fault Refusal := .next (s.convert die at_ 2 toPlanes)

/-- FROMPLANES (R248). -/
def execFromplanes (die : Nat) (at_ : JobTurn) (s : State) : Host.Outcome State Fault Refusal := .next (s.convert die at_ 3 fromPlanes)

/-- GATHER (R160). -/
def execGather (die : Nat) (at_ : JobTurn) (s : State) : Host.Outcome State Fault Refusal :=
  .next (s.runJob die at_ 0x10 (fun j => j.elementPiece false) fun s j => s.putElements j (j.elements false))

/-- SCATTER (R160). -/
def execScatter (die : Nat) (at_ : JobTurn) (s : State) : Host.Outcome State Fault Refusal :=
  .next (s.runJob die at_ 0x11 (fun j => j.elementPiece true) fun s j => s.putElements j (j.elements true))

/-! ### Completion (R163, R171) -/

/-- An arrival on its way to the home of a sync entry; the id 0xFFFF is none (R344; log 143). -/
def State.arrive (s : State) (sync space core tid : Nat) : State :=
  if sync = 0xFFFF then s else
  s.modDie (sync / 16384 % 4) fun d => { d with syncq := d.syncq ++ [.arrive (sync % 16384) (some space) core tid] }

/-- A task's part or job is complete (R333). -/
def State.taskStep (s : State) (h : Nat) : State :=
  s.modDie (bits h 13 12) fun d =>
    let t := tblGet Task.free d.tasks (bits h 11 0)
    { d with tasks := tblSet d.tasks (bits h 11 0) { t with left := t.left - 1 } }

/-- ENGINE_JOB_COMPLETE: everything a job wrote is performed, its flags are set, its write-out tile is EMPTY, and its reply takes
effect. -/
def execEngineJobComplete (die idx : Nat) (s : State) : Host.Outcome State Fault Refusal :=
  match (s.die die).jobs[idx]? with
  | none => .next s
  | some j =>
    if !j.moved || j.move.isSome || !j.waits.isEmpty then .next s else
    let s := s.modDie die fun d => { d with jobs := dropAt d.jobs idx }
    let s := s.modCore j.core fun c =>
      let c := c.flagLate j.flags
      let c := if j.attached then c.emptyTile s.cycle (msgRegion j.msg 0).tileIdx else c
      if msgRk j.msg = 1 then c.sealTile (handleIdx (msgReply j.msg)) (msgByte j.msg 3) else c
    let s := if msgRk j.msg = 2 then s.arrive (msgReply j.msg) j.space j.core j.tid else s
    let s := { s with insts := if j.cb.isEmpty || 5 ≤ j.opc % 16 then s.insts else
      if (List.range 4).any fun d => (s.die d).jobs.any fun k => k.opc == j.opc && !k.cb.isEmpty && k.cb.take 4 == j.cb.take 4
          && (k.cb.drop 20).take 4 == (j.cb.drop 20).take 4
      then s.insts else s.insts.filter fun i => !(i.group == msgNum j.cb 0 4 && i.seq == msgNum j.cb 20 4) }
    .next (match j.task with
      | some h => s.taskStep h
      | none => s)

/-! ### Activations (R362) -/

/-- The lowest thread id of the core's part that is not in use nor kept by an area that is not yet released. -/
def Core.freeTid (c : Core) : Option Nat :=
  match c.part with
  | none => none
  | some p => (List.range p.count).find? fun t =>
      let th := c.thread t
      th.st == .retired && th.area.isEmpty && th.runs.isEmpty && th.past.isEmpty

/-- ENGINE_ACTIVATION: the oldest fault of a job that waits for a handler is given a thread id. -/
def execEngineActivation (core : Nat) (s : State) : Host.Outcome State Fault Refusal :=
  let c := s.core core
  match c.activations with
  | [] => .next s
  | a :: rest =>
    match c.freeTid, c.handlerOf a.record.code with
    | some t, some h =>
      .next (s.setCore core (({ c with activations := rest }).modThread t fun _ =>
        { Thread.none with st := .waiting, blk := h, resume := ⟨h, none⟩, handler := true, hblk := h, activation := some a.job.seq
                           record := some a.record, wakeAt := s.cycle + 1 }))
    | _, _ => .next s

/-! ### Invalidations and moves (R102, R109, R110) -/

/-- The lines of a span that some cache, slice or proxy holds. -/
def State.heldLines (s : State) (pa len : Nat) : List Nat :=
  let inSpan := fun (l : Nat) => decide (pa / 128 ≤ l) && decide (l ≤ (pa + len - 1) / 128)
  (((s.lines.filter fun (x : Nat × Line) => x.2.data.isSome || x.2.st != .i || x.2.pend.isSome || x.2.sharers != 0).map (·.1))
    ++ (s.proxies.map fun (x : Nat × Line) => x.1 / 4) ++ (s.cores.flatMap fun (c : Nat × Core) => c.2.l1.map (·.1))).eraseDups.filter inSpan

/-- The space of a core's part. -/
def State.partSpace (s : State) (core : Nat) : Nat := match (s.core core).part with
  | some p => p.space
  | none => 0

/-- The copy of a move (R110). -/
def Move.copy (m : Move) : MoveCopy := { src := m.oldPa, dst := m.newPa, len := m.len, off := m.lo * 256, n := (m.hi - m.lo) * 256 }

/-- The queue of copy engine 1 of the core that issued a move. -/
def Move.queue (m : Move) : Nat := 4 * m.op.core + 1

/-- RMOVE goes on with its copy, which enters the queue of copy engine 1 of the issuing core (R110, R161). -/
def State.queueMove (s : State) (m : Move) : State :=
  let j := { Job.mk0 [] m.queue m.op.core (s.partSpace m.op.core) true noTid with opc := 1, move := some m.copy }
  let s := s.setJobQueue m.queue (s.jobQueue m.queue ++ [j])
  { s with moves := s.moves.map fun (x : Move) => if x.op == m.op then { x with phase := 1 } else x }

/-- Whether what a move parked lies in its range. -/
def Move.parked (m : Move) (moving : Bool) (va : Nat) : Bool := moving && decide (m.vbase ≤ va) && decide (va < m.vbase + m.len)

/-- A thread in a save image that the move parked released by it. -/
def Move.release (m : Move) (frozen : Bool) (x : SavedThread) : SavedThread :=
  if m.parked x.moving x.movedVa then { x with moving := false, retry := !frozen } else x

/-- The threads and jobs that a move held go on, those in save images at their resumption (R110); where their space is frozen, the threads
wait for the thaw (R375, R378). -/
def State.endMove (s : State) (m : Move) : State :=
  let s := { s with
    cores := tblMap s.cores fun (_ : Nat) (c : Core) =>
      if (match c.part with
        | some p => p.space == m.space
        | none => false) then
        c.threads.foldl (fun (c : Core) (t : Nat × Thread) =>
          if t.2.st == ThreadState.parked && m.parked t.2.moving t.2.movedVa then
            if c.frozen.contains m.space then c.modThread t.1 (fun th => { th with moving := false }) else c.requeue t.1 (s.cycle + 1)
          else match t.2.pending with
            | some r => if m.parked (decide (r.code = 0x13)) r.addr then c.modThread t.1 (fun th => { th with pending := some r.settled }) else c
            | none => c) c
      else c
    dies := tblMap s.dies fun (_ : Nat) (d : Die) => { d with
      jobs := d.jobs.map fun (j : Job) =>
        if j.space == m.space && j.transit then { j with held := false, transit := false, moved := false } else j
      ready := tblMap d.ready fun (_ : Nat) (q : List Ready) => q.map fun (r : Ready) =>
        if r.space != m.space then r else { r with kept := r.kept.map fun (x : SavedThread) => m.release (s.frozen.contains m.space) x } }
    moves := s.moves.filter fun (x : Move) => x.op != m.op }
  s.status m.op 0

/-- Whether what follows an invalidation is a copy that finds its engine's queue full (R161). -/
def State.moveBlocked (s : State) (v : Inval) : Bool :=
  match s.moves.find? fun m => v.move == some (m.op.key, m.op.core, m.op.site) with
  | some m => v.next == 2 && m.phase == 0 && s.queueRoom m.queue == 0
  | none => false

/-- INVALIDATION_COMPLETE (R102): what was translated through the removed entries has been performed or discarded. -/
def execInvalidationComplete (idx : Nat) (s : State) : Host.Outcome State Fault Refusal :=
  match s.invals[idx]? with
  | none => .next s
  | some v =>
    if !s.invalDone v || s.moveBlocked v then .next s else
    let s := { s with invals := dropAt s.invals idx }
    if v.next = 1 then
      let lines := s.heldLines v.span.1 v.span.2
      match v.op with
      | none => .next s
      | some op =>
        if lines.isEmpty then .next (s.status op 0) else
        let s := lines.foldl (fun s l => s.toHome op.core { Pkt.mk0 .disc l op.core 0 with id := op.key }) s
        .next { s with invals := s.invals ++ [{ v with next := 3, waitAcc := lines.map fun l => (l, 0), waitEnt := [] }] }
    else if v.next = 2 then
      match s.moves.find? fun m => v.move == some (m.op.key, m.op.core, m.op.site) with
      | none => .next s
      | some m => .next (if m.phase = 0 then s.queueMove m else s.endMove m)
    else match v.op with
      | some op => .next (s.status op 0)
      | none => .next s

/-- RMOVE_COPY_COMPLETE (R110): the copy runs in the order of R162, and the descriptor is switched to the new span. Where the directory cannot be
read for the switch, the move ends there and its thread faults with SOFT_ERROR (R85; log 147). -/
def execRmoveCopyComplete (idx : Nat) (s0 : State) : Host.Outcome State Fault Refusal :=
  let s := s0
  match s.moves[idx]? with
  | none => .next s
  | some m =>
    let d := s.die m.die
    match findIdx d.jobs fun j => j.core == m.op.core && decide (m.phase = 1) && j.move == some m.copy with
    | none => .next s
    | some (i, j) =>
      if !s.jobReady m.die i j then .next s else
      match s.moveCopy m.oldPa m.newPa (m.lo * 256) ((m.hi - m.lo) * 256) with
      | none => .next s
      | some (.error e) => .next (s.jobFault m.die j { FaultRec.zero with code := 0x32, addr := e.1, persist := e.2 })
      | some (.ok s) =>
        let ended := fun (s : State) =>
          { s.modDie m.die (fun d => { d with jobs := dropAt d.jobs i }) with moves := s.moves.filter fun (x : Move) => x.op != m.op }
        match s.findRange m.die m.space m.vbase with
        | .busy => .next s0
        | .bad a => .next ((ended s0).opSoft m.op m.tid a)
        | .status n s => .next ((ended s).status m.op n)
        | .found f s =>
          if !s.quietSpan (f.base + 32 * f.idx) 32 then .next s0 else
          let s := s.writeDesc f.base f.idx ((f.d.setOffset (m.newPa + 2 ^ 64 - m.vbase)).setTransit false)
          let s := s.modDie m.die fun d => { d with jobs := dropAt d.jobs i }
          let s := { s with moves := s.moves.map fun (x : Move) => if x.op == m.op then { x with phase := 2 } else x }
          .next (s.invalidate m.op.core m.tid allCores (some m.space) m.vbase (m.vbase + m.len) 2 none (0, 0)
            (some (m.op.key, m.op.core, m.op.site)))

end Sys2Proof.Machine
end

