-- ==== Sys2Proof/Machine/Collective.lean ====
section
/-! DEFINITION. The collective engines: groups, the canonical tree, occurrences, and remote reads and writes (R295 to R302). -/

namespace Sys2Proof.Machine

/-! ### Groups and control blocks (R295, R297, R298) -/

/-- A group table entry. -/
structure GroupEntry where
  space : Nat
  n     : Nat
  map   : Nat
  deriving DecidableEq, Repr

/-- The entry of a group on a die, when it is valid. -/
def groupOf (bs : Bytes) : Option GroupEntry :=
  let w := msgNum bs 0 2
  let n := msgNum bs 2 2
  if bit w 15 && bits w 14 12 == 0 && decide (1 ≤ n) && decide (n ≤ 4096) && msgNum bs 4 4 == 0 && (bs.drop 16).all (· == 0) then
    some ⟨bits w 11 0, n, msgNum bs 8 8⟩
  else none

/-- The physical address of a group's entry. -/
def State.groupAt (s : State) (die g : Nat) : Nat := bits (s.die die).xgtBase.toNat 47 5 * 32 + 32 * g

/-- What a read of a group's tables answers. -/
inductive GroupRes (α : Type) where
  | busy
  | bad (addr : Nat)
  | none (s : State)
  | got (x : α) (s : State)

def State.readGroup (s : State) (die g : Nat) : GroupRes GroupEntry :=
  if 255 < g then .none s else
  match s.devRead (s.groupAt die g) 32 with
  | .busy => .busy
  | .bad a _ => .bad a
  | .got bs s => match groupOf bs with
    | some e => .got e s
    | none => .none s

/-- A rank's place: its peer (0 for this device) and its die. -/
def State.readRank (s : State) (e : GroupEntry) (r : Nat) : GroupRes (Nat × Nat) :=
  match s.devRead (e.map + 8 * r) 8 with
  | .busy => .busy
  | .bad a _ => .bad a
  | .got bs s => if msgNum bs 4 4 < 4 then .got (msgNum bs 0 4, msgNum bs 4 4) s else .none s

/-- Fields of a control block. -/
def cbGroup (b : Bytes) : Nat := msgNum b 0 4
def cbRank (b : Bytes) : Nat := msgNum b 4 4
def cbCount (b : Bytes) : Nat := msgNum b 8 4
def cbType (b : Bytes) : Nat := msgByte b 12
def cbRop (b : Bytes) : Nat := msgByte b 13
def cbRoot (b : Bytes) : Nat := msgNum b 16 4
def cbSeq (b : Bytes) : Nat := msgNum b 20 4
def cbRaddr (b : Bytes) : Nat := msgNum b 16 8

/-- Bytes of an element. -/
def typeBytes (t : Nat) : Nat := if t = 3 then 2 else 4

/-- The fields and lengths of a control block for an opcode and a group of n ranks (R297, R298). -/
def cbOk (j : Job) (b : Bytes) (n : Nat) : Bool :=
  let l := cbCount b * typeBytes (cbType b)
  let r := fun (i : Nat) => (msgRegion j.msg i).len
  decide (cbRank b < n) && msgNum b 14 2 == 0 && msgNum b 24 8 == 0 &&
  if isRemote j.opc then cbCount b == 0 && cbType b == 0 && cbRop b == 0
  else decide (1 ≤ cbCount b) && decide (cbType b ≤ 3) && decide (cbRop b ≤ 2)
    && (if j.opc = 0x21 || j.opc = 0x22 then decide (cbRoot b < n) else cbRoot b == 0)
    && r 1 == (if j.opc = 0x24 then n * l else l) && r 2 == (if j.opc = 0x23 then n * l else l)

/-! ### The canonical tree (R299) -/

/-- op on two elements. -/
def redOp (t rop a b : Nat) : Nat × BitVec 5 :=
  let num := fun (x : Nat) => if t = 0 then sext x 32 else (x : Int)
  if t < 2 then
    (match rop with
      | 0 => (a + b) % 2 ^ 32
      | 1 => if num b < num a then b else a
      | _ => if num a < num b then b else a, 0)
  else
    let f := if t = 2 then fpF32 else fpBF16
    match rop with
    | 0 => fpSum f .rne false [⟨false, [fpDecode f a]⟩, ⟨false, [fpDecode f b]⟩]
    | 1 => fpMinMax f false a b
    | _ => fpMinMax f true a b

/-- red over the ranks' element lists; `fuel` bounds the depth. -/
def redTree (t rop : Nat) (xs : List (List Nat)) (fuel : Nat) : List Nat × BitVec 5 :=
  match fuel, xs with
  | _, [] => ([], 0)
  | _, [x] => (x, 0)
  | 0, x :: _ => (x, 0)
  | fuel + 1, xs =>
    let k := 2 ^ Nat.log2 (xs.length - 1)
    let l := redTree t rop (xs.take k) fuel
    let r := redTree t rop (xs.drop k) fuel
    let ys := (l.1.zip r.1).map fun p => redOp t rop p.1 p.2
    (ys.map (·.1), ys.foldl (fun f y => f ||| y.2) (l.2 ||| r.2))

/-- The elements of a contribution. -/
def elemsOf (z : Nat) (bs : Bytes) : List Nat := (List.range (bs.length / z)).map fun i => leNat ((bs.drop (z * i)).take z)

/-- What a rank's region 2 becomes, when it writes one, and the flags of the tree (R298, R299). -/
def collectResult (opc rank : Nat) (t rop root len : Nat) (data : List Bytes) : Option Bytes × BitVec 5 :=
  let z := typeBytes t
  let red := redTree t rop (data.map (elemsOf z)) 13
  let out := red.1.flatMap fun x => leBytes x z
  match opc with
  | 0x20 => (some out, red.2)
  | 0x21 => (if rank = root then some out else none, red.2)
  | 0x22 => (data[root]?, 0)
  | 0x23 => (some data.flatten, 0)
  | _ => (some ((out.drop (rank * len)).take len), red.2)

/-! ### Arrivals (R298, R300) -/

/-- The jobs of one occurrence that have arrived on this device: with their dies. -/
def State.arrivals (s : State) (g q : Nat) : List (Nat × Job) :=
  (List.range 4).flatMap fun d => ((s.die d).jobs.filter fun j =>
    !isRemote j.opc && j.arrived && !j.moved && cbGroup j.cb == g && cbSeq j.cb == q).map fun j => (d, j)

/-- What two arrivals of one occurrence share. -/
def cbKey (opc : Nat) (b : Bytes) : Nat × Nat × Nat × Nat × Nat := (opc, cbCount b, cbType b, cbRop b, cbRoot b)

/-- A fault of a job at an uncorrectable read of its group's tables (R85). -/
def softAt (a : Nat) : FaultRec := { FaultRec.zero with code := 0x32, addr := a, persist := true }

/-- The control block read and checked (check 1 of R159): the block, the group and the rank's place. -/
def State.readControl (s : State) (die : Nat) (j : Job) : Except EngErr (Bytes × GroupEntry × (Nat × Nat) × State) :=
  let bad := fun (s : State) => EngErr.fault { FaultRec.zero with code := 0x41 } s
  match s.regGet j 0 0 32 with
  | .error e => .error e
  | .ok (b, s) => match s.readGroup die (cbGroup b) with
    | .busy => .error .busy
    | .bad a => .error (.fault (softAt a) s)
    | .none s => .error (bad s)
    | .got e s =>
      if e.space != j.space || !cbOk j b e.n then .error (bad s) else
      match s.readRank e (cbRank b) with
      | .busy => .error .busy
      | .bad a => .error (.fault (softAt a) s)
      | .none s => .error (bad s)
      | .got p s => if !isRemote j.opc && !(p.1 == 0 && p.2 == die) then .error (bad s) else .ok (b, e, p, s)

/-- Jobs fault together, but for those that a fault already holds. -/
def State.faultAll (s : State) (js : List (Nat × Job)) (r : FaultRec) : State :=
  js.foldl (fun s o => if o.2.held then s else s.jobFault o.1 o.2 r) s

/-- The arrivals of an occurrence differ: every job of it faults, those that arrive later among them. -/
def State.voidInst (s : State) (g q : Nat) (js : List (Nat × Job)) : State :=
  ({ s with insts := s.insts ++ [Colle.mk g q []] } : State).faultAll js { FaultRec.zero with code := 0x41 }

/-- A participant arrives. One that differs from another arrival makes every job of the occurrence fault; a second arrival of a rank faults,
and so does one whose occurrence has filled or whose arrivals differ. -/
def State.collectArrive (s : State) (die : Nat) (j : Job) : State :=
  let b := j.cb
  let others := s.arrivals (cbGroup b) (cbSeq b)
  let here := s.modJob die j.seq fun j => { j with arrived := true }
  if others.any fun o => cbKey o.2.opc o.2.cb != cbKey j.opc b then here.voidInst (cbGroup b) (cbSeq b) (others ++ [(die, j)])
  else if (others.any fun o => cbRank o.2.cb == cbRank b) || (s.insts.any fun i => i.group == cbGroup b && i.seq == cbSeq b) then
    s.jobFault die j { FaultRec.zero with code := 0x41 }
  else here

/-- Occurrences of which no job of the device is left are gone: their SEQ may be used again (R300). -/
def State.dropInsts (s : State) : State := { s with insts := s.insts.filter fun i => !(s.arrivals i.group i.seq).isEmpty }

/-- Whether a job posted to a rank's engines, whose control block is still to be read, is an earlier occurrence of the group as memory now has
its block, or cannot be told from one yet. -/
def State.postedEarlier (s : State) (j k : Job) : Bool :=
  !isRemote k.opc && k.cb.isEmpty && !k.held && k.space == j.space && match s.regGet k 0 0 32 with
  | .ok (b, _) => cbGroup b == cbGroup j.cb && cbRank b == cbRank j.cb && decide (cbSeq b < cbSeq j.cb)
  | .error .busy => true
  | .error (.fault _ _) => false

/-- Whether an earlier occurrence of the group is still to complete at this rank: one whose job has read its control block, or one posted that
is still to read it, accepted or in an engine's queue (R300). -/
def State.earlierSeq (s : State) (die : Nat) (j : Job) : Bool :=
  let d := s.die die
  ((List.range 4).any fun e => (s.die e).jobs.any fun k =>
    !isRemote k.opc && !k.cb.isEmpty && cbGroup k.cb == cbGroup j.cb && cbRank k.cb == cbRank j.cb && decide (cbSeq k.cb < cbSeq j.cb))
  || (d.jobs.any fun k => 1536 ≤ k.queue && s.postedEarlier j k) || d.collect.any fun q => q.2.any fun k => s.postedEarlier j k

/-- Whether a rank's data is read: every rank's, but for BCAST the root's only. -/
def brings (opc root rank : Nat) : Bool := opc != 0x22 || rank == root

/-- The bytes that a job brings to its occurrence. -/
def Job.brought (j : Job) : Nat := if brings j.opc (cbRoot j.cb) (cbRank j.cb) then (msgRegion j.msg 1).len else 0

/-- What a collective job that has arrived reads next: what it brings, of region 1. -/
def Job.collectPiece (j : Job) : Piece := pieceOf 1 j.brought j.got.length

/-- A collective job's start: its control block is read, once (R297). -/
def State.startCollective (s : State) (die : Nat) (j : Job) : State :=
  match s.readControl die j with
  | .error .busy => s.attach die j
  | .error (.fault r t) => t.jobFault die j r
  | .ok (b, _, _, t) => t.modJob die j.seq fun j => { j with begun := true, cb := b }

/-- A collective job that has read its control block: its tiles are checked, and it arrives. -/
def State.arriveTurn (s : State) (die : Nat) (at_ : JobTurn) (j : Job) : State :=
  match s.tileChecks die j with
  | .bad code detail ridx => s.jobFault die j { FaultRec.zero with code, detail := if code = 0x41 then 0 else detail, ridx }
  | .wait => s
  | .ok => match j.tileError at_.err with
    | some r => s.jobFault die j r
    | none => s.collectArrive die j

/-- A collective job whose occurrence has filled writes its result. -/
def State.collectWrite (s : State) (die : Nat) (j : Job) (i : Colle) : State :=
  let b := j.cb
  let r := collectResult j.opc (cbRank b) (cbType b) (cbRop b) (cbRoot b) (cbCount b * typeBytes (cbType b)) (i.ranks.map (·.data))
  if i.ranks.isEmpty then s.jobFault die j { FaultRec.zero with code := 0x41 } else
  match (match r.1 with
    | some bs => s.regPut j 2 0 bs
    | none => .ok s) with
  | .error .busy => s
  | .error (.fault f t) => t.jobFault die j f
  | .ok t => t.modJob die j.seq fun j => { j with moved := true, flags := r.2, got := [] }

/-- A collective job's turn: it reads its control block, arrives, reads what it brings, and, once its occurrence has filled, writes its result. -/
def State.collective (s : State) (die : Nat) (at_ : JobTurn) (opc : Nat) : State :=
  match (s.die die).jobs[at_.idx]? with
  | none => s
  | some j =>
    if j.opc != opc || j.move.isSome || !s.jobReady die at_.idx j then s
    else if j.cb.isEmpty then s.startCollective die j
    else if !j.arrived then s.arriveTurn die at_ j
    else match s.insts.find? fun i => i.group == cbGroup j.cb && i.seq == cbSeq j.cb with
      | some i => if s.earlierSeq die j then s else s.collectWrite die j i
      | none => match s.readOn die Job.collectPiece j j.readBound with
        | (_, _, some (.fault r t)) => t.jobFault die j r
        | (t, _, _) => t.readDone j

/-- ALLREDUCE. -/
def execAllreduce (die : Nat) (at_ : JobTurn) (s : State) : Host.Outcome State Fault Refusal := .next (s.collective die at_ 0x20)

/-- REDUCE. -/
def execReduce (die : Nat) (at_ : JobTurn) (s : State) : Host.Outcome State Fault Refusal := .next (s.collective die at_ 0x21)

/-- BCAST. -/
def execBcast (die : Nat) (at_ : JobTurn) (s : State) : Host.Outcome State Fault Refusal := .next (s.collective die at_ 0x22)

/-- ALLGATHER. -/
def execAllgather (die : Nat) (at_ : JobTurn) (s : State) : Host.Outcome State Fault Refusal := .next (s.collective die at_ 0x23)

/-- REDUCESCATTER. -/
def execReducescatter (die : Nat) (at_ : JobTurn) (s : State) : Host.Outcome State Fault Refusal := .next (s.collective die at_ 0x24)

/-! ### Filling an occurrence (R300) -/

/-- What every rank brings, from rank `r` up: what local ones have read, and what remote ones give. -/
def State.gatherRanks (s : State) (g : GroupEntry) (jobs : List (Nat × Job)) (remote : List RankData) (len : Nat) (rs : List Nat)
    (acc : List RankData) : GroupRes (List RankData) :=
  match rs with
  | [] => .got acc s
  | r :: rest =>
    match s.readRank g r with
    | .busy => .busy
    | .bad a => .bad a
    | .none s => .none s
    | .got p s =>
      if p.1 != 0 then
        match remote.find? fun x => x.rank == r with
        | some x => if x.data.length == (if brings x.opc x.root r then len else 0)
            then s.gatherRanks g jobs remote len rest (acc ++ [x]) else .none s
        | none => .none s
      else match jobs.find? fun j => cbRank j.2.cb == r && j.1 == p.2 with
        | none => .none s
        | some (_, j) =>
          let b := j.cb
          if j.got.length < j.brought then .busy
          else s.gatherRanks g jobs remote len rest (acc ++ [⟨r, j.opc, cbCount b, cbType b, cbRop b, cbRoot b, j.got⟩])

/-- Whether some port of a die carries traffic (R293). -/
def State.portUp (s : State) (d : Nat) : Bool := (List.range 8).any fun p => (s.port (8 * d + p)).up

/-- COLLECTIVE_INSTANCE_FILL: every rank of an occurrence has arrived; what they bring is collected. Remote ranks bring it over the
ports, and what each local rank brings leaves by its own die's: while none of a die is up, it waits there (R293). -/
def execCollectiveInstanceFill (group seq : Nat) (remote : List RankData) (s : State) : Host.Outcome State Fault Refusal :=
  let jobs := s.arrivals group seq
  match jobs with
  | [] => .next s
  | (die, j) :: _ =>
    if (s.insts.any fun i => i.group == group && i.seq == seq) || (jobs.any fun x => x.2.held || s.jobFrozen x.2) || (!remote.isEmpty && jobs.any fun x => !s.portUp x.1) then .next s else
    match s.readGroup die group with
    | .busy => .next s
    | .bad a => .next (s.faultAll jobs (softAt a))
    | .none s => .next (s.faultAll jobs { FaultRec.zero with code := 0x41 })
    | .got g s =>
      let b := j.cb
      let key := cbKey j.opc b
      let l := cbCount b * typeBytes (cbType b)
      let len := if j.opc = 0x24 then g.n * l else l
      if (remote.any fun x => (x.opc, x.count, x.etype, x.rop, x.root) != key) || (jobs.any fun x => cbKey x.2.opc x.2.cb != key) then
        .next (s.voidInst group seq jobs)
      else match s.gatherRanks g jobs remote len (List.range g.n) [] with
        | .got ranks s =>
          -- what a local rank brings goes out to the remote ones
          let out := if remote.isEmpty then [] else ranks.filterMap fun r =>
            (jobs.find? fun x => cbRank x.2.cb == r.rank).map fun x => (x.1, r.data)
          .next { s with insts := s.insts ++ [⟨group, seq, ranks⟩], wire := s.wire ++ out }
        | .bad a => .next (s.faultAll jobs (softAt a))
        | _ => .next s

/-! ### RGET and RPUT (R301) -/

/-- The actor at a target of this device: its die's service core serves it. -/
def State.target (s : State) (d : Nat) (space : Nat) (priv : Bool) : Actor := { core := 96 * d + (s.die d).svcCore, die := d, space, priv }

/-- The record of a fault that a remote target has found (R301, R354, R359). -/
def refusedBy (f : RemoteFault) (raddr : Nat) (put : Bool) : FaultRec :=
  let r := { FaultRec.zero with addr := raddr, write := put, ridx := 1 }
  match f with
  | .noRange => { r with code := 0x10 }
  | .denied => { r with code := 0x11 }
  | .absent u => { r with code := 0x12, detail := u }
  | .transit => { r with code := 0x13 }
  | .revoked => { r with code := 0x14 }
  | .soft burst persist => { r with code := 0x32, addr := burst, persist }

/-- What an RGET or RPUT reads next: RPUT region 1, and RGET the target's bytes where the target is a die of this device. -/
def State.remotePiece (s : State) (put : Bool) (j : Job) : Piece :=
  let n := (msgRegion j.msg 1).len
  if put then pieceOf 1 n j.got.length
  else match j.target with
    | some (0, d) => if n ≤ j.got.length then .done
        else .target (s.target d j.space j.priv) (cbRaddr j.cb) j.got.length (n - j.got.length)
    | _ => .done

/-- RGET's and RPUT's bytes written: at the target that the control block names, or in region 1. A target of this device is written with STORE
packets of the job's; another one by messages over the ports of its die (R290). -/
def State.remoteBody (s : State) (die : Nat) (remote : RemoteReply) (put : Bool) (j : Job) : Except EngErr State :=
  let n := (msgRegion j.msg 1).len
  let ra := cbRaddr j.cb
  match j.target with
  | none => .error .busy
  | some p =>
    if p.1 = 0 then
      if put then match s.post (s.target p.2 j.space j.priv) j ra j.got (n / 128 + 2) with
        | .error e => .error (atTarget ra e)
        | .ok s => .ok s
      else s.regPut j 1 0 j.got
    else if !s.portUp die then .error .busy
    else match remote.fault with
      | some f => .error (.fault (refusedBy f ra put) s)
      | none =>
        if put then .ok { s with wire := s.wire ++ [(die, j.got)] }
        else if remote.data.length != n then .error .busy else s.regPut j 1 0 remote.data

/-- An RGET or RPUT that starts reads its control block, before any other check (R297, R298). -/
def State.readTarget (s : State) (die : Nat) (at_ : JobTurn) (opc : Nat) : State :=
  match (s.die die).jobs[at_.idx]? with
  | none => s
  | some j =>
    if j.opc != opc || j.move.isSome || j.target.isSome || !s.jobReady die at_.idx j then s else
    match s.readControl die j with
    | .error .busy => s.attach die j
    | .error (.fault r t) => t.jobFault die j r
    | .ok (b, _, p, t) => t.modJob die j.seq fun j => { j with begun := true, cb := b, target := some p }

/-- The turn of an RGET or RPUT that has read its control block. -/
def State.remoteRun (s : State) (die : Nat) (at_ : JobTurn) (remote : RemoteReply) (opc : Nat) : State :=
  s.runJob die at_ opc (s.remotePiece (opc == 0x29)) fun s j => s.remoteBody die remote (opc == 0x29) j

/-- RGET: the target's bytes written to region 1. A remote target's answer comes with the event. -/
def execRget (die : Nat) (at_ : JobTurn) (remote : RemoteReply) (s : State) : Host.Outcome State Fault Refusal :=
  .next ((s.readTarget die at_ 0x28).remoteRun die at_ remote 0x28)

/-- RPUT: region 1 written at the target. -/
def execRput (die : Nat) (at_ : JobTurn) (remote : RemoteReply) (s : State) : Host.Outcome State Fault Refusal :=
  .next ((s.readTarget die at_ 0x29).remoteRun die at_ remote 0x29)

end Sys2Proof.Machine
end

