-- ==== Sys2Proof/Machine/Tasks.lean ====
section
/-! DEFINITION. Task records, placement, SPAWN, TASKD, SYNCA and SYNCI, decrements, completions, sync entries, the boundary links and
the stagger unit (R329 to R337, R340 to R350). -/

namespace Sys2Proof.Machine

/-! ### Records (R330, R331) -/

def recNum (r : Bytes) (i k : Nat) : Nat := leNat ((r.drop i).take k)
def recKind (r : Bytes) : Nat := msgByte r 0
def recPrio (r : Bytes) : Nat := msgByte r 1
def recSpace (r : Bytes) : Nat := recNum r 2 2
def recDeps (r : Bytes) : Nat := recNum r 4 2
def recEntry (r : Bytes) : Nat := recNum r 6 2
def recThreads (r : Bytes) : Nat := recNum r 8 4
def recGraph (r : Bytes) : Nat := recNum r 12 2
def recCsync (r : Bytes) : Nat := recNum r 14 2
def recArgs (r : Bytes) : Nat := recNum r 16 8
def recPools (r : Bytes) : Nat := recNum r 24 8
def recSucc (r : Bytes) : Nat := recNum r 32 8
def recHint (r : Bytes) : Nat := recNum r 40 2
def recFoot (r : Bytes) : Nat := recNum r 48 8

/-- The core and the die that a record's hint names. -/
def hintCore (r : Bytes) : Option Nat := if bit (recHint r) 15 then some (bits (recHint r) 8 0) else none
def hintDie (r : Bytes) : Option Nat := if bit (recHint r) 14 then some (bits (recHint r) 1 0) else none

/-- The engine opcodes of the engine kinds. -/
def engineKind (k opc : Nat) : Bool :=
  match k with
  | 1 => opcKind opc == some 0
  | 2 => opcKind opc == some 1
  | _ => opcKind opc == some 2

/-- The fields of R330. -/
def recordOk (r : Bytes) : Bool :=
  let k := recKind r
  let h := recHint r
  r.length == 64 && decide (k ≤ 4) && decide (recPrio r < 64) && decide (recSpace r < 4096)
    && (match k with
      | 0 => decide (recEntry r < 4096) && recThreads r != 0
      | 4 => recEntry r == 0 && recThreads r == 0 && recGraph r == 0 && recArgs r == 0 && recPools r == 0
      | _ => engineKind k (recEntry r) && recThreads r == 0 && recGraph r == 0 && recPools r == 0)
    && bits h 13 9 == 0 && !(bit h 15 && bit h 14) && (!bit h 15 || decide (bits h 8 0 < 384))
    && recNum r 42 6 == 0 && recNum r 56 8 == 0

/-- What a task's lists hold: successors, footprint and pools (size and reserve). -/
structure TaskLists where
  succ  : List Nat
  foot  : List (Nat × Nat)
  pools : List (Nat × Nat)
  deriving DecidableEq, Repr

/-- What reading the lists answers: not yet, a list that breaks R331, a read that fails (which list, and the code), or the lists. -/
inductive ListRes where
  | busy
  | broken (s : State)
  | failed (list code : Nat) (s : State)
  | lists (l : TaskLists) (s : State)

/-- A read of a task's own, in its space with permission R (R414). -/
def State.taskRead (s : State) (a : Actor) (va n : Nat) : Except EngErr (Bytes × State) := s.xRead a .read va n

/-- The code of a failed read. -/
def EngErr.answer (e : EngErr) (list : Nat) : ListRes :=
  match e with
  | .busy => .busy
  | .fault r s => .failed list r.code s

/-- The lists of a record, read in the order SUCC, FOOT, POOLS (1, 2, 3). -/
def State.readLists (s : State) (a : Actor) (r : Bytes) : ListRes :=
  let succ : Except EngErr (List Nat × Bool × State) := if recSucc r = 0 then .ok ([], true, s) else
    match s.taskRead a (recSucc r) 4 with
    | .error e => .error e
    | .ok (n, s) => if 255 < leNat n then .ok ([], false, s) else
      match s.taskRead a (recSucc r + 4) (4 * leNat n) with
      | .error e => .error e
      | .ok (bs, s) => .ok (wordsOf bs, true, s)
  match succ with
  | .error e => e.answer 1
  | .ok (succ, ok, s) =>
    let foot : Except EngErr (List (Nat × Nat) × Bool × State) := if recFoot r = 0 then .ok ([], true, s) else
      match s.taskRead a (recFoot r) 8 with
      | .error e => .error e
      | .ok (h, s) => if 64 < recNum h 0 4 || recNum h 4 4 != 0 then .ok ([], false, s) else
        match s.taskRead a (recFoot r + 8) (16 * recNum h 0 4) with
        | .error e => .error e
        | .ok (bs, s) => .ok ((List.range (recNum h 0 4)).map fun i => (recNum bs (16 * i) 8, recNum bs (16 * i + 8) 8), true, s)
    match foot with
    | .error e => e.answer 2
    | .ok (foot, ok2, s) =>
      if recPools r = 0 then (if ok && ok2 then .lists ⟨succ, foot, []⟩ s else .broken s) else
      match s.taskRead a (recPools r) 64 with
      | .error e => e.answer 3
      | .ok (bs, s) =>
        if ok && ok2 then .lists ⟨succ, foot, (List.range 16).map fun k => (recNum bs (4 * k) 2, recNum bs (4 * k + 2) 2)⟩ s
        else .broken s

/-! ### Placement (R336) -/

/-- The bytes that two intervals share. -/
def shared (a n b k : Nat) : Nat := min (a + n) (b + k) - max a b

/-- score(d). -/
def score (foot : List (Nat × Nat)) (map : List MapEntry) (d : Nat) : Nat :=
  (foot.map fun f => ((map.filter fun m => m.die == d).map fun m => shared f.1 f.2 m.vbase m.len).sum).sum

/-- The die of a task. -/
def placeTask (r : Bytes) (foot : List (Nat × Nat)) (map : List MapEntry) (here : Nat) : Nat :=
  match hintCore r, hintDie r with
  | some c, _ => dieOf c
  | none, some d => d
  | none, none =>
    let best := [1, 2, 3].foldl (fun b d => if score foot map b < score foot map d then d else b) 0
    if score foot map best = 0 then here else best

/-! ### Tasks (R332, R333, R337) -/

/-- A task handle. -/
def taskHandle (die slot gen : Nat) : Nat := gen * 2 ^ 27 + die * 2 ^ 12 + slot

def State.task (s : State) (die slot : Nat) : Task := tblGet Task.free (s.die die).tasks slot
def State.modTask (s : State) (die slot : Nat) (f : Task → Task) : State :=
  s.modDie die fun d => { d with tasks := tblSet d.tasks slot (f (tblGet Task.free d.tasks slot)) }

/-- The task that a handle names, when it is not stale. -/
def State.findTask (s : State) (die h : Nat) : Option (Nat × Task) :=
  let t := s.task die (bits h 11 0)
  if bit h 31 || bits h 26 14 != 0 || bits h 13 12 != die || bits h 30 27 != t.gen || t.st == .free then none
  else some (bits h 11 0, t)

/-- The slots that a graph's threads have (R309). -/
def State.graphSlots (s : State) (g : Nat) : Nat := (tblGet ⟨0, [], none, 0, 0, []⟩ s.graphs g).slots

/-- The threads of one part (R337). -/
def partCap (slots : Nat) : Nat := min 2048 (65536 / (slots + 4))

/-- How many parts a FABRIC task has. -/
def State.partCount (s : State) (r : Bytes) : Nat :=
  let cap := partCap (s.graphSlots (recGraph r))
  (recThreads r + cap - 1) / cap

/-- A decrement on its way to a task's home. -/
def State.sendDecrement (s : State) (d : Decrement) : State :=
  s.modDie (bits d.task 13 12) fun x => { x with decq := x.decq ++ [d] }

/-- The sender number of a die's own messages. -/
def dieSender (d : Nat) : Nat := 384 + d

/-- The die of a sender. -/
def senderDie (c : Nat) : Nat := if c < 384 then dieOf c else c - 384

/-- Whether an earlier message to a home keeps its place before another: one of the same sender, and one from the same other die
(R16, R345). -/
def keepsPlace (home a b : Nat) : Bool := a == b || (senderDie a == senderDie b && senderDie a != home)

/-- The core at which a sender's violation takes effect at once. -/
def senderCore (c : Nat) : Nat := if c < 384 then c else 96 * (c - 384)

/-- Completion at the home (R333): successors, CSYNC, and the slot. -/
def State.completeTask (s : State) (die slot : Nat) : State :=
  let t := s.task die slot
  let s := t.succ.foldl (fun s h => s.sendDecrement ⟨h, 1, none, dieSender die, 0⟩) s
  let k := recCsync t.record
  let s := s.arrive k (recSpace t.record) (dieSender die) noTid
  s.modTask die slot fun t => { Task.free with gen := (t.gen + 1) % 16 }

/-- A task becomes READY: its parts or its one job join the queue of its level on its die, and a SYNC task completes (R333, R338). -/
def State.makeReady (s : State) (die slot : Nat) : State :=
  let t := s.task die slot
  let r := t.record
  let h := taskHandle die slot t.gen
  if recKind r = 4 then s.completeTask die slot else
  let n := if recKind r = 0 then s.partCount r else 1
  let s := s.modTask die slot fun t => { t with st := .ready, left := n }
  let parts := (List.range n).map fun j => (⟨h, j, recSpace r, none, []⟩ : Ready)
  s.modDie t.runs fun d => { d with ready := tblSet d.ready (recPrio r) (tblGet [] d.ready (recPrio r) ++ parts) }

/-- The lowest free slot of a die's task table. -/
def State.freeSlot (s : State) (die : Nat) : Option Nat := (List.range 4096).find? fun i => (s.task die i).st == .free

/-- A task placed in a slot, WAITING. -/
def State.putTask (s : State) (die slot : Nat) (r : Bytes) (l : TaskLists) (map : List MapEntry) (runs : Nat) (priv : Bool)
    (session : Nat) : State :=
  s.modTask die slot fun t =>
    { t with st := .waiting, record := r, deps := recDeps r, succ := l.succ, pools := l.pools, map, runs, priv, session, left := 0 }

/-- READY at once when nothing is waited for. -/
def State.readyIfFree (s : State) (die slot : Nat) : State :=
  if (s.task die slot).deps = 0 then s.makeReady die slot else s

/-! ### SPAWN (R341) -/

/-- The map that a spawned task uses (R335), and the session it counts to. -/
def Core.partMap (c : Core) : List MapEntry := match c.part with
  | some p => p.map
  | none => []
def Core.partSession (c : Core) : Nat := match c.part with
  | some p => p.session
  | none => 0

/-- The actor of the firing's own reads. -/
def State.hereActor (s : State) (space : Nat) : Actor := { core := s.loc.core, die := dieOf s.loc.core, space, priv := s.herePriv }

/-- What a SPAWN does: it waits, faults with PRIV, or reports. -/
inductive SpawnPlan where
  | wait
  | priv
  | report (handle status : Nat) (s : State)

def spawnPlan (s : State) (o : Ops) : SpawnPlan :=
  let r := fourHeads o
  let die := dieOf s.loc.core
  if !s.herePriv && (recSpace r != s.hereSpace || 56 ≤ recPrio r) then .priv
  else if !recordOk r then .report 0 2 s
  else match s.readLists (s.hereActor (recSpace r)) r with
    | .busy => .wait
    | .broken s | .failed _ _ s => .report 0 2 s
    | .lists l t =>
      if l.succ.any fun h => bit h 31 then .report 0 2 t else
      match t.freeSlot die with
      | none => .report 0 1 t
      | some i =>
        let h := taskHandle die i (t.task die i).gen
        let map := s.here.partMap
        let t := t.putTask die i r l map (placeTask r l.foot map die) s.herePriv s.here.partSession
        .report h 0 (t.readyIfFree die i)

def readySpawn (s : State) (w : SlotWord) : Readiness :=
  let o := readOps s w 32
  if !headsOk o then .fire else
  match spawnPlan s o with
  | .wait => .wait
  | _ => .fire

/-- SPAWN. -/
def execSpawn (w : SlotWord) (s : State) : Host.Outcome State Fault Refusal :=
  let o := readOps s w 32
  if !headsOk o then .next (headTrap s o.tid) else
  match spawnPlan s o with
  | .wait => .next s
  | .priv => .next (slotFault s w 0x40 0)
  | .report h n t => .next ((fireWith t w 8 o { res := ofLanes 32 [h, n] }).setIrrev s.loc.core o.tid)

/-! ### TASKD, SYNCA and SYNCI (R342, R346) -/

/-- TASKD. -/
def execTaskd (w : SlotWord) (s : State) : Host.Outcome State Fault Refusal :=
  match residueFault s w with
  | some p => .next (residueTrap s w p)
  | none =>
    let o := readOps s w 32
    let d : Decrement :=
      ⟨lane o.a 32 0, lane o.b 32 0, if s.herePriv then none else some s.hereSpace, s.loc.core, o.tid⟩
    .next (((fireWith s w 8 o { res := 0 }).sendDecrement d).setIrrev s.loc.core o.tid)

/-- The home die and index of a sync id (R344). -/
def syncDie (k : Nat) : Nat := k / 16384 % 4
def syncIndex (k : Nat) : Nat := k % 16384

/-- SYNCA. -/
def execSynca (w : SlotWord) (s : State) : Host.Outcome State Fault Refusal :=
  match residueFault s w with
  | some p => .next (residueTrap s w p)
  | none =>
    let o := readOps s w 32
    .next (((fireHeads s w o { res := 0 }).arrive (bits w.imm.toNat 15 0) s.hereSpace s.loc.core o.tid).setIrrev s.loc.core o.tid)

/-- SYNCI. -/
def execSynci (w : SlotWord) (s : State) : Host.Outcome State Fault Refusal :=
  match residueFault s w with
  | some p => .next (residueTrap s w p)
  | none =>
    let o := readOps s w 32
    let k := bits w.imm.toNat 15 0
    let m : SyncMsg := .init (syncIndex k) (lane o.c 32 0) (lane o.c 32 1) (lane o.c 32 2 % 4096) s.herePriv s.hereSpace s.loc.core o.tid
    let s1 := (fireHeads s w o { res := 0 }).modDie (syncDie k) fun d => { d with syncq := d.syncq ++ [m] }
    .next (s1.setIrrev s.loc.core o.tid)

/-! ### Decrements and completion (R333, R342) -/

/-- TASK_DECREMENT: one on its way to a die, after the earlier ones of its sender and, from another die, of its die (R16). -/
def execTaskDecrement (die idx : Nat) (s : State) : Host.Outcome State Fault Refusal :=
  let d := s.die die
  match d.decq[idx]? with
  | none => .next s
  | some x =>
    if (d.decq.take idx).any fun y => keepsPlace die y.core x.core then .next s else
    let s := s.setDie die { d with decq := dropAt d.decq idx }
    let ignored := s.modDie die fun d => { d with tdErr := satAdd d.tdErr 1 32 }
    match s.findTask die x.task with
    | none => .next ignored
    | some (slot, t) =>
      if t.deps < x.n then .next ignored
      else if (match x.space with
        | some sp => sp != recSpace t.record
        | none => false) then .next (s.freezeSpace (senderCore x.core) (x.space.getD 0) 0x40)
      else
        let s := s.modTask die slot fun t => { t with deps := t.deps - x.n }
        .next (if t.st == .waiting then s.readyIfFree die slot else s)

/-- TASK_COMPLETE: every part or job of a task is complete. -/
def execTaskComplete (die slot : Nat) (s : State) : Host.Outcome State Fault Refusal :=
  let t := s.task die slot
  if (t.st == .running || t.st == .ready) && t.left == 0 then
    let h := taskHandle die slot t.gen
    -- a core held for the task is released (R371)
    let s := { s with cores := tblMap s.cores fun (_ : Nat) (c : Core) => if c.heldFor == some h then { c with heldFor := none } else c }
    .next (s.completeTask die slot)
  else .next s

/-! ### Sync entries (R344 to R346) -/

/-- A sync entry's fields. -/
structure SyncEntry where
  v       : Bool
  space   : Nat
  phase   : Nat
  tv      : Bool
  task    : Nat
  target  : Nat
  arrived : Nat
  deriving DecidableEq, Repr

def SyncEntry.ofBits (x : BitVec 128) : SyncEntry :=
  let n := x.toNat
  { v := bit n 127, space := bits n 123 112, phase := bits n 111 96, tv := bit n 95, task := bits n 91 64, target := bits n 63 32
    arrived := bits n 31 0 }

def SyncEntry.toBits (e : SyncEntry) : BitVec 128 :=
  .ofNat 128 (e.arrived + e.target * 2 ^ 32 + e.task * 2 ^ 64 + e.tv.toNat * 2 ^ 95 + e.phase * 2 ^ 96 + e.space * 2 ^ 112
    + e.v.toNat * 2 ^ 127)

/-- A task handle packed as GEN, die and slot, and unpacked. -/
def packTask (h : Nat) : Nat := bits h 30 27 * 2 ^ 14 + bits h 13 0
def unpackTask (x : Nat) : Nat := bits x 17 14 * 2 ^ 27 + bits x 13 0

/-- The physical address of a sync entry. -/
def State.syncAddr (s : State) (die index : Nat) : Nat := bits (s.die die).syncBase.toNat 47 18 * 2 ^ 18 + 16 * index

/-- A cached entry, and the cache with it used most recently. -/
def Die.syncEntry (d : Die) (index : Nat) : Option SyncEntry := (d.syncCache.find? fun e => e.1 == index).map fun e => SyncEntry.ofBits e.2
def Die.putSync (d : Die) (index : Nat) (e : SyncEntry) : Die :=
  { d with syncCache := (index, e.toBits) :: d.syncCache.filter fun x => x.1 != index }

/-- SYNC_CACHE_FILL: the walker fetches an entry that a message needs, and writes back the one used least recently. -/
def execSyncCacheFill (die index : Nat) (s : State) : Host.Outcome State Fault Refusal :=
  let d := s.die die
  if d.inReset then .next s else
  let wanted := d.syncq.any fun m => match m with
    | .arrive i _ _ _ | .init i _ _ _ _ _ _ _ | .gate i _ _ => i == index
  if !wanted || (d.syncEntry index).isSome then .next s else
  let pa := s.syncAddr die index
  let spill := if d.syncCache.length < 1024 then some (d.syncCache, s) else
    match d.syncCache.getLast? with
    | none => some (d.syncCache, s)
    | some e =>
      let a := s.syncAddr die e.1
      if s.quietSpan a 16 then some (d.syncCache.dropLast, s.cohWrite a (leBytes e.2.toNat 16)) else none
  match spill with
  | none => .next s
  | some (cache, s) => match s.devRead pa 16 with
    | .got bs s => .next (s.modDie die fun d =>
        { d with syncCache := (index, .ofNat 128 (leNat bs)) :: cache, syncMiss := satAdd d.syncMiss 1 32 })
    | _ => .next s

/-- The gates of one phase open, in every core that holds one (R345). -/
def State.openGates (s : State) (die index phase : Nat) : State :=
  let hit := fun (g : GateRec) => g.index == index && g.phase == phase
  let gs := (s.die die).gates.filter hit
  let s := s.modDie die fun d => { d with gates := d.gates.filter fun g => !hit g }
  gs.foldl (fun s g => s.modThread g.core g.tid fun th =>
    if th.st == .gated then { th with st := .waiting, gate := none, wakeAt := s.cycle + 1 } else { th with gate := none }) s

/-- A phase released (R345). -/
def State.releasePhase (s : State) (die index : Nat) (e : SyncEntry) : State :=
  let s := s.modDie die fun d => d.putSync index { e with phase := (e.phase + 1) % 65536, arrived := 0 }
  let s := s.openGates die index e.phase
  if e.tv then s.sendDecrement ⟨unpackTask e.task, 1, none, dieSender die, 0⟩ else s

/-- A sync message of a die, when it may be performed now: the die is not in reset (R396, R400), its entry is cached, and the earlier ones of its
sender and, from another die, of its die are done (R16). -/
def State.syncMsg (s : State) (die idx : Nat) : Option (SyncMsg × SyncEntry × State) :=
  let d := s.die die
  let key := fun (m : SyncMsg) => match m with
    | .arrive i _ c _ => (i, c)
    | .init i _ _ _ _ _ c _ => (i, c)
    | .gate i c _ => (i, c)
  match d.syncq[idx]? with
  | none => none
  | some m =>
    if d.inReset || (d.syncq.take idx).any fun x => keepsPlace die (key x).2 (key m).2 then none else
    match d.syncEntry (key m).1 with
    | none => none
    | some e => some (m, e, s.setDie die { d with syncq := dropAt d.syncq idx })

/-- SYNC_ARRIVAL. -/
def execSyncArrival (die idx : Nat) (s : State) : Host.Outcome State Fault Refusal :=
  match s.syncMsg die idx with
  | some (.arrive i sp core _, e, s) =>
    if !e.v || some e.space != sp then .next (s.freezeSpace (senderCore core) (sp.getD 0) 0x40)
    else if e.arrived + 1 = e.target then .next (s.releasePhase die i e)
    else .next (s.modDie die fun d => d.putSync i { e with arrived := (e.arrived + 1) % 2 ^ 32 })
  | _ => .next s

/-- SYNC_INIT. -/
def execSyncInit (die idx : Nat) (s : State) : Host.Outcome State Fault Refusal :=
  match s.syncMsg die idx with
  | some (.init i target task space priv own core _, e, s) =>
    if !priv && (!e.v || e.space != own || target == 0) then .next (s.freezeSpace core own 0x40)
    else
      let e := { e with target, arrived := 0, tv := bit task 31, task := packTask task, v := target != 0 }
      .next (s.modDie die fun d => d.putSync i (if priv then { e with space } else e))
  | _ => .next s

/-- GATE_REGISTRATION: a gate recorded on the phase that its entry now holds. -/
def execGateRegistration (die idx : Nat) (s : State) : Host.Outcome State Fault Refusal :=
  match s.syncMsg die idx with
  | some (.gate i core tid, e, s) =>
    let s := s.modDie die fun d => (d.putSync i e)
    let s := s.modDie die fun d => { d with gates := d.gates ++ [⟨i, e.phase, core, tid⟩] }
    .next (s.modThread core tid fun th =>
      { th with gate := th.gate.map fun g => { g with phase := e.phase, known := true } })
  | _ => .next s

/-! ### Boundary links (R349) -/

/-- The site of a boundary element. -/
def beSite (b : Nat) : Nat := if b = 0 then 7 else 248

/-- BOUNDARY_TOKEN_DELIVERY: the oldest token of a boundary buffer is delivered, or discarded. -/
def execBoundaryTokenDelivery (core be : Nat) (s : State) : Host.Outcome State Fault Refusal :=
  let c := s.core core
  let b := (c.site (beSite be)).bound
  let r := (if be = 0 then c.beRoute0 else c.beRoute1).toNat
  match bufFront s.cycle b with
  | none => .next s
  | some t =>
    let took := s.modSite core (beSite be) fun x => { x with bound := bufTake s.cycle x.bound }
    if !bit r 63 then .next (took.modCore core fun c => { c with beDrop := satAdd c.beDrop 1 16 })
    else
      let dst := bits r 8 0
      let dbe := bits r 9 9
      let d := s.core dst
      let dir := if dbe = 0 then 0 else 2
      let x := d.site (beSite dbe)
      match d.part, c.part with
      | some p, some q =>
        match (List.range 8).find? fun k => (d.ctx k).valid s.cycle && (d.ctx k).blk == ⟨p.graph, bits r 34 23⟩ with
        | none => .next s
        | some k =>
          if p.space != q.space || 2 ≤ bufUsed s.cycle (x.buf dir) || bufFresh s.cycle (x.buf dir) then .next s
          else .next (took.modSite dst (beSite dbe) fun x =>
            x.setBuf dir (bufPut s.cycle (x.buf dir) { t with ctx := k, tid := bits r 45 35 }))
      | _, _ => .next s

/-! ### The stagger unit (R350) -/

/-- LIMIT and CSTART as they act. -/
def Die.slewLimit (d : Die) : Nat := min 500 (max 1 d.limit)
def Die.slewStart (d : Die) : Nat := 1500 * max 1 d.cstart

/-- The credit in a cycle. -/
def Die.creditNow (d : Die) (now : Nat) : Nat := min (creditCap d.cstart) (d.credit + 256 * d.slewLimit * (now - d.creditAt))

/-- Which of two requests comes first. -/
def StartReq.before (a b : StartReq) : Bool :=
  decide (a.at_ < b.at_) || (a.at_ == b.at_ && (decide (a.core < b.core) || (a.core == b.core && (decide (a.site < b.site)
    || (a.site == b.site && (decide (a.ctx < b.ctx) || (a.ctx == b.ctx && decide (a.slot < b.slot))))))))

/-- Whether a grant can be made in a cycle. -/
def Die.startDue (d : Die) (now : Nat) : Bool := !d.starts.isEmpty && d.lastGrant != some now && decide (d.slewStart ≤ d.creditNow now)

end Sys2Proof.Machine
end

