-- ==== Sys2Proof/Machine/Image.lean ====
section
/-! DEFINITION. Configuration images: their layout (R60 to R63) and every check of the loader (R44, R52, R64 to R67, R183, R201,
R209, R251, R284, R285, R348). -/

namespace Sys2Proof.Machine

/-! ### Layout (R60 to R63, R392) -/

/-- A number in an image. -/
def imgNum (b : Bytes) (i k : Nat) : Nat := leNat ((b.drop i).take k)

/-- A site section. -/
structure Section where
  site  : Nat
  words : List SiteWord
  route : BitVec 64
  deriving DecidableEq, Repr

/-- A slot that holds an instruction, with its fields. -/
structure Placed where
  site : Nat
  slot : Nat
  i    : Instr
  w    : SlotWord
  deriving DecidableEq, Repr

/-- An image as its bytes say. -/
structure Image where
  block    : Nat
  graph    : Nat
  ii       : Nat
  flags    : Nat
  maxsafe  : Nat
  livein   : BitVec 32
  liveout  : BitVec 32
  commit   : Nat
  sites    : List Nat
  routes   : List Bytes
  descs    : List Bytes
  sections : List Section
  ends     : Nat
  nodes    : List NodeRef
  deriving DecidableEq, Repr

/-- A length rounded up to a multiple of 16. -/
def pad16 (n : Nat) : Nat := (n + 15) / 16 * 16

/-- The descriptors from an offset on; each says its own length. -/
def readDescs (b : Bytes) (n : Nat) : List Bytes × Nat :=
  match n with
  | 0 => ([], 0)
  | n + 1 =>
    let k := 16 + 4 * imgNum b 3 1
    let (r, m) := readDescs (b.drop k) n
    (b.take k :: r, k + m)

/-- A section from its 264 bytes. -/
def readSection (site : Nat) (b : Bytes) : Section :=
  { site, words := (List.range 16).map fun k => .ofNat 128 (imgNum b (16 * k) 16), route := .ofNat 64 (imgNum b 256 8) }

/-- The sections of the sites given, one after another. -/
def readSections (b : Bytes) (sites : List Nat) : List Section :=
  match sites with
  | [] => []
  | k :: r => readSection k (b.take 264) :: readSections (b.drop 264) r

/-- An image read. -/
def readImage (b : Bytes) : Image :=
  let nroute := imgNum b 0x16 1
  let nsafe := imgNum b 0x17 1
  let mask := imgNum b 0x18 32
  let sites := (List.range 256).filter fun k => bit mask k
  let at1 := 64 + pad16 (4 * nroute)
  let (descs, len) := readDescs (b.drop at1) nsafe
  let at2 := at1 + pad16 len
  let ends := at2 + 264 * sites.length
  let src := b.drop ends
  { block := imgNum b 4 2, graph := imgNum b 6 2, ii := imgNum b 8 1, flags := imgNum b 9 1, maxsafe := imgNum b 0xA 2 + 1
    livein := .ofNat 32 (imgNum b 0xC 4), liveout := .ofNat 32 (imgNum b 0x10 4), commit := imgNum b 0x14 2, sites
    routes := (List.range nroute).map fun i => (b.drop (64 + 4 * i)).take 4, descs
    sections := readSections (b.drop at2) sites, ends
    nodes := if imgNum b 9 1 / 4 % 2 = 0 then [] else
      (List.range (min (imgNum src 0 4) (src.length / 8))).map fun i =>
        let e := src.drop (4 + 8 * i)
        ⟨imgNum e 0 1, imgNum e 1 1, imgNum e 2 2, imgNum e 4 2⟩ }

def Image.priv (m : Image) : Bool := bit m.flags 0
def Image.stub (m : Image) : Bool := bit m.flags 1

/-- The route entries and the descriptors, by field. -/
def Image.entries (m : Image) : List RouteEntry :=
  m.routes.map fun e => ⟨imgNum e 0 1, bits (imgNum e 1 1) 7 6, bits (imgNum e 1 1) 5 4, bits (imgNum e 2 1) 4 0⟩
def Image.safes (m : Image) : List SafeDesc :=
  m.descs.map fun d =>
    { k := imgNum d 0 1, site := imgNum d 1 1, rin := bits (imgNum d 2 1) 1 0
      stub := if imgNum d 4 2 = 0xFFFF then none else some (imgNum d 4 2), lvmask := .ofNat 32 (imgNum d 8 4)
      items := (List.range (imgNum d 3 1)).map fun i => ⟨imgNum d (16 + 4 * i) 1, imgNum d (17 + 4 * i) 1, imgNum d (18 + 4 * i) 1⟩ }

/-- The routing word of a site; 0 for a site that the image does not use. -/
def Image.route (m : Image) (k : Nat) : BitVec 64 := match m.sections.find? fun x => x.site == k with
  | some x => x.route
  | none => 0

/-- The slots that hold instructions which decode. -/
def Image.slots (m : Image) : List Placed :=
  m.sections.flatMap fun x => x.words.zipIdx.filterMap fun p => match decodeWord p.1 with
    | .ok i => i.opcode.map fun o => ⟨x.site, p.2, i, o.2⟩
    | .error _ => none

/-- The slots that L counts (R309), as a mask. -/
def Image.named (m : Image) : BitVec 32 := m.safes.foldl (fun v d => v ||| d.lvmask) (m.livein ||| m.liveout)

/-! ### Checks 1 to 5 (R64) -/

/-- Check 1. -/
def Image.headerOk (m : Image) (b : Bytes) : Bool :=
  imgNum b 0 4 == 0x4B424D4C && decide (m.block < 4096) && decide (m.flags < 8) && decide (1 ≤ m.ii) && decide (m.commit ≤ 1024)

/-- Check 3. -/
def Image.digestOk (m : Image) (b : Bytes) : Bool :=
  decide (m.ends ≤ b.length)
    && (sha512 (putSlice (b.take m.ends) 0x38 (List.replicate 8 0))).take 8 == (b.drop 0x38).take 8

/-- One route entry of R62. -/
def routeEntryOk (sites : List Nat) (e : Bytes) : Bool :=
  let k := bits (imgNum e 1 1) 7 6
  bits (imgNum e 1 1) 3 0 == 0 && decide (k < 3) && bits (imgNum e 2 1) 7 5 == 0 && imgNum e 3 1 == 0
    && (k != 1 || imgNum e 2 1 == 0) && sites.contains (imgNum e 0 1)

/-- Whether a site holds CNT or CNT2. -/
def holdsCounter (ps : List Placed) (site : Nat) : Bool :=
  ps.any fun p => p.site == site && (match p.i with
    | .cnt _ | .cnt2 _ => true
    | _ => false)

/-- One item of R63. -/
def itemOk (sites : List Nat) (ps : List Placed) (e : Bytes) : Bool :=
  let site := imgNum e 1 1
  let n := imgNum e 2 1
  imgNum e 3 1 == 0 && (match imgNum e 0 1 with
    | 1 => sites.contains site && siteKind site == .pe && decide (n < 8)
    | 2 => sites.contains site && holdsCounter ps site && n == 0
    | 3 => site == 0 && decide (n < 192)
    | _ => false)

/-- One descriptor of R63. -/
def descOk (sites : List Nat) (ps : List Placed) (d : Bytes) : Bool :=
  decide (imgNum d 0 1 < 255) && sites.contains (imgNum d 1 1) && decide (imgNum d 2 1 < 4)
    && (decide (imgNum d 4 2 < 4096) || imgNum d 4 2 == 0xFFFF) && imgNum d 6 2 == 0 && imgNum d 12 4 == 0
    && (List.range (imgNum d 3 1)).all fun i => itemOk sites ps ((d.drop (16 + 4 * i)).take 4)

/-- Check 4. -/
def Image.tablesOk (m : Image) (ps : List Placed) : Bool :=
  (m.routes.all (routeEntryOk m.sites)) && (m.descs.all (descOk m.sites ps)) && decide ((m.safes.map (·.k)).Nodup)

/-- Check 5. -/
def Image.entriesOk (m : Image) : Bool :=
  let es := m.entries
  (m.sections.all fun x => (List.range 4).all fun n =>
    let k := (es.filter fun e => e.kind < 2 && e.site == x.site && e.ch == n).length
    if routeIn x.route n = 5 then k == 1 else k == 0)
  && (es.all fun e => match e.kind with
    | 0 => m.livein.getLsbD e.slot
    | 2 => m.liveout.getLsbD e.slot
    | _ => true)
  && (List.range 32).all fun k => !m.liveout.getLsbD k || es.any fun e => e.kind == 2 && e.slot == k

/-! ### Check 6 (R65 to R67, R201, R251) -/

/-- Whether an outward link of a site leads to another site, or to the boundary network. -/
def leads (k d : Nat) : Bool := isBoundary k d || (neighbour k d).isSome

/-- Whether the site that a link leads to takes it up (R67). -/
def Image.takenUp (m : Image) (k d : Nat) : Bool :=
  isBoundary k d || (match neighbour k d with
    | none => false
    | some t =>
      let r := m.route t
      let b := opposite d
      ((List.range 4).any fun n => routeIn r n == b + 1) || (List.range 4).any fun o => routeOut r o == b + 5)

/-- R66 and R67 for one routing word. -/
def Image.routeOk (m : Image) (k : Nat) (r : BitVec 64) : Bool :=
  let outs := List.range 4
  let ins := (outs.map (routeIn r)).filter fun n => 1 ≤ n && n ≤ 4
  bits r.toNat 53 48 == 0 && bits r.toNat 15 0 == 0
    && (outs.all fun d => decide (routeOut r d ≤ 8) && (routeOut r d == 0 || leads k d)
      && (decide (routeOut r d < 5) || leads k (routeOut r d - 5)))
    && (outs.all fun n => decide (routeIn r n ≤ 5)) && (ins.all fun n => leads k (n - 1)) && decide ins.Nodup
    && (outs.all fun d => decide (routeOut r d < 5) || !ins.contains (routeOut r d - 4))
    && routeFA r != 0 && (if routeFA r = 0xFF then routeFS r == 0 else
      (neighbour k (routeFS r)).isSome && routeOut r (routeFS r) == 0 && m.takenUp k (routeFS r))
    && outs.all fun d => routeOut r d == 0 || m.takenUp k d

/-- The elements that the MTCFG words of an image name. -/
def boundElements (ps : List Placed) : List Nat :=
  ps.filterMap fun p => match p.i with
    | .mtcfg w => some (w.imm.toNat % 16)
    | _ => none

/-- R251 for one word. -/
def wideOk (ps : List Placed) (p : Placed) : Bool :=
  let here := fun (f : Instr → Bool) (site : Nat) => ps.any fun q => q.site == site && f q.i
  let isTldw := fun (i : Instr) => match i with
    | .tldw _ => true
    | _ => false
  let isTstw := fun (i : Instr) => match i with
    | .tstw _ => true
    | _ => false
  let isCfg := fun (i : Instr) => match i with
    | .mtcfg _ => true
    | _ => false
  let mirror := meSite (meIndex p.site ^^^ 8)
  match p.i with
  | .mtcfg w => ps.all fun q => q.site != p.site || (match q.i with
      | .mtcfg v => v.imm == w.imm
      | _ => true)
  | .mma _ | .mmaz _ => here isCfg p.site
  | .tldw _ => (boundElements ps).contains (meIndex p.site) || here isTstw mirror
  | .tstw _ => !(boundElements ps).contains (meIndex mirror) && here isTldw mirror
  | _ => true

/-- The inputs that a slot guards, reads or dequeues; SXPK reads the heads of all four (R241). -/
def inputsTouched (i : Instr) (w : SlotWord) : List Nat :=
  match i with
  | .sxpk _ => [0, 1, 2, 3]
  | _ => [0, 1, 2, 3].filter fun n => guardAt w n != .off || w.deq n || w.reads n

/-- One site word: the checks of R65, and those that need the rest of the image. -/
def Image.wordOk (m : Image) (ps : List Placed) (es : List RouteEntry) (site slot : Nat) (x : SiteWord) : Bool :=
  x == 0 || (match decodeWord x with
    | .error _ => false
    | .ok i => match i.opcode with
      | none => false
      | some (_, w) =>
        let r := m.route site
        i.wfAt site m.priv && ((inputsTouched i w).all fun n => routeIn r n != 0)
          && ((List.range 4).all fun j => !w.om.getLsbD j || ((List.range 4).any fun d => routeOut r d == j + 1)
            || es.any fun e => e.kind == 2 && e.site == site && e.ch == j)
          && (match i with
            | .safe w | .trap w => m.safes.any fun d => d.k == w.imm.toNat % 256
            | .joink w => ps.all fun q => q.site != site || (match q.i with
                | .joink v => v.imm == w.imm
                | _ => true)
            | _ => true)
          && wideOk ps ⟨site, slot, i, w⟩)

/-- Check 6: the first word that fails, as its site and slot; 16 stands for the routing word. -/
def Image.badWord (m : Image) (ps : List Placed) : Option (Nat × Nat) :=
  let es := m.entries
  m.sections.findSome? fun x =>
    match findIdx x.words fun w => !(m.wordOk ps es x.site 0 w) with
    | some (k, _) => some (x.site, k)
    | none => if m.routeOk x.site x.route then none else some (x.site, 16)

/-! ### The token graph (R209, R284) -/

/-- An input that a token reaches: site 256 is the boundary network; `via` names the sites it passes through, each with the side
it enters by. -/
structure Hop where
  site  : Nat
  input : Nat
  via   : List (Nat × Nat)
  deriving DecidableEq, Repr

/-- How a path is followed: by the routes alone, or as a token of a tag goes whose kind FA looks at (R59), the tag being known or not. -/
inductive Follow where
  | routes
  | tagged (t : Option Fmt)
  deriving DecidableEq, Repr

/-- Whether the inputs of a site with a routing word may take a token that is followed. -/
def Follow.taken (f : Follow) (r : BitVec 64) : Bool :=
  match f with
  | .routes | .tagged none => true
  | .tagged (some t) => bit (routeFA r) t.code

/-- Whether such a site may steer it away. -/
def Follow.steered (f : Follow) (r : BitVec 64) : Bool :=
  match f with
  | .routes => false
  | .tagged none => routeFA r != 0xFF
  | .tagged (some t) => !bit (routeFA r) t.code

/-- Where tokens go that enter a site by a side: to the inputs that side feeds, through the outputs that pass it on and by the steered
link (R57 to R59); `on` follows an outward link. -/
def Image.entering (m : Image) (f : Follow) (t b : Nat) (via : List (Nat × Nat)) (on : Nat → List (Nat × Nat) → List Hop) :
    List Hop :=
  let r := m.route t
  let ins := (List.range 4).filter fun n => routeIn r n == b + 1
  let outs := (List.range 4).filter fun o => routeOut r o == b + 5
  let via' := (t, b) :: via
  (if f.taken r then ins.map fun n => (⟨t, n, via⟩ : Hop) else []) ++ (outs.flatMap fun o => on o via')
    ++ (if f.steered r && !ins.isEmpty then on (routeFS r) via' else [])

/-- Where the tokens of an outward link arrive. A token that comes to a side it has passed has been followed already. `fuel` bounds the
hops: there are four sides of 256 sites. -/
def Image.linkTo (m : Image) (steer : Follow) (k d : Nat) (via : List (Nat × Nat)) (fuel : Nat) : List Hop :=
  match fuel with
  | 0 => []
  | fuel + 1 =>
    if isBoundary k d then [⟨256, 0, via⟩] else
    match neighbour k d with
    | none => []
    | some t =>
      if via.contains (t, opposite d) then [] else
      m.entering steer t (opposite d) via fun o v => m.linkTo steer t o v fuel

/-- The hops that a path between two slots has at most. -/
def hopBound : Nat := 4 * 256 + 1

/-- Where the tokens of a slot's outputs arrive. -/
def Image.outTo (m : Image) (f : Follow) (k : Nat) (om : BitVec 4) : List Hop :=
  (linksOf (m.route k) om).flatMap fun d => m.linkTo f k d [] hopBound

/-- Whether an access answers with a value and an ord token (R135). -/
def givesValue (i : Instr) : Bool :=
  match i with
  | .ld _ | .ldt _ | .lda _ | .aadd _ | .amin _ | .amax _ | .aand _ | .aor _ | .axor _ | .axchg _ | .acas _ | .afadd _ => true
  | _ => false

/-- The kinds of token that a slot emits; a packed block is an scl token and then its dat token (R241, R265), and what reports a status,
a range or a context emits a dat token whatever OK is (R103, R111, R325, R377). -/
def kindsOf (i : Instr) (w : SlotWord) : List Kind :=
  match i with
  | .cnt _ => [.dat, .eok]
  | .cnt2 _ => [.dat, .eor, .eok]
  | .sxpk w => [.scl, w.ok]
  | .acccv w => if isSx w.fmt then [.scl, w.ok] else [w.ok]
  | .rsplit _ | .rmerge _ | .rinv _ | .rdisc _ | .rmove _ | .rprobe _ | .rwin _ | .cfgld _ | .freeze _ | .thaw _ => [.dat]
  | _ => if givesValue i then [w.ok, .ord] else [w.ok]

/-- The tag of the tokens that a slot emits; none where it is the tag of a head. -/
def tagOf (i : Instr) : Option Fmt :=
  match i with
  | .tagf _ => none
  | .mov w | .movi w | .sel w | .selk w | .emit w | .lane w | .shuf w | .fadd w | .fsub w | .fmul w | .fma w | .fnma w | .fms w | .fmin w
  | .fmax w | .fabs w | .fneg w | .fscale w | .frnd w | .frcp w | .frsq w | .fsqrt w | .fdiv w | .fexp2 w | .flog2 w | .fsum w | .fmaxa w
  | .cvt w | .itof w | .sxpk w | .tld w | .tpln w | .ld w | .ldt w | .acccv w => some w.fmt
  | .fdot _ | .sxup _ | .accrd _ | .accrdn _ => some .f32
  | _ => some .raw

/-- How the tokens of a kind that a slot emits are followed: FA looks at dat and scl tokens only (R59). -/
def followOf (i : Instr) (k : Kind) : Follow := if k = .dat ∨ k = .scl then .tagged (tagOf i) else .routes

/-- Whether a slot takes a token of a kind at an input. -/
def takes (i : Instr) (w : SlotWord) (n : Nat) (k : Kind) : Bool :=
  (inputsTouched i w).contains n && (match guardAt w n with
    | .kind x => x == k
    | _ => true)

/-- Whether it reads or dequeues it. -/
def consumes (i : Instr) (w : SlotWord) (n : Nat) (k : Kind) : Bool :=
  takes i w n k && (w.deq n || w.reads n || (match i with
    | .sxpk _ => true
    | _ => false))

/-! ### Check 7 (R44, R183, R209) -/

def isExit (i : Instr) : Bool :=
  match i with
  | .exit _ | .exit2 _ | .exits _ | .done _ | .eret _ => true
  | _ => false

/-- Whether an ord token emitted by a slot leads to a guard of an exit; `seen` are the slots already followed. -/
def Image.ordLeads (m : Image) (ps : List Placed) (work seen : List Placed) (fuel : Nat) : Bool :=
  match fuel, work with
  | 0, _ | _, [] => false
  | fuel + 1, p :: rest =>
    let hit := ps.filter fun q => (m.outTo .routes p.site p.w.om).any fun h =>
      h.site == q.site && guardAt q.w h.input != .off && takes q.i q.w h.input .ord
        || (h.site == q.site && !isExit q.i && takes q.i q.w h.input .ord)
    if hit.any fun q => isExit q.i then true else
    let next := hit.filter fun q => !seen.contains q && (kindsOf q.i q.w).contains .ord && q.w.om != 0
    m.ordLeads ps (rest ++ next) (seen ++ next) fuel

/-- R44: every ord output of a memory element leads to the guard of an exit. A slot that the path comes to is followed by all its outputs,
the one where it began among them. -/
def Image.ordOk (m : Image) (ps : List Placed) : Bool :=
  ps.all fun p => siteKind p.site != .me || !(kindsOf p.i p.w).contains .ord
    || (List.range 4).all fun j => !p.w.om.getLsbD j ||
      m.ordLeads ps [{ p with w := { p.w with om := 1#4 <<< j } }] [] (ps.length + 2)

/-- The slots of R183. -/
def waitsOnTile (i : Instr) : Bool :=
  match i with
  | .alloc _ | .acca _ | .seal _ | .release _ | .retain _ | .tld _ | .tst _ | .tldw _ | .tstw _ | .tzero _ | .tinfo _ | .tpln _
  | .mma _ | .mmaz _ => true
  | _ => false

/-- A slot whose outputs are origins of their own (R209). -/
def isOrigin (i : Instr) : Bool := i.latency == .var || waitsOnTile i

/-- A slot that emits at one token a cycle. -/
def atRateOne (i : Instr) : Bool :=
  match i with
  | .cnt _ | .cnt2 _ | .emit _ => true
  | _ => false

/-- A path's end: the input, the kind, the arrival time, and whether it has passed a source at rate 1. -/
structure Arrival where
  site  : Nat
  input : Nat
  kind  : Kind
  time  : Nat
  fast  : Bool
  deriving DecidableEq, Repr

/-- The kinds of token. -/
def allKinds : List Kind := [.dat, .scl, .eor, .eok, .bnd, .ord]

/-- The sites of a hop: where it arrives and those it passes through. -/
def Hop.sites (h : Hop) : List Nat := h.site :: h.via.map (·.1)

/-- Every arrival on the paths from the arrivals given; a path is cut at a site it has already passed. -/
def Image.arrivals (m : Image) (ps : List Placed) (passed : List Nat) (a : Arrival) (fuel : Nat) : List Arrival :=
  match fuel with
  | 0 => []
  | fuel + 1 =>
    a :: (ps.filter fun p => p.site == a.site && takes p.i p.w a.input a.kind && p.w.om != 0 && !isOrigin p.i).flatMap fun p =>
      match p.i.latency with
      | .num n => (kindsOf p.i p.w).flatMap fun k => (m.outTo .routes p.site p.w.om).flatMap fun h =>
          if h.site = 256 || !(h.sites ++ a.site :: passed).Nodup then [] else
          m.arrivals ps (a.site :: h.via.map (·.1) ++ passed) ⟨h.site, h.input, k, a.time + n + h.via.length + 1, a.fast || atRateOne p.i⟩ fuel
      | _ => []

/-- The arrivals on the paths that begin with hops of one kind of token, from a site already passed or from none. -/
def Image.follow (m : Image) (ps : List Placed) (passed : List Nat) (hops : List Hop) (k : Kind) (extra : Nat) : List Arrival :=
  hops.flatMap fun h =>
    if h.site = 256 || !(h.sites ++ passed).Nodup then [] else
    m.arrivals ps (h.via.map (·.1) ++ passed) ⟨h.site, h.input, k, h.via.length + extra, false⟩ 256

/-- The incoming boundary links of an image, each by its site and side; each is an origin (R349). -/
def Image.boundaryIns (m : Image) : List (Nat × Nat) :=
  m.sections.flatMap fun x => ((List.range 4).filter fun d => isBoundary x.site d).map fun d => (x.site, d)

/-- The arrivals from each origin. The entry inputs that one injected token feeds, those of one live-value slot or of the entry
ord, are one origin: the arms of idiom 2 are compared with each other. -/
def Image.origins (m : Image) (ps : List Placed) : List (List Arrival) :=
  let entry := m.entries.filter fun e => e.kind < 2
  let groups := (entry.map fun e => (e.kind, e.slot)).eraseDups
  (groups.map fun g => (entry.filter fun e => (e.kind, e.slot) == g).flatMap fun e =>
      m.arrivals ps [] ⟨e.site, e.ch, if e.kind = 0 then .dat else .ord, 0, false⟩ 256)
    ++ ((ps.filter fun p => isOrigin p.i && p.w.om != 0).map fun p =>
      (kindsOf p.i p.w).flatMap fun k => m.follow ps [p.site] (m.outTo .routes p.site p.w.om) k 1)
    ++ m.boundaryIns.map fun e =>
      allKinds.flatMap fun k => m.follow ps [] (m.entering .routes e.1 e.2 [] fun o v => m.linkTo .routes e.1 o v hopBound) k 0

/-- R209. -/
def Image.balanced (m : Image) (ps : List Placed) : Bool :=
  (m.origins ps).all fun arr => ps.all fun p =>
    let ns := inputsTouched p.i p.w
    ns.length < 2 ||
      let mine := arr.filter fun a => a.site == p.site && takes p.i p.w a.input a.kind
      mine.all fun a => mine.all fun b => a.input == b.input ||
        decide (a.time - b.time ≤ 2 * (if a.fast || b.fast then 1 else m.ii))

/-- Check 7. -/
def Image.checkSeven (m : Image) (ps : List Placed) : Bool := m.ordOk ps && (ps.any fun p => isExit p.i) && m.balanced ps

/-! ### Check 8 (R52, R284, R285) -/

/-- The accesses at which a path of the scope check starts. -/
def isAccess (i : Instr) : Bool :=
  match i with
  | .st _ | .stt _ | .stl _ | .pref _ | .fence _ | .red _ | .flush _ | .invl _ => true
  | _ => givesValue i

/-- The scope to which a slot widens a path; 0 for a slot that does not. The scope of LDA takes part in the check as R148 says;
the lists of R52 and R285 do not name it (DEDUCED, log 54). -/
def widens (i : Instr) (w : SlotWord) : Nat :=
  match i with
  | .fence _ | .stl _ | .lda _ | .red _ | .aadd _ | .amin _ | .amax _ | .aand _ | .aor _ | .axor _ | .axchg _ | .acas _ | .afadd _ => w.scopeCode
  | _ => 0

/-- The scope that a slot demands as the end of a path. -/
def demands (p : Placed) : Option Nat :=
  if siteKind p.site == .be then some 3 else
  match p.i with
  | .synca w | .synci w | .xcol w => some w.scopeCode
  | _ => none

/-- The other slots at which a path ends, unchecked (R284). -/
def endsPath (i : Instr) : Bool :=
  match i with
  | .copy _ | .gath _ | .scat _ | .engq _ | .spawn _ | .taskd _ => true
  | _ => false

/-- Follow paths from slots, each with the widest scope passed so far, up to where R284 ends them: whether none ends too narrow. -/
def Image.scopeWalk (m : Image) (ps : List Placed) (work seen : List (Placed × Nat)) (fuel : Nat) : Bool :=
  match fuel, work with
  | 0, _ | _, [] => true
  | fuel + 1, (p, n) :: rest =>
    let hops := (kindsOf p.i p.w).flatMap fun k => (m.outTo (followOf p.i k) p.site p.w.om).map fun h => (k, h)
    if (hops.any fun h => h.2.site == 256) && decide (n < 3) then false else
    let hit := ps.filter fun q => hops.any fun h => h.2.site == q.site && consumes q.i q.w h.2.input h.1
    if hit.any fun q => match demands q with
      | some d => decide (n < d)
      | none => false
    then false else
    let onward := hit.filter fun q => (demands q).isNone && !endsPath q.i
    let next := (onward.map fun q => (q, max n (widens q.i q.w))).filter fun x => x.1.w.om != 0 && !seen.contains x
    m.scopeWalk ps (rest ++ next) (seen ++ next) fuel

/-- Check 8. -/
def Image.scopesOk (m : Image) (ps : List Placed) : Bool :=
  let start := (ps.filter fun p => isAccess p.i && p.w.om != 0).map fun p => (p, widens p.i p.w)
  m.scopeWalk ps start start (5 * ps.length + 1)

/-! ### Validation (R64) -/

/-- The refusal of an image: its code, site and slot (16 for the routing word). -/
structure Refused where
  code : Nat
  site : Nat
  slot : Nat
  deriving DecidableEq, Repr

/-- The checks of R64 in their order. -/
def validate (b : Bytes) (graph block : Nat) : Except Refused Image :=
  let m := readImage b
  let bad := fun (c : Nat) => (.error ⟨c, 0, 0⟩ : Except Refused Image)
  if !m.headerOk b then bad 2
  else if m.block != block || m.graph != graph then bad 2
  else if !m.digestOk b then bad 2
  else
    let ps := m.slots
    if !m.tablesOk ps || !m.entriesOk then bad 2
    else match m.badWord ps with
      | some (site, slot) => .error ⟨1, site, slot⟩
      | none =>
        if !m.checkSeven ps then bad 3
        else if !m.scopesOk ps then bad 4 else .ok m

/-! ### Reading an image (R85, R306) -/

/-- What reading an image answers: not yet, no image or a stream error, or its bytes. -/
inductive ImageRead where
  | busy
  | none (s : State)
  | got (b : Bytes) (s : State)

/-- An image read through its graph's directory. -/
def State.imageBytes (s : State) (dir block : Nat) : ImageRead :=
  match s.devRead (dir + 8 * block) 8 with
  | .busy => .busy
  | .bad _ _ => .none s
  | .got e s =>
    let x := leNat e
    if !bit x 0 || bits x 5 1 != 0 || bits x 63 48 == 0 then .none s else
    match s.devRead (bits x 47 6 * 64) (64 * bits x 63 48) with
    | .busy => .busy
    | .bad _ _ => .none s
    | .got b s => .got b s

end Sys2Proof.Machine
end

