-- ==== Sys2Proof/Machine/Admit.lean ====
section
/-! DEFINITION. What admission reads of a graph: its measurement (R306, R386), its live-slot count (R309), and what the pool checks of
a launch need (R177). -/

namespace Sys2Proof.Machine

/-- What reading a graph's images answers: not yet, a read that fails or an entry that names no image, or the images by block id. -/
inductive GraphRead where
  | busy
  | bad
  | got (blocks : List (Nat × Bytes)) (s : State)

/-- The images that a directory's entries name, in ascending block id. -/
def State.readImages (s : State) (dir : Bytes) (blocks : List Nat) (acc : List (Nat × Bytes)) : GraphRead :=
  match blocks with
  | [] => .got acc s
  | b :: r =>
    let x := imgNum dir (8 * b) 8
    if !bit x 0 then s.readImages dir r acc
    else if bits x 5 1 != 0 || bits x 63 48 == 0 then .bad
    else match s.devRead (bits x 47 6 * 64) (64 * bits x 63 48) with
      | .busy => .busy
      | .bad _ _ => .bad
      | .got m s => s.readImages dir r (acc ++ [(b, m)])

/-- A graph's images, through its directory. -/
def State.readGraphImages (s : State) (dir : Nat) : GraphRead :=
  match s.devRead dir 32768 with
  | .busy => .busy
  | .bad _ _ => .bad
  | .got d s => s.readImages d (List.range 4096) []

/-- The measurement of a graph (R386). -/
def measure (g : Nat) (blocks : List (Nat × Bytes)) : Bytes :=
  sha512 (leBytes g 2 ++ blocks.flatMap fun b => leBytes b.1 2 ++ sha512 b.2)

/-- The ALLOC slots of an image: the pool each names, and its literal size (R177). -/
def Image.allocs (m : Image) : List (Nat × Option Nat) :=
  m.slots.filterMap fun p => match p.i with
    | .alloc w => some (bits w.imm.toNat 3 0, if w.sb == .lit then some (bits w.imm.toNat 19 4) else none)
    | _ => none

/-- L of a graph (R309), from the slots its images name. -/
def liveCount (named : BitVec 32) : Nat :=
  match (List.range 32).reverse.find? fun k => named.getLsbD k with
  | some k => k + 1
  | none => 0

/-- A graph as it is admitted. -/
def graphOf (g dir : Nat) (space : Option Nat) (blocks : List (Nat × Bytes)) : Graph :=
  let ms := blocks.map fun b => readImage b.2
  { dir, measure := measure g blocks, space, slots := liveCount (ms.foldl (fun v m => v ||| m.named) 0)
    cmax := ms.foldl (fun n m => max n m.commit) 0, allocs := ms.flatMap Image.allocs }

/-- The checks that a launch's pools meet against the ALLOC slots of its graph (R177). -/
def poolsOk (g : Graph) (pools : List (Nat × Nat)) : Bool :=
  let p := fun (k : Nat) => pools.getD k (0, 0)
  let need := fun (k : Nat) => ((g.allocs.filter fun a => a.1 == k).map fun a => a.2.getD (p k).2).sum
  decide (((List.range 15).map fun k => (p k).1).sum + g.cmax + 8 ≤ 32768) && p 15 == (0, 0)
    && ((List.range 15).all fun k => decide ((p k).2 ≤ (p k).1) && decide (need k ≤ (p k).1))
    && g.allocs.all fun a => (p a.1).1 != 0

end Sys2Proof.Machine
end

