-- ==== Sys2Proof/Machine/Exits.lean ====
section
/-! DEFINITION. Live-outs, the exits, SAFE, TRAP and ERET (R47, R318 to R320, R367, R368, R370). -/

namespace Sys2Proof.Machine

/-! ### Live-outs (R318) -/

/-- A live-out staged in a thread's commit area: merged into the last entry for its slot that no safe point has marked. -/
def stageInto (area : List AreaEntry) (e : AreaEntry) : List AreaEntry :=
  match area.reverse.find? fun x => x.oper == 8 && x.pwa == e.pwa with
  | some x => if x.sent then area ++ [e] else area.map fun y => if y.id == x.id then { y with scope := e.scope, data := e.data } else y
  | none => area ++ [e]

/-- A token emitted on a live-out route. -/
def Core.stage (c : Core) (k : Nat) (t : Token) : Core :=
  let e : AreaEntry :=
    { oper := 8, scope := t.tag.code, signed := false, sent := false, mask := 0xFFFF, pwa := k, data := t.val.bits, id := c.nextId, node := 0xFFFF
      held := false, go := false, vas := [] }
  { c.modThread t.tid (fun th => { th with area := stageInto th.area e }) with nextId := c.nextId + 1 }

/-- The live-value slots L of the core's task (R309). -/
def Core.liveSlots (c : Core) : Nat :=
  match c.part with
  | some p => p.slots
  | none => 0

/-- Staged live-outs written into the thread's slots in area order, and gone from the area; a handler writes only the slots
below min(L, 28) (R323). -/
def Core.writeStaged (c : Core) (t : Nat) : Core :=
  let n := c.liveSlots
  c.modThread t fun th =>
    let bound := if th.handler then min n 28 else n
    let slots := th.area.foldl (fun (ss : Tbl Slot) e =>
      if e.oper == 8 && decide (e.pwa < bound) then tblSet ss e.pwa ⟨mkVal e.data, Fmt.ofCode e.scope⟩ else ss) th.slots
    { th with slots, area := th.area.filter fun e => e.oper != 8 }

/-- Staged live-outs discarded (R320, DONE). -/
def Core.dropStaged (c : Core) (t : Nat) : Core :=
  c.modThread t fun th => { th with area := th.area.filter fun e => e.oper != 8 }

/-! ### Exits (R319, R320) -/

/-- Whether a thread holds an accumulator bank (R262). -/
def Core.holdsBanks (c : Core) (t : Nat) : Bool := c.banks.any fun b => b.2.holder == some t

/-- Whether every live-out slot of the block has been written in this pass (R47). -/
def Core.liveoutsWritten (c : Core) (x t : Nat) : Bool :=
  let lo := (c.ctx x).liveout
  (List.range 32).all fun k => !lo.getLsbD k || (c.thread t).area.any fun e => e.oper == 8 && e.pwa == k

/-- The readiness of EXIT, EXIT2 and EXITS. -/
def readyExit (s : State) (w : SlotWord) : Readiness :=
  if s.here.liveoutsWritten s.loc.ctx (sourceTid s w) then .fire else .wait

/-- The tokens that an exit leaves behind squashed and counted in SELSTRAY (R320). -/
def Core.squashStray (c : Core) (t x : Nat) : Core :=
  let n := (c.sites.map fun p => p.2.tokensOf t (· == x)).sum + (c.wide.filter fun b => b.beat.tid == t && b.beat.ctx == x).length
  { c.squashExit t x with selStray := satAdd c.selStray n 16 }

/-- What an exit does at the end of its firing cycle (R320): the staged live-outs, the squash and the commit, and for an EXITS its gate's
registration, behind every earlier arrival of the thread (R345). A thread that has faulted since does none of it. -/
def State.endExit (s : State) (core t ctx : Nat) (done : Bool) (gate : Option Nat) : State :=
  if ((s.core core).thread t).exiting.isNone then s else
  let s := s.modCore core fun c => (if done then c.dropStaged t else c.writeStaged t).squashStray t ctx
  let s := (s.dropWaits core t false).commit core t
  match gate with
  | none => s
  | some k =>
    (s.modThread core t fun th => { th with gate := some ⟨k, 0, false⟩ }).modDie (k / 16384 % 4) fun d =>
      { d with syncq := d.syncq ++ [.gate (k % 16384) core t] }

/-- An exit's effect at its firing (R320); the rest of it follows at the end of the cycle, and its completion when its commit is
complete. -/
def fireExit (s : State) (w : SlotWord) (done : Bool) (act : Ops → ExitAct) : State :=
  match residueFault s w with
  | some p => residueTrap s w p
  | none =>
    let o := readOps s w 32
    let t := o.tid
    if s.here.holdsBanks t then slotFault s w 0x24 0 else
    let act := if !done && (s.here.thread t).rstep == .stub then .stubEnd else act o
    let gate := match act with
      | .gated _ k _ => some k
      | _ => none
    (fireHeads s w o { res := 0 }).modHere fun c =>
      { c.modThread t (fun th => { th with exiting := some (act, s.cycle) }) with endq := c.endq ++ [.exit t s.loc.ctx done gate] }

/-- EXIT. -/
def execExit (w : SlotWord) (s : State) : Host.Outcome State Fault Refusal :=
  .next (fireExit s w false fun _ => .next (bits w.imm.toNat 11 0))

/-- EXIT2. -/
def execExit2 (w : SlotWord) (s : State) : Host.Outcome State Fault Refusal :=
  .next (fireExit s w false fun o => .next (if lane o.a 32 0 = 0 then bits w.imm.toNat 23 12 else bits w.imm.toNat 11 0))

/-- EXITS. The sync id 0xFFFF is none (R344): the thread then waits behind no gate (log 143). -/
def execExits (w : SlotWord) (s : State) : Host.Outcome State Fault Refusal :=
  .next (fireExit s w false fun _ =>
    if bits w.imm.toNat 27 12 = 0xFFFF then .next (bits w.imm.toNat 11 0) else .gated (bits w.imm.toNat 11 0) (bits w.imm.toNat 27 12) 0)

/-- DONE. -/
def execDone (w : SlotWord) (s : State) : Host.Outcome State Fault Refusal :=
  .next (fireExit s w true fun _ => .done)

/-! ### SAFE and TRAP (R367 to R369) -/

/-- Whether the core's threads are to park at their next safe point (R372, R375). -/
def Core.wantsPark (c : Core) : Bool :=
  c.preempt.isSome || (match c.part with
    | some p => c.frozen.contains p.space
    | none => false)

/-- Whether a thread takes a pending TIMER (R360, R369). -/
def Core.takesTimer (c : Core) (t : Nat) : Bool :=
  c.tmrPend && (c.handlerOf 0x34).isSome && !(c.thread t).handler

/-- safe(h, k) of R367: the commit, the resume point, and whether the thread parks. -/
def safePass (s : State) (w : SlotWord) (t : Nat) : State × Bool :=
  let s := s.commitSafe s.loc.core t
  let s := match (s.here.ctx s.loc.ctx).safe (bits w.imm.toNat 7 0) with
    | some d => s.passSafe t d (slotOf (match w.sa with
      | .i n => s.here.head s.cycle s.loc.site s.loc.ctx n.val
      | _ => none))
    | none => s
  if s.here.wantsPark then
    ((s.modHereSite fun x => x.mark s.cycle s.loc.ctx s.loc.slot).modHere fun c => c.modThread t fun th =>
      { th with parkAt := some s.cycle, parkHead := (match w.sa with
        | .i n => some (s.loc.site, s.loc.ctx, n.val)
        | _ => none) }, true)
  else (s, false)

/-- Whether a slot whose firing is a safe point fires: once its commit of scope .thr can be complete, so that a later fault discards nothing
that was committed before it (R141, R142; log 121). Until then it begins the commit, and waits. -/
def readyCommit (s : State) (w : SlotWord) : Readiness :=
  let t := sourceTid s w
  if (residueFault s w).isSome || !s.commitWaits s.loc.core t then .fire
  else if (s.here.thread t).lettingGo then .wait else .ask

/-- SAFE. -/
def execSafe (w : SlotWord) (s : State) : Host.Outcome State Fault Refusal :=
  match residueFault s w with
  | some p => .next (residueTrap s w p)
  | none =>
    let o := readOps s w 32
    if s.commitWaits s.loc.core o.tid then .next (s.commit s.loc.core o.tid) else
    let (s1, parked) := safePass s w o.tid
    if parked then .next s1
    else if s1.here.takesTimer o.tid then
      .next ((s1.modHere fun c => { c with tmrPend := false }).faultHere o.tid (s1.recHere 0x34))
    else .next (fireHeads s1 w o { res := 0 })

/-- TRAP: safe(h, k), and then, unless the thread is to park, the TRAP fault. -/
def execTrap (w : SlotWord) (s : State) : Host.Outcome State Fault Refusal :=
  match residueFault s w with
  | some p => .next (residueTrap s w p)
  | none =>
    let o := readOps s w 32
    if s.commitWaits s.loc.core o.tid then .next (s.commit s.loc.core o.tid) else
    let (s1, parked) := safePass s w o.tid
    if parked then .next s1
    else .next ((fireHeads s1 w o { res := 0 }).faultHere o.tid
      { s1.recHere 0x33 with num := bits w.imm.toNat 15 8, data := o.a })

/-! ### ERET (R370) -/

/-- The job of an activation restarted wherever its die holds it. -/
def State.restartJob (s : State) (die : Nat) (seq : Nat) : State :=
  s.modDie die fun d => { d with jobs := d.jobs.map fun j => if j.seq == seq then j.restart else j }

/-- Whether ERET fires: as another safe point does, and once nothing of the thread is still to enter its area. -/
def readyEret (s : State) (w : SlotWord) : Readiness :=
  match readyCommit s w with
  | .fire => if s.here.entersLater (sourceTid s w) then .wait else .fire
  | r => r

/-- ERET. -/
def execEret (w : SlotWord) (s : State) : Host.Outcome State Fault Refusal :=
  match residueFault s w with
  | some p => .next (residueTrap s w p)
  | none =>
    let o := readOps s w 32
    let t := o.tid
    let th := s.here.thread t
    if !th.handler then .next (slotFault s w 0x40 0) else
    if s.commitWaits s.loc.core t then .next (s.commit s.loc.core t) else
    let s := fireHeads s w o { res := 0 }
    let s := s.modHere fun c => (c.writeStaged t).squashExit t s.loc.ctx
    let s := (s.dropWaits s.loc.core t false).commit s.loc.core t
    match th.activation with
    | some seq =>
      .next ((s.restartJob (dieOf s.loc.core) seq).modHere fun c =>
        (c.modThread t fun th => { th with st := .retired, activation := none, handler := false, record := none }).leaveArea s.cycle t)
    | none =>
      .next (s.modHere fun c => ((c.requeue t (s.cycle + 2)).modThread t fun th => { th with record := none }).leaveArea s.cycle t)

end Sys2Proof.Machine
end

