-- ==== Sys2Proof/Machine/Loader.lean ====
section
/-! DEFINITION. Contexts: demands, loading and validation (R207, R306 to R308), CFGLD and CFGINV (R325 to R327), and the end of a task
whose image is refused (R355). -/

namespace Sys2Proof.Machine

/-! ### Contexts (R207, R308) -/

/-- Whether an entry of a buffer is of a context and has not left before this cycle. -/
def ofCtx (now k : Nat) (e : BufEntry) : Bool := e.tok.ctx == k && (match e.gone with
  | none => true
  | some g => decide (now ≤ g))

/-- Whether a token, beat or result tagged with a context remains in the core. -/
def Core.ctxBusy (c : Core) (now k : Nat) : Bool :=
  (c.sites.any fun (p : Nat × Site) =>
    let x := p.2
    (x.bufs.any fun b => b.2.any (ofCtx now k)) || x.bound.any (ofCtx now k) || (x.ctx k).entry.any (fun b => b.2.any (ofCtx now k))
      || x.flight.any (fun f => f.ctx == k)
      || x.wb.any fun b => b.ctx == k && (match b.gone with
        | none => true
        | some g => decide (now ≤ g)))
  || c.wide.any fun w => w.beat.ctx == k

/-- The context in which a block is valid or being loaded and may be used. -/
def Core.residence (c : Core) (b : BlockRef) : Option Nat :=
  (List.range 8).find? fun k => let x := c.ctx k; (x.validFrom.isSome || x.loading) && x.blk == b && !x.stale

/-- The context in which a block is valid. -/
def Core.resident (c : Core) (now : Nat) (b : BlockRef) : Option Nat :=
  (List.range 8).find? fun k => let x := c.ctx k; x.valid now && x.blk == b && !x.stale

/-- The element of a list with the least key, the first on a tie. -/
def leastBy {α : Type} (f : α → Nat) (l : List α) : Option α :=
  match l with
  | [] => none
  | x :: r => some (r.foldl (fun b y => if f y < f b then y else b) x)

/-- The context that a demand takes (R308). -/
def Core.freeCtx (c : Core) (now : Nat) : Option Nat :=
  match (List.range 8).find? fun k => (c.ctx k).validFrom.isNone && !(c.ctx k).loading with
  | some k => some k
  | none =>
    leastBy (fun k => (c.ctx k).lastAct) ((List.range 8).filter fun k =>
      let x := c.ctx k
      x.validFrom.isSome && !x.loading && !x.pinned && c.active != some x.blk && !c.ctxBusy now k)

/-- The contexts that are not pinned. -/
def Core.unpinned (c : Core) : Nat := ((List.range 8).filter fun k => !(c.ctx k).pinned).length

/-- Whether the CFGLDs that wait for a block pin its context: the last of them decides. -/
def Core.pinAsked (c : Core) (b : BlockRef) : Bool := match c.cfgWait.reverse.find? fun w => w.2.1 == b with
  | some w => w.2.2
  | none => false

/-- The pins that CFGLDs have asked for and that take effect when their blocks' loads begin (R326). -/
def Core.pinsDue (c : Core) : Nat :=
  (((c.cfgWait.map fun w => w.2.1).eraseDups).filter fun b => (c.residence b).isNone && c.pinAsked b).length

/-- Whether one more pin leaves at least two contexts unpinned (R326). -/
def Core.mayPin (c : Core) : Bool := decide (2 < c.unpinned - c.pinsDue)

/-- Whether a thread waits in a handler block (R357). -/
def Core.handlerWaits (c : Core) (b : BlockRef) : Bool :=
  c.threads.any fun t => t.2.st == .waiting && t.2.handler && t.2.blk == b

/-- A context taken by a demand (R308): it is being loaded from then on, and the directory entry and the image's first line are to come. -/
def Core.reserve (c : Core) (now k : Nat) (b : BlockRef) : Core :=
  let own := c.active == some b || c.prefetch == some b || c.cfgWait.all fun w => w.2.1 != b
  c.modCtx k fun _ => { Ctx.empty with blk := b, loading := true, reading := true, pinned := c.pinAsked b, lastAct := now, cfgOnly := !own }

/-- A block demanded: a context is chosen in the cycle of the demand, or the demand waits until one is free (R307, R308). -/
def Core.demand (c : Core) (now : Nat) (b : BlockRef) : Core :=
  match c.residence b with
  | some k => c.modCtx k fun x => { x with cfgOnly := false }
  | none =>
    if c.demands.contains b then c else
    let c := { c with selLoads := satAdd c.selLoads 1 32 }
    match if c.demands.isEmpty then c.freeCtx now else none with
    | some k => c.reserve now k b
    | none => { c with demands := c.demands ++ [b] }

/-- The oldest of the demands that wait, and the context that it can take now. -/
def Core.demandDue (c : Core) (now : Nat) : Option (BlockRef × Nat) :=
  match c.demands with
  | [] => none
  | b :: _ => (c.freeCtx now).map fun k => (b, k)

/-- An image written into a context: its slots and routing words, with registers, predicates and counters zero; every other site of
the context is unused. -/
def Core.writeCtx (c : Core) (k : Nat) (m : Image) : Core :=
  let c := { c with sites := tblMap c.sites fun (_ : Nat) (x : Site) =>
    { x with ctxs := tblDel x.ctxs k, starts := x.starts.filter fun p => p.1 / 16 != k } }
  m.sections.foldl (fun (c : Core) sec => c.modSite sec.site fun x => x.modCtx k fun _ =>
    { SiteCtx.empty with
      words := (sec.words.zipIdx.filter fun p => p.1 != 0).map fun p => (p.2, p.1), route := sec.route }) c

/-- An image's first line has come to a context: what validation will find is known, and takes effect when it completes, in cycle `last`. -/
def Core.startLoad (c : Core) (k last : Nat) (res : Except Refused Image) : Core :=
  match res with
  | .error r => c.modCtx k fun x => { x with reading := false, loadEnd := last, refusal := some (r.code, r.site, r.slot) }
  | .ok m => (c.writeCtx k m).modCtx k fun x =>
      { x with reading := false, loadEnd := last, priv := m.priv, stub := m.stub, ii := m.ii, maxsafe := m.maxsafe, commit := m.commit
               livein := m.livein, liveout := m.liveout, routes := m.entries, safes := m.safes, sites := m.sites, nodes := m.nodes }

/-- A graph's entry. -/
def State.graph (s : State) (g : Nat) : Graph := tblGet ⟨0, [], none, 0, 0, []⟩ s.graphs g

/-- The cycle in which a validation completes: the image's first line arrives in cycle `now`, its bytes at 512 a cycle, and validation
completes 4 cycles after the last (R307). -/
def loadLast (now len : Nat) : Nat := now + (len + 511) / 512 - 1 + 4

/-- A demanded block's directory entry and image are read and checked, in the cycle in which the image's first line arrives (R307). An
image with PRIV that no privileged launch or handler entry demands is a violation before the first check (R64). -/
def State.stream (s : State) (core k : Nat) (b : BlockRef) : State :=
  let none_ := fun (s : State) => s.modCore core fun c => c.startLoad k s.cycle (.error ⟨2, 0, 0⟩)
  if !tblHas s.graphs b.graph then none_ s else
  match s.imageBytes (s.graph b.graph).dir b.block with
  | .busy => s
  | .none s => none_ s
  | .got bs s =>
    let c := s.core core
    let priv := (match c.part with
      | some p => p.priv
      | none => false) || c.handlerWaits b || c.cfgWait.any fun w => w.2.1 == b
    if bit (imgNum bs 9 1) 0 && !priv then
      (s.modCore core fun c => { c.modCtx k fun _ => Ctx.empty with prefetch := if c.prefetch == some b then none else c.prefetch }).freezeSpace core
        (match c.part with
          | some p => p.space
          | none => 0) 0x40
    else s.modCore core fun c => c.startLoad k (loadLast s.cycle bs.length) (validate bs b.graph b.block)

/-- BLOCK_DEMAND: a demand that waits takes a context that has become free, or the first line of a demanded block's image comes. -/
def execBlockDemand (core graph block : Nat) (s : State) : Host.Outcome State Fault Refusal :=
  let c := s.core core
  let b : BlockRef := ⟨graph, block⟩
  if c.demands.contains b then .next (match c.demandDue s.cycle with
    | some (h, k) => if h = b then s.setCore core ({ c with demands := c.demands.filter (· != b) }.reserve s.cycle k b) else s
    | none => s)
  else match (List.range 8).find? fun k => (c.ctx k).reading && (c.ctx k).blk == b with
    | some k => .next (s.stream core k b)
    | none => .next s

/-! ### The end of a refused task (R355) -/

/-- A site without its part: every token is gone; a result in flight emits nothing more, and still writes its d-register and sets its
flags (R230). -/
def Site.clearPart (x : Site) (ts : List Nat) : Site :=
  { ts.foldl (fun (x : Site) t => x.squash t fun _ => true) x with
    flight := (x.flight.filter fun f => f.key == 0 || f.dr.isSome).map fun f => { f with om := 0, room := false } }

/-- A core without its part: its threads, vectors, requests and tokens are gone. Contexts stay, and so does a pending TIMER (R369). -/
def Core.clearPart (c : Core) : Core :=
  let ts := c.threads.map (·.1)
  let d := ts.foldl (fun (c : Core) t => c.squash t fun _ => true) c
  { d with sites := tblMap c.sites fun _ x => x.clearPart ts
           part := none, threads := [], active := none, vecs := [], cached := [], prefetch := none, demands := []
           cfgWait := [], waiting := [], grants := [], preempt := none, preFound := none }

/-- What a core's threads wait for outside the core withdrawn. -/
def State.dropCoreWaits (s : State) (core : Nat) : State :=
  let s := (s.core core).threads.foldl (fun s t => s.dropWaits core t.1 true) s
  { s with dies := tblMap s.dies fun (_ : Nat) (d : Die) =>
      { d with gates := d.gates.filter fun g => g.core != core
               syncq := d.syncq.filter fun m => match m with
                 | .gate _ c _ => c != core
                 | _ => true } }

/-- Every granule, tile and bank of an aborted part freed. -/
def Core.freeAll (c : Core) (now : Nat) : Core :=
  let c := c.tiles.foldl (fun (c : Core) t => if t.2.state == .empty then c else c.emptyTile now t.1) c
  let c := c.banks.foldl (fun (c : Core) b => if b.2.holder.isSome then c.freeBank now b.1 else c) c
  let c := c.runs.foldl (fun (c : Core) r => c.freeRun now r) c
  { c with chunks := [], writes := [], endq := c.sent, compact := [] }

/-- A task ended before its time: its threads on every core, its tiles, banks and areas, its ready parts and its slot. -/
def State.endTask (s : State) (h : Nat) : State :=
  let die := bits h 13 12
  let cores := (s.cores.filter fun (c : Nat × Core) => match c.2.part with
    | some p => p.task == h
    | none => false).map (·.1)
  let s := cores.foldl (fun s k => (s.dropCoreWaits k).modCore k fun c => (c.clearPart.freeAll s.cycle)) s
  let s := { s with
    dies := tblMap s.dies fun (_ : Nat) (d : Die) => { d with ready := tblMap d.ready fun _ q => q.filter fun r => r.task != h }
    cores := tblMap s.cores fun (_ : Nat) (c : Core) => if c.heldFor == some h then { c with heldFor := none } else c }
  s.modTask die (bits h 11 0) fun t => { Task.free with gen := (t.gen + 1) % 16 }

/-- A task aborted; its session is told. -/
def State.abortTask (s : State) (h code block site slot : Nat) : State :=
  (s.endTask h).send (s.task (bits h 13 12) (bits h 11 0)).session 0x50 0 (eventBody 1 [code, block, site, slot])

/-! ### Validation and staleness (R207, R307, R326, R327) -/

/-- Whether the validation of a load completes in this cycle. -/
def Core.validDue (c : Core) (now : Nat) : Bool := c.ctxs.any fun x => x.2.loading && !x.2.reading && decide (x.2.loadEnd ≤ now)

/-- BLOCK_VALIDATION_COMPLETE: the context becomes valid at the end of the cycle, or stays invalid and the refusal takes effect. -/
def execBlockValidationComplete (core ctx : Nat) (s : State) : Host.Outcome State Fault Refusal :=
  let c := s.core core
  let x := c.ctx ctx
  if !x.loading || x.reading || s.cycle < x.loadEnd then .next s else
  let mine := c.cfgWait.filter fun w => w.2.1 == x.blk
  let answer := fun (s : State) (v : List Nat) => mine.foldl (fun s w => s.finishOp w.1 (ofLanes 32 v)) s
  let c := { c with cfgWait := c.cfgWait.filter fun w => w.2.1 != x.blk
                    prefetch := if c.prefetch == some x.blk then none else c.prefetch }
  match x.refusal with
  | none =>
    let c := { c with stamps := c.stamps + 1 }
    let s := s.setCore core (c.modCtx ctx fun x =>
      { x with loading := false, validFrom := some (s.cycle + 1), stamp := c.stamps, fresh := true })
    .next (answer s [0, ctx])
  | some (code, site, slot) =>
    let s := answer (s.setCore core (c.modCtx ctx fun _ => Ctx.empty)) [1, code]
    match c.part with
    | some p => .next (if x.cfgOnly then s else s.abortTask p.task code x.blk.block site slot)
    | none => .next s

/-- Whether a context is stale and no token is tagged with it any more (R327). -/
def Core.retireDue (c : Core) (now k : Nat) : Bool :=
  let x := c.ctx k
  x.stale && !x.loading && x.validFrom.isSome && !c.ctxBusy now k

/-- STALE_CONTEXT_RETIRE: such a context becomes invalid. -/
def execStaleContextRetire (core ctx : Nat) (s : State) : Host.Outcome State Fault Refusal :=
  let c := s.core core
  .next (if c.retireDue s.cycle ctx then s.setCore core (c.modCtx ctx fun _ => Ctx.empty) else s)

/-- CFGLD. -/
def execCfgld (w : SlotWord) (s : State) : Host.Outcome State Fault Refusal :=
  match residueFault s w with
  | some p => .next (residueTrap s w p)
  | none =>
    let o := readOps s w 32
    let (s, op) := fireVar s w o .dat
    let c := s.here
    let a := lane o.a 32 0
    let pin := bit (lane o.b 32 0) 0
    if bits a 31 12 != 0 || bits (lane o.b 32 0) 31 1 != 0 then .next (s.status op 3) else
    match c.part with
    | none => .next (s.status op 2)
    | some p =>
      let b : BlockRef := ⟨p.graph, a⟩
      match c.residence b with
      | some k =>
        let x := c.ctx k
        if pin && !x.pinned && !c.mayPin then .next (s.status op 2) else
        let s := s.modHere fun c => c.modCtx k fun x => { x with pinned := pin }
        .next (if x.loading then s.modHere fun c => { c with cfgWait := c.cfgWait ++ [(op, b, pin)] }
          else s.finishOp op (ofLanes 32 [0, k]))
      | none =>
        if (c.freeCtx s.cycle).isNone || (pin && !c.pinAsked b && !c.mayPin) then .next (s.status op 2)
        else .next (s.modHere fun c =>
          ({ c with cfgWait := c.cfgWait ++ [(op, b, pin)] } : Core).demand s.cycle b)

/-- CFGINV: every context that holds the block, or any block of the running graph, is marked stale, and those that it marks are counted. -/
def execCfginv (w : SlotWord) (s : State) : Host.Outcome State Fault Refusal :=
  match residueFault s w with
  | some p => .next (residueTrap s w p)
  | none =>
    let o := readOps s w 32
    let c := s.here
    let a := lane o.a 32 0
    let g := match c.part with
      | some p => p.graph
      | none => 0
    let hit := (List.range 8).filter fun k =>
      let x := c.ctx k
      (x.validFrom.isSome || x.loading) && !x.stale && x.blk.graph == g && (bit a 16 || x.blk.block == a % 4096)
    let marked := fun (c : Core) =>
      let c := hit.foldl (fun (c : Core) k => c.modCtx k fun x => { x with stale := true, pinned := false }) c
      { c with active := match c.active with
        | some b => if hit.any fun k => (c.ctx k).blk == b then none else some b
        | none => none }
    .next ((fireWith s w 4 o { res := ofLanes 32 [hit.length] }).modHere marked)

end Sys2Proof.Machine
end

