-- ==== Sys2Proof/Machine/Selector.lean ====
section
/-! DEFINITION. The selector: waiting vectors, the choice of the active block, injection, exits, parks, the timer and the faults that
end a pass (R312 to R323, R359, R364, R365, R369, R372, R376). -/

namespace Sys2Proof.Machine

/-! ### Waiters (R312, R313, R316) -/

/-- The entry routes of a context. -/
def Ctx.entries (x : Ctx) : List RouteEntry := x.routes.filter fun e => e.kind < 2

/-- Whether the entry buffers of some routes have room. -/
def Core.entryRoom (c : Core) (now k : Nat) (es : List RouteEntry) : Bool :=
  es.all fun e => decide (bufUsed now (((c.site e.site).ctx k).entryBuf e.ch) < 2)

/-- The commit area of a block, when the thread must still ask for it (R138). -/
def Core.needsArea (c : Core) (k t : Nat) : Bool := (c.ctx k).commit != 0 && !(c.thread t).commitHeld

/-- Whether a thread's commit-area request waits for its grant. -/
def Core.areaAsked (c : Core) (t : Nat) : Bool := c.waiting.any fun r => r.kind == .commit && r.tid == t

/-- The threads whose bits stand in a block's vector and that no gate holds, by ascending id. -/
def Core.bitWaiters (c : Core) (now : Nat) (b : BlockRef) : List (Nat × Thread) :=
  c.threads.filter fun t => t.2.st == .waiting && t.2.blk == b && decide (t.2.wakeAt ≤ now)

/-- Whether a waiter of a block is injectable (R313). In the active block, once its context is valid, its area is granted and the block's
entry buffers have room. Elsewhere, where no request is made and no buffer is the block's, and for a resumption, which has routes of its
own, it is unless a request of it waits (DESIGN CHOICE, log 122). -/
def Core.ready (c : Core) (now : Nat) (b : BlockRef) (t : Nat) : Bool :=
  match if c.active == some b && (c.thread t).rstep == .none then c.resident now b else none with
  | some k => !c.needsArea k t && c.entryRoom now k (c.ctx k).entries
  | none => !c.areaAsked t

/-- The injectable waiters of a block, by ascending id. -/
def Core.waiters (c : Core) (now : Nat) (b : BlockRef) : List (Nat × Thread) := (c.bitWaiters now b).filter fun t => c.ready now b t.1

/-- The blocks that have an injectable waiter. -/
def Core.candidates (c : Core) (now : Nat) : List BlockRef :=
  ((c.threads.filter fun t => t.2.st == .waiting && decide (t.2.wakeAt ≤ now) && c.ready now t.2.blk t.1).map fun t => t.2.blk).eraseDups

/-- Whether a thread waits in a block as a handler. -/
def Core.isHandler (c : Core) (now : Nat) (b : BlockRef) : Bool := (c.waiters now b).any fun t => t.2.handler

/-- The rank of a candidate, the least first (R316). -/
def Core.rank (c : Core) (now : Nat) (b : BlockRef) : Nat :=
  let ws := c.waiters now b
  let oldest := ws.foldl (fun m t => min m t.2.wakeAt) now
  let (cls, x) := if ws.any fun t => t.2.handler then (0, oldest)
    else if c.ageNow < now - oldest then (1, oldest) else (2, 2048 - ws.length)
  ((cls * 2 ^ 64 + x) * 4096 + b.block) * 65536 + b.graph

def Core.top (c : Core) (now : Nat) : Option BlockRef := leastBy (fun b => c.rank now b) (c.candidates now)

def Core.vec (c : Core) (b : BlockRef) : VecState := ((c.vecs.find? fun v => v.1 == b).map (·.2)).getD ⟨0, 0, 0⟩
def Core.modVec (c : Core) (b : BlockRef) (f : VecState → VecState) : Core :=
  { c with vecs := (b, f (c.vec b)) :: c.vecs.filter fun v => v.1 != b }

/-- The first of some threads in a block's rotating order. -/
def Core.inTurn (c : Core) (b : BlockRef) (ts : List Nat) : Option Nat :=
  match ts.find? fun t => decide ((c.vec b).last ≤ t) with
  | some t => some t
  | none => ts.head?

/-! ### The choice (R315, R316) -/

/-- The quantum. -/
def Core.quantum (c : Core) : Nat := max 64 c.qNow

/-- Whether the selector is at work: a part runs, and neither a pre-emption nor a freeze has stopped injection (R372, R375). -/
def Core.selecting (c : Core) : Bool := c.part.isSome && !c.wantsPark

/-- Whether some block other than the active one has an injectable waiter. -/
def Core.otherWaits (c : Core) (now : Nat) : Bool := (c.candidates now).any fun b => c.active != some b

/-- Whether the active block has an injectable waiter. -/
def Core.activeWaits (c : Core) (now : Nat) : Bool := match c.active with
  | some b => !(c.waiters now b).isEmpty
  | none => false

/-- Whether a handler's waiter calls for a choice: only where it would change the active block. -/
def Core.handlerDue (c : Core) (now : Nat) : Bool :=
  c.selecting && c.lastInj != now + 1 && ((c.candidates now).any fun b => c.isHandler now b && c.active != some b) && c.top now != c.active

/-- The second condition of R315. -/
def Core.quantumOver (c : Core) (now : Nat) : Bool :=
  c.selecting && c.lastInj != now + 1 && c.active.isSome && decide (c.chosenAt + c.quantum ≤ now) && c.otherWaits now

/-- The context of the injection that comes next for a thread: the stub's, or the block's own, and there only once it is ready for a
resumption (R366). -/
def Core.nextInto (c : Core) (now k t : Nat) (b : BlockRef) : Option Nat :=
  let th := c.thread t
  match th.rstep, th.resume.k.bind (c.ctx k).safe with
  | .stub, some d => match d.stub with
    | some n => c.resident now ⟨b.graph, n⟩
    | none => if (c.ctx k).fresh then some k else none
  | .main, some _ => if (c.ctx k).fresh then some k else none
  | _, _ => some k

/-- The commit-area request that the selector makes now: of the thread that is next in rotating order in the active block (R138, R313). -/
def Core.areaWanted (c : Core) (now : Nat) : Option (Nat × Nat) :=
  if !c.selecting || c.handlerDue now || c.quantumOver now then none else
  match c.active with
  | none => none
  | some b =>
    match c.resident now b, c.inTurn b ((c.bitWaiters now b).map (·.1)) with
    | some k, some t => match c.nextInto now k t b with
      | some j => if c.needsArea j t && !c.areaAsked t then some (t, j) else none
      | none => none
    | _, _ => none

/-- Whether a request or a grant of this cycle can still make a waiter of the active block injectable. -/
def Core.areaPending (c : Core) (now : Nat) : Bool := (c.areaWanted now).isSome || (c.grantable now 15).isSome

/-- The conditions of R315 but for the quantum, once the cycle's request and grant of an area are made. A block gains an injectable waiter
when it had none in the cycle before. -/
def Core.choiceDue (c : Core) (now : Nat) : Bool :=
  c.handlerDue now || (c.selecting && c.lastInj != now + 1 && !c.areaPending now &&
    ((c.active.isSome && decide (c.injectAt ≤ now) && !c.activeWaits now && c.otherWaits now)
    || (match c.active with
        | none => !(c.candidates now).isEmpty
        | some _ => !c.activeWaits now && (c.candidates now).any fun b => !c.had.contains b)))

/-- The highest-ranked block made active; one that is not resident is demanded. SELCFG acts as it now stands (R328). -/
def Core.choose (c : Core) (now : Nat) : Core :=
  let c := { c with ageNow := c.selAge, qNow := c.selQ }
  match c.top now with
  | none => c
  | some b =>
    let seen := fun (c : Core) (b : BlockRef) => match c.residence b with
      | some k => c.modCtx k fun x => { x with lastAct := now }
      | none => c
    let c := match c.active with
      | some a => seen c a
      | none => c
    let c := ({ seen c b with active := some b } : Core).demand now b
    { c with chosenAt := now, injectAt := now + 1, selChoices := satAdd c.selChoices 1 32 }

/-- SELECTOR_CHOICE. -/
def execSelectorChoice (core : Nat) (s : State) : Host.Outcome State Fault Refusal :=
  let c := s.core core
  .next (if c.choiceDue s.cycle then s.setCore core (c.choose s.cycle) else s)

/-- SELECTOR_QUANTUM_EXPIRY. -/
def execSelectorQuantumExpiry (core : Nat) (s : State) : Host.Outcome State Fault Refusal :=
  let c := s.core core
  .next (if c.quantumOver s.cycle && !c.choiceDue s.cycle then s.setCore core (c.choose s.cycle) else s)

/-! ### Prefetch and vectors (R308, R312) -/

/-- The prefetch target. -/
def Core.prefetchTarget (c : Core) (now : Nat) : Option BlockRef :=
  let out := fun (b : BlockRef) => (c.residence b).isNone && !c.demands.contains b
  match leastBy (fun b => c.rank now b) ((c.candidates now).filter fun b => out b && c.active != some b) with
  | some b => some b
  | none =>
    (leastBy (fun v => now + 1 - v.2.named) (c.vecs.filter fun v => v.2.named != 0 && out v.1)).map (·.1)

/-- The target found in the cycle before, when it can be demanded now (R308). -/
def Core.prefetchDue (c : Core) (now : Nat) : Option BlockRef :=
  match c.preFound with
  | some b =>
    if c.selecting && c.prefetch.isNone && c.demands.isEmpty && (c.freeCtx now).isSome && (c.residence b).isNone then some b else none
  | none => none

/-- The target that the next cycle can demand: none while a prefetch is in progress. -/
def Core.findPrefetch (c : Core) (now : Nat) : Option BlockRef := if c.selecting && c.prefetch.isNone then c.prefetchTarget now else none

/-- PREFETCH_DEMAND. -/
def execPrefetchDemand (core : Nat) (s : State) : Host.Outcome State Fault Refusal :=
  .next (match (s.core core).prefetchDue s.cycle with
    | some b => s.modCore core fun c => { c with prefetch := some b, preFound := none }.demand s.cycle b
    | none => s)

/-- The bits of a waiting vector, as a number, and as the 256 bytes of its place in the vector area. -/
def Core.vectorBits (c : Core) (b : BlockRef) : Nat :=
  ((c.threads.filter fun t => (t.2.st == .waiting || t.2.st == .gated || t.2.inVec) && t.2.blk == b).map fun t => 2 ^ t.1).sum
def Core.vectorBytes (c : Core) (b : BlockRef) : Bytes := leBytes (c.vectorBits b) 256
def Core.vectorAt (c : Core) (b : BlockRef) : Nat := c.selVec / 2 ^ 20 * 2 ^ 20 + 256 * b.block

/-- Whether the vector area lacks a vector that is not cached: its bits have changed since the area took them. -/
def Core.lags (c : Core) (b : BlockRef) : Bool := !c.cached.contains b && (c.vec b).mem != c.vectorBits b

/-- A vector that lags so. -/
def Core.vecLags (c : Core) : Option BlockRef :=
  ((c.vecs.map (·.1) ++ (c.threads.filter fun t => t.2.st == .waiting || t.2.st == .gated).map fun t => t.2.blk).eraseDups).find? c.lags

/-- A vector written to its place in the vector area, when its lines are quiet; an area that lies outside HBM takes nothing. -/
def State.writeVector (s : State) (core : Nat) (b : BlockRef) : Option State :=
  let c := s.core core
  let pa := c.vectorAt b
  let took := fun (s : State) => s.modCore core fun c => c.modVec b fun v => { v with mem := c.vectorBits b }
  if !spanInHbm pa 256 then some (took s)
  else if !s.quietSpan pa 256 then none
  else some (took (s.cohWrite pa (c.vectorBytes b)))

/-- A vector read back from the vector area into the cache of 64, when its lines are quiet; the one used least recently leaves the cache. The
bits are those that the device has written there (log 47). -/
def State.readVector (s : State) (core : Nat) (b : BlockRef) : Option State :=
  let into := fun (s : State) => s.modCore core fun c => { c with cached := b :: c.cached.take 63 }
  match s.devRead ((s.core core).vectorAt b) 256 with
  | .busy => none
  | .bad _ _ => some (into s)
  | .got _ s => some (into s)

/-- What is done next about a core's vectors: the active block's is brought into the cache, and one that the vector area lacks is written,
the active block's own before it is read. -/
def State.vectorMove (s : State) (core : Nat) : Option State :=
  let c := s.core core
  let lag := match c.vecLags with
    | some b => s.writeVector core b
    | none => none
  match c.active with
  | none => lag
  | some b =>
    if c.cached.contains b then lag
    else if c.lags b then s.writeVector core b
    else s.readVector core b

/-- Whether the selector has something to do about its vectors that no line holds up: the time that the memory takes is not architectural
(R312). -/
def State.vectorDue (s : State) (core : Nat) : Bool := (s.core core).selecting && (s.vectorMove core).isSome

/-- VECTOR_FETCH. -/
def execVectorFetch (core : Nat) (s : State) : Host.Outcome State Fault Refusal := .next ((s.vectorMove core).getD s)

/-! ### Live values and the fault record (R309, R310, R323, R359) -/

/-- A slot of a fault record. -/
def FaultRec.lv (r : FaultRec) (k : Nat) : Payload :=
  match k with
  | 0 => .ofNat 128 (r.code % 256 + r.persist.toNat * 2 ^ 8 + r.engine.toNat * 2 ^ 9 + r.write.toNat * 2 ^ 10 + r.irrev.toNat * 2 ^ 11
      + r.num % 2 ^ 16 * 2 ^ 16 + r.space % 4096 * 2 ^ 32 + r.block % 4096 * 2 ^ 44 + r.site % 256 * 2 ^ 64 + r.slot % 16 * 2 ^ 72
      + r.ctx % 8 * 2 ^ 76 + r.tid % 2048 * 2 ^ 96)
  | 1 => .ofNat 128 (r.addr % 2 ^ 64 + r.detail % 2 ^ 64 * 2 ^ 64)
  | 2 => r.data
  | _ => .ofNat 128 (r.region % 2 ^ 96 + r.ridx % 16 * 2 ^ 96)

/-- A fault record from its four slots. -/
def FaultRec.ofLv (a b c d : Nat) : FaultRec :=
  { code := bits a 7 0, persist := bit a 8, engine := bit a 9, write := bit a 10, irrev := bit a 11, num := bits a 31 16
    space := bits a 43 32, block := bits a 55 44, site := bits a 71 64, slot := bits a 75 72, ctx := bits a 78 76
    tid := bits a 106 96, addr := bits b 63 0, detail := bits b 127 64, data := .ofNat 128 c, region := bits d 95 0
    ridx := bits d 99 96 }

/-- The slot that a thread's block sees as lvK: in a handler lv28 to lv31 are the record, and slots of its own from L on are zero. -/
def Core.liveSlot (c : Core) (t k : Nat) : Slot :=
  let th := c.thread t
  let own := tblGet ⟨mkVal 0, .raw⟩ th.slots k
  if !th.handler then own
  else if 28 ≤ k then ⟨mkVal ((th.record.getD FaultRec.zero).lv (k - 28)), .raw⟩
  else if k < c.liveSlots then own else ⟨mkVal 0, .raw⟩

/-! ### Injection (R313, R314) -/

/-- The active block's context and next waiter, when an injection is due (R313, R315). -/
def Core.injectDue (c : Core) (now : Nat) : Option (BlockRef × Nat × Nat) :=
  if !c.selecting || c.areaPending now || c.choiceDue now || c.quantumOver now || now < c.injectAt then none else
  match c.active with
  | none => none
  | some b =>
    if !c.cached.contains b then none else
    match c.resident now b, c.inTurn b ((c.waiters now b).map (·.1)) with
    | some k, some t => some (b, k, t)
    | _, _ => none

/-- A token placed in an entry buffer. -/
def Core.putEntry (c : Core) (now k site ch : Nat) (t : Token) : Core :=
  c.modSite site fun x => x.modCtx k fun y => y.setEntry ch (bufPut now (y.entryBuf ch) t)

/-- The token of one entry route for a thread. -/
def Core.entryToken (c : Core) (k t : Nat) (e : RouteEntry) : Token :=
  if e.kind = 0 then let s := c.liveSlot t e.slot; { val := s.val, kind := .dat, tag := s.tag, ctx := k, tid := t }
  else { val := mkVal 0, kind := .ord, tag := .raw, ctx := k, tid := t }

/-- A live-value slot that an injection would read and whose residue does not agree with its value (R210, R211). -/
def Core.badSlot (c : Core) (t : Nat) (es : List RouteEntry) : Option Nat :=
  (es.find? fun e => e.kind == 0 && !(c.liveSlot t e.slot).val.ok).map (·.slot)

/-- A SOFT_ERROR of a live-value slot. -/
def State.slotError (s : State) (core t k : Nat) (b : BlockRef) : State :=
  let s := s.modCore core fun c => { c with elLvs := satAdd c.elLvs 1 16 }
  s.raiseFault core t { FaultRec.zero with
    code := 0x32, persist := true, detail := 3 * 2 ^ 60 + k, block := b.block, space := s.partSpace core }

/-- The bookkeeping of an injection: the thread is in its block, and the next injection is II cycles away. -/
def Core.enterBlock (c : Core) (now k t : Nat) (b : BlockRef) : Core :=
  let c := (c.modCtx k fun x => { x with fresh := false, lastAct := now }).modVec b fun v => { v with last := t + 1 }
  { c.modThread t (fun th => { th with st := .inBlock, ctx := k }) with injectAt := now + (c.ctx k).ii, lastInj := now + 1 }

/-- THREAD_INJECTION: the commit area of the thread that is next is asked for, or the next injectable waiter of the active block is
injected. A thread that resumes at a safe point with a descriptor is injected by `execResumeInjection`. -/
def execThreadInjection (core : Nat) (s : State) : Host.Outcome State Fault Refusal :=
  let c := s.core core
  match c.areaWanted s.cycle with
  | some (t, j) => .next (s.setCore core (c.join { kind := .commit, tid := t, pool := 15, size := (c.ctx j).commit, at_ := s.cycle }))
  | none =>
  match c.injectDue s.cycle with
  | none => .next s
  | some (b, k, t) =>
    let x := c.ctx k
    let th := c.thread t
    if th.rstep != .none || c.needsArea k t || !c.entryRoom s.cycle k x.entries then .next s
    else match c.badSlot t x.entries with
      | some n => .next (s.slotError core t n b)
      | none =>
        let s := s.modCore core fun c =>
          (x.entries.foldl (fun (c : Core) e => c.putEntry s.cycle k e.site e.ch (c.entryToken k t e)) c).enterBlock s.cycle k t b
        let s := s.commitSafe core t
        .next (if th.handler then s.passPoint core t else s.resumePoint core t b none ⟨mkVal 0, .raw⟩ [])

/-! ### Completion of exits (R320, R321, R369) -/

/-- Whether an exit of a thread can complete now: every entry of its area has been sent, those among them that were still to enter it. -/
def Core.exitDue (c : Core) (now t : Nat) : Bool :=
  match (c.thread t).exiting with
  | some (_, at_) => decide (at_ < now) && !c.entersLater t && (c.thread t).area.all fun e => e.oper == 8 || e.sent
  | none => false

/-- A thread retired: what is left of it is the area that waits for acknowledgements. -/
def Core.retire (c : Core) (now t : Nat) : Core :=
  (c.modThread t fun th => { Thread.none with area := th.area, runs := th.runs, grown := th.grown, past := th.past }).leaveArea now t

/-- A thread at the entry of its successor, WAITING or, while its gate is closed, GATED (R320, R321). A thread in a handler keeps the resume
point it entered with (R358; log 22), and no gate of its own holds a handler's block up. -/
def State.atEntry (s : State) (core t : Nat) (b : BlockRef) : State :=
  let hnd := ((s.core core).thread t).handler
  let s := if hnd then s.passPoint core t else s.resumePoint core t b none ⟨mkVal 0, .raw⟩ []
  s.modCore core fun c =>
    ((c.modThread t fun th => { th with
      st := if th.gate.isSome && !hnd then .gated else .waiting, wakeAt := s.cycle + 1, blk := b, exiting := none, rstep := .none }).modVec b fun v =>
      { v with named := s.cycle + 1 }).leaveArea s.cycle t

/-- A pending TIMER taken by a thread that has completed an exit, with its resume point at its successor's entry (R369). -/
def State.timerAtExit (s : State) (core t : Nat) (was : Thread) : State :=
  if (s.core core).takesTimer t then
    (s.modCore core fun c => { c with tmrPend := false }).raiseFault core t
      { FaultRec.zero with code := 0x34, space := s.partSpace core, block := was.blk.block, ctx := was.ctx }
  else s

/-- EXIT_COMPLETE. -/
def execExitComplete (core tid : Nat) (s : State) : Host.Outcome State Fault Refusal :=
  let c := s.core core
  let th := c.thread tid
  if !c.exitDue s.cycle tid then .next s else
  match th.exiting with
  | none => .next s
  | some (act, _) =>
    let g := th.blk.graph
    match act with
    | .done => .next (s.setCore core (c.retire s.cycle tid))
    | .stubEnd =>
      .next (s.setCore core ((c.modThread tid fun th =>
        { th with st := .waiting, blk := th.resume.blk, rstep := .main, exiting := none, wakeAt := s.cycle + 1 }).leaveArea s.cycle tid))
    | .next n | .gated n _ _ => .next ((s.atEntry core tid ⟨g, n⟩).timerAtExit core tid th)

/-! ### Faults that end a pass (R211, R266, R322, R365) -/

/-- The persistent bit of a soft error by its storage (R211, R262, R359): clear for a head or a result, set for a d-register, a live-value
slot and a bank, and for a burst of memory or of a dirty line, which a restart reads again; of a scratchpad error no rule says it, and the
event does (log 123). -/
def softPersists (e : SoftErr) : Bool :=
  match e.storage with
  | 1 => false
  | 5 => e.persist
  | _ => true

/-- A soft error in the data that a slice of the core's die, or else the home slice, holds of a line (R130): what the next read of it meets,
an access of the device among them. It is a single-bit error where `low` is 0. -/
def State.sliceError (s : State) (core : Nat) (e : SoftErr) : State :=
  let l := e.addr / 128
  let d := if (s.proxy (dieOf core) l).data.isSome then dieOf core else lineDie l
  s.sliceEcc (sliceAt d l) d l (if e.low = 0 then .corrected else .burst ⟨e.addr % 128 / 32, by omega⟩)

/-- THREAD_FAULT: with an error, a soft error of stored data that the thread's firing met. In memory it is the consumer of a dirty line of
the L1 that faults; a clean line of it is dropped and fetched again, and of a line that the L1 does not hold the error is the slice's
(R130). Without one, a fault that waited for the thread's chunks is taken. -/
def execThreadFault (core tid : Nat) (err : Option SoftErr) (s : State) : Host.Outcome State Fault Refusal :=
  let c := s.core core
  let th := c.thread tid
  match err with
  | none => match th.pending with
    | none => .next s
    | some r => .next (if c.chunks.any fun k => k.tid == tid then s else s.takeFault core tid r)
  | some e =>
    let l := e.addr / 128
    let x := c.l1line l
    if e.storage == 0 && x.st == .i then .next (s.sliceError core e)
    else if e.storage == 0 && !x.st.dirty then .next (s.giveUp core l)
    else if th.st != .inBlock || th.exiting.isSome then .next s else
    let s := s.modCore core fun c => match e.storage with
      | 0 => c.setL1 l { x with poison := x.poison ||| (3#8 <<< (e.addr % 128 / 32 * 2)) }
      | 1 => { c with elResult := satAdd c.elResult 1 16 }
      | 2 => { c with elDreg := satAdd c.elDreg 1 16 }
      | 3 => { c with elLvs := satAdd c.elLvs 1 16 }
      | _ => c
    .next (s.raiseFault core tid { FaultRec.zero with
      code := 0x32, persist := softPersists e, addr := e.addr, detail := e.storage % 16 * 2 ^ 60 + e.low % 65536, site := e.site, slot := e.slot
      ctx := th.ctx, block := (c.ctx th.ctx).blk.block, space := s.partSpace core })

/-- Whether a thread's count passed its block's maxsafe at the end of the cycle before (R365). -/
def Core.safeOver (c : Core) (now t : Nat) : Bool :=
  let th := c.thread t
  th.st == .inBlock && decide ((c.ctx th.ctx).maxsafe + 1 < now - th.safeAt)

/-- SAFE_DISTANCE. -/
def execSafeDistance (core tid : Nat) (s : State) : Host.Outcome State Fault Refusal :=
  let c := s.core core
  let th := c.thread tid
  if !c.safeOver s.cycle tid then .next s else
  .next (s.raiseFault core tid { FaultRec.zero with
    code := 0x30, detail := s.cycle - 1 - th.safeAt, ctx := th.ctx, block := (c.ctx th.ctx).blk.block, space := s.partSpace core })

/-- The faults that threads could not take while they were to park, delivered after their resumption (R372). -/
def State.deliverOwed (s : State) (core : Nat) : State :=
  if (s.core core).wantsPark then s else
  (s.core core).threads.foldl (fun (s : State) t => match t.2.owed with
    | some r => if t.2.st == .waiting || t.2.st == .gated then
        (s.modThread core t.1 fun th => { th with owed := none }).takeFault core t.1 r else s
    | none => s) s

/-! ### Freezes, the timer and parks (R369, R372, R376) -/

/-- FREEZE_PROPAGATION: a freeze reaches a core. -/
def execFreezePropagation (core space : Nat) (s : State) : Host.Outcome State Fault Refusal :=
  let m : FreezeMsg := ⟨core, space⟩
  .next (if s.freezing.contains m then ({ s with freezing := s.freezing.erase m }.modCore core fun c => c.freezeHere space) else s)

/-- The timer's period. -/
def Core.tmrLen (c : Core) : Nat := if c.tmrPeriod = 0 then 1024 else c.tmrPeriod

def Core.timerDue (c : Core) (now : Nat) : Bool := c.tmrEn && (c.handlerOf 0x34).isSome && decide (c.tmrFrom + c.tmrLen ≤ now)

/-- TIMER_EXPIRY. -/
def execTimerExpiry (core : Nat) (s : State) : Host.Outcome State Fault Refusal :=
  let c := s.core core
  .next (if c.timerDue s.cycle then s.setCore core { c with tmrPend := true, tmrFrom := s.cycle } else s)

/-- The tokens and beats of a thread in the core. -/
def Core.tokensOf (c : Core) (t : Nat) : Nat :=
  (c.sites.map fun p => p.2.tokensOf t fun _ => true).sum + (c.wide.filter fun b => b.beat.tid == t).length

/-- Whether a chunk, EMIT count or counter pass of a thread is under way. -/
def Core.midPass (c : Core) (t : Nat) : Bool :=
  c.chunks.any (fun k => k.tid == t) || c.sites.any fun p => p.2.ctxs.any fun y =>
    y.2.emit.any (fun e => e.2.2 == t) || (y.2.cnt.active && y.2.cnt.tid == t)

/-- A thread parked: by a freeze it is held until THAW (R375, R378), by a pre-emption or by the selector it resumes (R180, R372). Its banks
stay as they are, and its journals are freed (R266). -/
def Core.park (c : Core) (now t : Nat) : Core :=
  let hold := match c.part with
    | some p => c.frozen.contains p.space
    | none => false
  ((c.squash t fun _ => true).dropJournals now t).modThread t (fun th =>
    { th with st := .parked, hold, parkAt := none, parkHead := none, allocAt := none }) |>.leaveArea now t

/-- The ALLOC request at which a thread waits, when its block has a descriptor for it (R180). -/
def Core.waitsAtAlloc (c : Core) (t : Nat) : Option (Nat × Nat) :=
  c.waiting.findSome? fun r => if r.tid != t then none else match r.kind with
    | .alloc site ctx slot _ => match decodeWord (tblGet 0 ((c.site site).ctx ctx).words slot) with
      | .ok i => match i.opcode with
        | some (_, w) => if ((c.ctx ctx).resumeAt site w.dq).isSome then some (site, (inputsUsed w).length) else none
        | none => none
      | .error _ => none
    | _ => none

/-- THREAD_PARK: once nothing else of it is in flight, a thread held at a SAFE or TRAP parks, and so does a thread waiting at an ALLOC with
a descriptor: for a pre-emption or a freeze its request is withdrawn (R372), and where the selector parks it of its own accord its request
keeps its place (R180). That an ALLOC waits for the thread's other tokens as a SAFE does is DEDUCED from R372 (log 43). -/
def execThreadPark (core tid : Nat) (s : State) : Host.Outcome State Fault Refusal :=
  let c := s.core core
  let th := c.thread tid
  let parkIf := fun (n : Nat) (keep : Bool) =>
    if n < c.tokensOf tid then s
    else (s.dropWaits core tid true).modCore core fun c => (if keep then c else c.withdraw s.cycle tid).park s.cycle tid
  if th.st != .inBlock || th.exiting.isSome || c.midPass tid then .next s
  else if th.parkAt.isSome then .next (if c.wantsPark then parkIf 1 false else s)
  else match c.waitsAtAlloc tid with
    | some (_, n) => .next (parkIf n !c.wantsPark)
    | none => .next s

end Sys2Proof.Machine
end

