-- ==== Sys2Proof/Machine/Fabric.lean ====
section
/-! DEFINITION. What happens in the fabric between firings: results placed (R69, R201, R204, R318), tokens passed through and steered
(R200, R233), beats, tile writes, chunks and journal copies (R184, R250, R259 to R261, R266). -/

namespace Sys2Proof.Machine

/-! ### Results (R69, R135, R201, R204) -/

/-- Whether an earlier result of the same slot, of variable latency, has not left yet (R135). -/
def earlierOfSlot (fs : List Flight) (f : Flight) : Bool := fs.any fun g => g.key != 0 && g.slot == f.slot && g.ctx == f.ctx

/-- Whether a result can be placed at the end of this cycle: at its cycle, or, with a variable latency, once it is known, its turn
has come and each of its links is free. -/
def Core.placeable (c : Core) (now site idx : Nat) (f : Flight) : Bool :=
  let x := c.site site
  if f.key = 0 then f.due == some now else
  f.ready && (match f.due with
    | some d => decide (d ≤ now)
    | none => false)
    && !earlierOfSlot (x.flight.take idx) f
    && (linksOf (x.ctx f.ctx).route f.om).all fun d =>
      !(x.flight.any fun g => g.key == 0 && g.due == some now && g.om != 0 && (linksOf (x.ctx g.ctx).route g.om).contains d)
        && !bufFresh now (c.farBuf site d) && (f.room || bufUsed now (c.farBuf site d) + x.reserved d ≤ farCap site d)

/-- A token staged on each live-out route of the outputs that emit it (R47, R318). -/
def Core.stageOuts (c : Core) (site : Nat) (f : Flight) : Core :=
  if (c.thread f.tid).st != .inBlock then c else
  ((c.ctx f.ctx).routes.filter fun e => e.kind == 2 && e.site == site && f.om.getLsbD e.ch).foldl
    (fun (c : Core) e => c.stage e.slot f.tok) c

/-- The ord token of an access leaves in a later cycle than its value (R42). -/
def releaseOrd (fs : List Flight) (f : Flight) (now : Nat) : List Flight :=
  if f.key = 0 || f.tok.kind == .ord then fs else
  fs.map fun g => if g.key == f.key && g.tok.kind == .ord then { g with ready := true, due := some (now + 1) } else g

/-- A result placed on its links, in its live-out slots and in its d-register; its flags are set. -/
def Core.place (c : Core) (now site idx : Nat) (f : Flight) : Core :=
  let c := c.modSite site fun x => { x with flight := releaseOrd (dropAt x.flight idx) f now }
  let c := (linksOf ((c.site site).ctx f.ctx).route f.om).foldl (fun (c : Core) d =>
    c.setFarBuf site d (bufPut now (c.farBuf site d) f.tok)) c
  let c := c.stageOuts site f
  let c := match f.dr with
    | some n => c.modSite site fun x => x.modCtx f.ctx fun y => y.setD n.val f.tok.val
    | none => c
  c.flag f.flags

/-- RESULT_PLACEMENT: a result in flight is placed at the end of a cycle. -/
def execResultPlacement (core site idx : Nat) (s : State) : Host.Outcome State Fault Refusal :=
  let c := s.core core
  match (c.site site).flight[idx]? with
  | none => .next s
  | some f => .next (if s.endPhase && c.placeable s.cycle site idx f then s.setCore core (c.place s.cycle site idx f) else s)

/-! ### Tokens that only pass (R58, R59, R200, R233) -/

/-- The outgoing links that pass tokens of an incoming link through. -/
def passLinks (r : BitVec 64) (dir : Nat) : List Nat := [0, 1, 2, 3].filter fun d => routeOut r d == 5 + dir

/-- Whether an incoming link is some input's source. -/
def feedsInput (r : BitVec 64) (dir : Nat) : Bool := [0, 1, 2, 3].any fun n => routeIn r n == dir + 1

/-- The front token of an incoming buffer, once its context is valid, with its routing word. -/
def Core.passFront (c : Core) (now site dir : Nat) : Option (Token × BitVec 64) :=
  let x := c.site site
  match bufFront now (x.buf dir) with
  | some t => if (c.ctx t.ctx).valid now then some (t, (x.ctx t.ctx).route) else none
  | none => none

/-- The links that a pass-through of an incoming link uses now. A token that passes to several links leaves on all of them in one cycle, when
each has room; R200 does not say that its copies may leave in different ones (DESIGN CHOICE, log 125). -/
def Core.passDue (c : Core) (now site dir : Nat) : Option (Token × List Nat) :=
  match c.passFront now site dir with
  | some (t, r) =>
    let ds := passLinks r dir
    if !feedsInput r dir && !ds.isEmpty && ds.all fun d => c.linkFree now site d then some (t, ds) else none
  | none => none

/-- The front token of a buffer that feeds an input: of an incoming link, or, numbered 4 + 4x + n, of input n's entry in context x. -/
def Core.inputFront (c : Core) (now site dir : Nat) : Option (Token × BitVec 64) :=
  if dir < 4 then
    match c.passFront now site dir with
    | some (t, r) => if feedsInput r dir then some (t, r) else none
    | none => none
  else
    let y := (c.site site).ctx ((dir - 4) / 4)
    if !(c.ctx ((dir - 4) / 4)).valid now then none else (bufFront now (y.entryBuf ((dir - 4) % 4))).map fun t => (t, y.route)

/-- The link on which a token that is not accepted leaves now. -/
def Core.steerDue (c : Core) (now site dir : Nat) : Option (Token × Nat) :=
  match c.inputFront now site dir with
  | some (t, r) => if !accepts r t && c.linkFree now site (routeFS r) then some (t, routeFS r) else none
  | none => none

/-- The front of the buffer that steering takes from leaves. -/
def Site.takeFront (x : Site) (now dir : Nat) : Site :=
  if dir < 4 then x.setBuf dir (bufTake now (x.buf dir))
  else x.modCtx ((dir - 4) / 4) fun y => y.setEntry ((dir - 4) % 4) (bufTake now (y.entryBuf ((dir - 4) % 4)))

/-- A token moved from an incoming buffer onto outgoing links at the end of the cycle. -/
def Core.moveToken (c : Core) (now site dir : Nat) (t : Token) (ds : List Nat) : Core :=
  let c := c.modSite site fun x => x.takeFront now dir
  ds.foldl (fun (c : Core) d => c.setFarBuf site d (bufPut now (c.farBuf site d) t)) c

/-- PASS_THROUGH. -/
def execPassThrough (core site dir : Nat) (s : State) : Host.Outcome State Fault Refusal :=
  let c := s.core core
  .next (if s.endPhase then s else match c.passDue s.cycle site dir with
    | some (t, ds) => s.setCore core (c.moveToken s.cycle site dir t ds)
    | none => s)

/-- STEERED_TOKEN. -/
def execSteeredToken (core site dir : Nat) (s : State) : Host.Outcome State Fault Refusal :=
  let c := s.core core
  .next (if s.endPhase then s else match c.steerDue s.cycle site dir with
    | some (t, d) => s.setCore core (c.moveToken s.cycle site dir t [d])
    | none => s)

/-! ### Beats and tile writes (R184, R250) -/

/-- WIDE_BEAT_PLACEMENT. -/
def execWideBeatPlacement (core idx : Nat) (s : State) : Host.Outcome State Fault Refusal :=
  let c := s.core core
  match c.wide[idx]? with
  | none => .next s
  | some w =>
    if !s.endPhase || s.cycle < w.due || (c.wide.take idx).any fun v => v.src == w.src then .next s else
    .next (s.setCore core (w.dests.foldl (fun (c : Core) k => c.modSite k fun x => { x with wb := x.wb ++ [w.beat] })
      { c with wide := dropAt c.wide idx }))

/-- TILE_WRITE. -/
def execTileWrite (core idx : Nat) (s : State) : Host.Outcome State Fault Refusal :=
  let c := s.core core
  match c.writes[idx]? with
  | none => .next s
  | some w =>
    if !s.endPhase || s.cycle < w.due || (c.writes.take idx).any fun v => v.tile == w.tile && decide (v.due ≤ s.cycle) then .next s else
    .next (s.setCore core ({ c with writes := dropAt c.writes idx }.tilePut (c.tile w.tile) w.off w.data))

/-! ### Chunks and journal copies (R259 to R261, R266) -/

/-- A chunk's results added to its two banks. -/
def Core.addChunk (c : Core) (k : Chunk) : Core :=
  let a := (c.bank k.bank).addChunk k.zero (k.q.take 512)
  let b := (c.bank (k.bank + 1)).addChunk k.zero (k.q.drop 512)
  let c := (c.modBank k.bank fun _ => a.1).modBank (k.bank + 1) fun _ => b.1
  let c := c.flag (k.flags ||| a.2 ||| b.2)
  { c with mtChunk := (c.mtChunk + 1) % 2 ^ 64 }

/-- CHUNK_COMPLETE: at the end of its cycle, after the earlier chunks of its matrix tile. -/
def execChunkComplete (core idx : Nat) (s : State) : Host.Outcome State Fault Refusal :=
  let c := s.core core
  match c.chunks[idx]? with
  | none => .next s
  | some k =>
    if !s.endPhase || s.cycle < k.due || (c.chunks.take idx).any fun j => j.site == k.site then .next s else
    .next (s.setCore core ({ c with chunks := dropAt c.chunks idx }.addChunk k))

/-- JOURNAL_COPY: the copy of a bank is made. -/
def execJournalCopy (core bank : Nat) (s : State) : Host.Outcome State Fault Refusal :=
  let c := s.core core
  match c.copies.find? fun p => p.1 == bank with
  | none => .next s
  | some p =>
    if !s.endPhase || s.cycle < p.2.1 then .next s else
    .next (s.setCore core ({ c with copies := c.copies.erase p, mtSaves := satAdd c.mtSaves 1 32 }.modBank bank fun b =>
      { b with journal := some b.words }))

end Sys2Proof.Machine
end

