-- ==== Sys2Proof/Machine/Resume.lean ====
section
/-! DEFINITION. Resumption at a safe point with a descriptor (R366). -/

namespace Sys2Proof.Machine

/-- The tokens of an injection into context k placed, and the thread is IN; an injection is a safe point (R356, R364). -/
def State.injectAt (s : State) (core k t : Nat) (b : BlockRef) (es : List RouteEntry) : State :=
  (s.modCore core fun c =>
    (es.foldl (fun (c : Core) e => c.putEntry s.cycle k e.site e.ch (c.entryToken k t e)) c).enterBlock s.cycle k t b).commitSafe core t |>.passPoint core t

/-- A thread's request for the commit area of a block (R138). -/
def Core.askArea (c : Core) (now k t : Nat) : Core :=
  c.join { kind := .commit, tid := t, pool := 15, size := (c.ctx k).commit, at_ := now }

/-- The injection into the stub (R366, step 1). -/
def State.injectStub (s : State) (core t : Nat) (b : BlockRef) : State :=
  let c := s.core core
  match c.resident s.cycle b with
  | none => s.setCore core (c.demand s.cycle b)
  | some k =>
    let es := (c.ctx k).entries
    if c.needsArea k t then s.setCore core (c.askArea s.cycle k t)
    else if !c.entryRoom s.cycle k es then s
    else match c.badSlot t es with
      | some n => s.slotError core t n b
      | none => (s.injectAt core k t b es).modThread core t fun th => { th with stubOut := (c.ctx k).liveout }

/-- The injection at the safe point itself (R366, steps 2 to 4): into a context loaded afresh, with its items restored. Its setup slots
fire as they come; one that writes a restored d-register overwrites it (log 65). -/
def State.injectSafe (s : State) (core k t : Nat) (b : BlockRef) (d : SafeDesc) : State :=
  let c := s.core core
  let th := c.thread t
  if !(c.ctx k).fresh then
    s.setCore core ((c.modCtx k fun x => { x with stale := true }).demand s.cycle b)
  else if c.needsArea k t then s.setCore core (c.askArea s.cycle k t)
  else
    let mask := d.lvmask ||| th.stubOut
    let es := (c.ctx k).entries.filter fun e => e.kind == 0 && mask.getLsbD e.slot
    if !c.entryRoom s.cycle k es then s
    else match c.badSlot t es with
      | some n => s.slotError core t n b
      | none =>
        let s := s.modCore core fun c => c.restoreItems k t th.items
        let s := s.injectAt core k t b es
        let tok : Token := { val := th.token.val, kind := .dat, tag := th.token.tag, ctx := k, tid := t }
        (s.modCore core fun c => c.putEntry s.cycle k d.site d.rin tok).modThread core t fun th =>
          { th with rstep := .none, stubOut := 0 }

/-- RESUME_INJECTION: the next waiter of the active block resumes at its safe point: its stub runs, then it is injected. -/
def execResumeInjection (core tid : Nat) (s : State) : Host.Outcome State Fault Refusal :=
  let c := s.core core
  match c.injectDue s.cycle with
  | none => .next s
  | some (b, k, t) =>
    let th := c.thread t
    if t != tid || th.rstep == .none then .next s else
    match th.resume.k.bind (c.ctx k).safe with
    | none => .next s
    | some d => match th.rstep, d.stub with
      | .stub, some n => .next (s.injectStub core t ⟨b.graph, n⟩)
      | _, _ => .next (s.injectSafe core k t b d)

end Sys2Proof.Machine
end

