-- ==== Sys2Proof/Machine/Save.lean ====
section
/-! DEFINITION. The save image (R139, R170, R372, R373) and its restore (R374). -/

namespace Sys2Proof.Machine

/-! ### Layouts (R139, R170) -/

/-- A staged live-out as its 32 bytes. -/
def AreaEntry.bytes (e : AreaEntry) : Bytes :=
  leBytes (e.data.toNat + e.pwa * 2 ^ 128 + e.mask.toNat * 2 ^ 216 + e.sent.toNat * 2 ^ 232 + e.scope * 2 ^ 233 + e.oper * 2 ^ 236) 32

def AreaEntry.ofNum (n id : Nat) : AreaEntry :=
  { oper := bits n 239 236, scope := bits n 235 233, signed := false, sent := bit n 232, mask := .ofNat 16 (bits n 231 216)
    pwa := bits n 171 128, data := .ofNat 128 n, id, node := 0xFFFF, held := false, go := bit n 232, vas := [] }

def TileState.code (t : TileState) : Nat :=
  match t with
  | .empty => 0
  | .filling => 1
  | .ready => 2
  | .draining => 3

def TileState.ofCode (n : Nat) : TileState :=
  match n with
  | 0 => .empty
  | 1 => .filling
  | 2 => .ready
  | _ => .draining

/-- A tile table entry as its 96 bits. -/
def Tile.pack (t : Tile) (pin : Bool) : Nat :=
  t.base * 2 ^ 18 + t.size * 2 ^ 33 + pin.toNat * 2 ^ 49 + t.wout.toNat * 2 ^ 50 + t.state.code * 2 ^ 51 + t.layout * 2 ^ 53
    + t.cons * 2 ^ 57 + t.owner * 2 ^ 65 + t.pool * 2 ^ 76 + t.gen * 2 ^ 80 + t.space * 2 ^ 84

def Tile.unpack (n : Nat) : Tile :=
  { base := bits n 32 18, size := bits n 48 33, wout := bit n 50, state := .ofCode (bits n 52 51), layout := bits n 56 53
    cons := bits n 64 57, owner := bits n 75 65, pool := bits n 79 76, gen := bits n 83 80, space := bits n 95 84, pinTo := 0 }

/-! ### Writing (R373) -/

/-- Whether a saved thread waits in a handler's vector. -/
def Thread.inHandler (t : Thread) : Bool := t.handler && (!t.hold || t.inVec)

/-- The image of a block, as its directory names it. -/
def State.blockImage (s : State) (b : BlockRef) : Option Image :=
  match s.imageBytes (s.graph b.graph).dir b.block with
  | .got bs _ => some (readImage bs)
  | _ => none

/-- Whether a block's image cannot be read now, for a line of it is on its way. -/
def State.imageBusy (s : State) (b : BlockRef) : Bool := match s.imageBytes (s.graph b.graph).dir b.block with
  | .busy => true
  | _ => false

/-- The slots that a thread's record holds: all of them in a handler, those of its safe point, or its block's live-ins. -/
def State.savedMask (s : State) (n : Nat) (t : Thread) : Nat :=
  if t.inHandler then 2 ^ n - 1 else
  match s.blockImage t.resume.blk with
  | none => 2 ^ n - 1
  | some m => match t.resume.k with
    | none => m.livein.toNat
    | some k => match m.safes.find? fun d => d.k == k with
      | some d => d.lvmask.toNat
      | none => 2 ^ n - 1

def Thread.stateCode (t : Thread) : Nat :=
  if t.inHandler && !t.hold then 0 else match t.st with
  | .waiting => 0
  | .gated => 1
  | .inBlock => 2
  | .parked => 3
  | .retired => 4

/-- A thread's record. -/
def State.threadRecord (s : State) (n tid : Nat) (t : Thread) : Bytes :=
  let mask := s.savedMask n t
  let items := t.items.filter fun i => i.1.type != 3
  let staged := t.area.filter fun e => e.oper == 8
  let g := match t.gate with
    | some g => (g.known.toNat, g.sync, g.phase)
    | none => (0, 0, 0)
  let h := if t.inHandler then (t.blk.graph, t.blk.block) else (0, 0)
  leBytes tid 2 ++ leBytes t.stateCode 1
    ++ leBytes (g.1 + t.hold.toNat * 2 + t.inHandler.toNat * 4 + t.record.isSome.toNat * 8) 1
    ++ leBytes t.resume.blk.block 2 ++ leBytes (t.resume.k.getD 0xFF) 1 ++ leBytes items.length 1
    ++ leBytes g.2.1 2 ++ leBytes g.2.2 2 ++ leBytes mask 4 ++ leBytes t.token.val.bits.toNat 16
    ++ leBytes ((List.range 32).map fun k => (tblGet ⟨mkVal 0, .raw⟩ t.slots k).tag.code * 16 ^ k).sum 16
    ++ leBytes t.token.tag.code 1 ++ leBytes staged.length 1 ++ leBytes h.1 2 ++ leBytes h.2 2 ++ leBytes 0 10
    ++ ((List.range 32).filter fun k => bit mask k).flatMap (fun k => leBytes (tblGet ⟨mkVal 0, .raw⟩ t.slots k).val.bits.toNat 16)
    ++ (match t.record with
      | some r => (List.range 4).flatMap fun k => leBytes (r.lv k).toNat 16
      | none => [])
    ++ items.flatMap (fun i => leBytes i.2 (if i.1.type = 1 then 16 else 32))
    ++ staged.flatMap fun e => { e with sent := true }.bytes

/-- Whether a thread's bit stands in its block's vector. -/
def Thread.inVector (t : Thread) : Bool := t.st == .waiting || t.st == .gated || (t.st == .parked && (t.inHandler || t.inVec))

/-- The blocks whose vectors hold a bit, and whether a handler's. -/
def Core.savedVectors (c : Core) : List (BlockRef × Bool) :=
  ((c.threads.filter fun t => t.2.inVector).map fun t => (t.2.blk, t.2.handler)).eraseDups

def Core.vectorRecord (c : Core) (v : BlockRef × Bool) : Bytes :=
  let bitsOf := (c.threads.filter fun t => t.2.inVector && t.2.blk == v.1 && t.2.handler == v.2).map fun t => 2 ^ t.1
  leBytes v.1.block 2 ++ leBytes v.1.graph 2 ++ leBytes v.2.toNat 1 ++ leBytes 0 11 ++ leBytes bitsOf.sum 256

def Core.tileRecord (c : Core) (now i : Nat) (t : Tile) : Bytes :=
  leBytes (t.pack (c.pinned now i)) 12 ++ leBytes i 2 ++ leBytes 0 2 ++ c.tileRead t 0 (32 * t.size)

def bankRecord (i : Nat) (b : Bank) (holder : Nat) : Bytes :=
  leBytes i 2 ++ leBytes holder 2 ++ leBytes b.first 2 ++ leBytes b.count 2 ++ leBytes 0 8
    ++ (List.range 128).flatMap fun w => leBytes (b.word w).toNat 16

/-- The whole image of a core's part. -/
def State.saveImage (s : State) (core : Nat) (p : RunPart) : Bytes :=
  let c := s.core core
  let vs := c.savedVectors
  let ts := c.threads.filter fun t => t.2.st != .retired
  let tiles := c.tiles.filter fun t => t.2.state != .empty
  let banks := c.banks.filterMap fun b => b.2.holder.map fun h => (b.1, b.2, h)
  let body := vs.flatMap c.vectorRecord ++ ts.flatMap (fun t => s.threadRecord p.slots t.1 t.2)
    ++ tiles.flatMap (fun t => c.tileRecord s.cycle t.1 t.2) ++ banks.flatMap fun b => bankRecord b.1 b.2.1 b.2.2
  leBytes 0x4B534156 4 ++ leBytes p.graph 2 ++ leBytes ts.length 2 ++ leBytes p.task 4 ++ leBytes p.part 4
    ++ ((List.range 8).flatMap fun k => leBytes (if (c.ctx k).valid s.cycle then (c.ctx k).blk.block + 2 ^ 15 else 0) 2)
    ++ leBytes vs.length 2 ++ leBytes tiles.length 2 ++ leBytes banks.length 2 ++ leBytes 0 2 ++ leBytes (64 + body.length) 4
    ++ leBytes 0 20 ++ body

/-- What R372 waits for before the image: no thread IN, every area acknowledged and freed, every gate registered; and nothing of the
scratchpad under way. -/
def Core.saveReady (c : Core) : Bool :=
  c.preempt.isSome && c.part.isSome && c.chunks.isEmpty && c.writes.isEmpty && c.endq.isEmpty && c.compact.isEmpty && c.copies.isEmpty
    && c.threads.all fun t => t.2.st != .inBlock && t.2.exiting.isNone && t.2.pending.isNone && t.2.runs.isEmpty && t.2.grown.isEmpty && t.2.past.isEmpty
      && (t.2.area.all fun e => e.oper == 8) && (match t.2.gate with
        | some g => g.known
        | none => true)

/-- The tile granted to a thread's ALLOC that has not fired since. -/
def Core.allocGrant (c : Core) (t : Nat) : Option (Nat × Nat × Nat) :=
  c.grants.findSome? fun g => match g.kind with
    | .alloc site _ slot _ => if g.tid == t then some (site, slot, g.num) else none
    | _ => none

/-- What the device keeps beside the image. -/
def Core.keptThreads (c : Core) : List SavedThread :=
  (c.threads.filter fun t => t.2.st != .retired
      && (t.2.moving || t.2.revoked || t.2.irrev || t.2.activation.isSome || (c.allocGrant t.1).isSome || t.2.handler || t.2.owed.isSome
        || t.2.hold)).map fun t =>
    ⟨t.1, t.2.moving, t.2.movedVa, t.2.revoked, t.2.irrev, t.2.activation, c.allocGrant t.1,
      if t.2.handler then some t.2.hblk else none, t.2.owed, t.2.hold, t.2.inVec, false⟩

/-- The task that a core's pre-emption holds it for. -/
def Core.holdFor (c : Core) : Option Nat := match c.preempt with
  | some (.hold t) => some t
  | _ => c.heldFor

/-- SAVE_IMAGE: the image is written at SVBASE, the part goes back to the front of its level, and the core is idle. -/
def execSaveImage (core : Nat) (s : State) : Host.Outcome State Fault Refusal :=
  let c := s.core core
  match c.part with
  | none => .next s
  | some p =>
    if !c.saveReady || (c.threads.any fun t => t.2.st != .retired && s.imageBusy t.2.resume.blk) then .next s else
    let img := s.saveImage core p
    let pa := c.svBase
    if !s.quietSpan pa img.length || !inHbm pa || !inHbm (pa + img.length - 1) then .next s else
    let r : Ready := ⟨p.task, p.part, p.space, some pa, c.keptThreads⟩
    let s := (s.cohWrite pa img).dropCoreWaits core
    let s := s.modCore core fun c =>
      { c.clearPart.freeAll s.cycle with
        ctxs := [], svSaves := satAdd c.svSaves 1 32, svSize := img.length, heldFor := c.holdFor }
    .next (s.modDie (dieOf core) fun d => { d with ready := tblSet d.ready p.level (r :: tblGet [] d.ready p.level) })

/-! ### Reading (R374) -/

def imgBit (b : Bytes) (i k : Nat) : Bool := bit (imgNum b i 1) k

/-- A thread rebuilt from its record, and the bytes after it. The items are those of its safe point's descriptor. -/
def State.readThread (s : State) (now graph n nextId : Nat) (kept : List SavedThread) (b : Bytes) : Nat × Thread × Bytes :=
  let tid := imgNum b 0 2
  let gate := imgBit b 3 0
  let x := kept.find? fun x => x.tid == tid
  let retry := (x.map (·.retry)).getD false
  let hold := imgBit b 3 1 && !retry
  let hnd := imgBit b 3 2 && !retry
  let rec_ := imgBit b 3 3
  let k := imgNum b 6 1
  let mask := imgNum b 12 4
  let ks := (List.range 32).filter fun i => bit mask i
  let at1 := 64 + 16 * ks.length
  let at2 := if rec_ then at1 + 64 else at1
  let home : BlockRef := ⟨graph, imgNum b 4 2⟩
  let resume : Resume := ⟨home, if k = 0xFF then none else some k⟩
  let items := if k = 0xFF then [] else match s.blockImage home with
    | some m => match m.safes.find? fun d => d.k == k with
      | some d => d.items.filter fun i => i.type != 3
      | none => []
    | none => []
  let (vals, at3) := items.foldl (fun (p : List (SafeItem × Nat) × Nat) i =>
    let z := if i.type = 1 then 16 else 32
    (p.1 ++ [(i, imgNum b p.2 z)], p.2 + z)) ([], at2)
  let nst := imgNum b 49 1
  let staged := (List.range nst).map fun i => AreaEntry.ofNum (imgNum b (at3 + 32 * i) 32) (nextId + i)
  let slots : Tbl Slot := (List.range n).filterMap fun i =>
    let tag := Fmt.ofCode (bits (imgNum b 32 16) (4 * i + 2) (4 * i))
    match findIdx ks fun j => j == i with
    | some (j, _) => some (i, ⟨mkVal (.ofNat 128 (imgNum b (64 + 16 * j) 16)), tag⟩)
    | none => none
  let record := if rec_ then some (FaultRec.ofLv (imgNum b at1 16) (imgNum b (at1 + 16) 16) (imgNum b (at1 + 32) 16) (imgNum b (at1 + 48) 16))
    else none
  let named : BlockRef := ⟨imgNum b 50 2, bits (imgNum b 52 2) 11 0⟩
  let entered := if retry then none else x.bind (·.hblk)
  let t : Thread := { Thread.none with
    st := if hold then .parked else if hnd then .waiting else if gate then .gated else .waiting
    blk := if hnd then named else home
    resume, token := ⟨mkVal (.ofNat 128 (imgNum b 16 16)), Fmt.ofCode (bits (imgNum b 48 1) 2 0)⟩
    rstep := if hnd || k = 0xFF then .none else .stub
    items := vals, slots, record := if retry then none else record, handler := hnd || entered.isSome, hblk := entered.getD named
    owed := x.bind (·.owed), inVec := hold && (x.map (·.inVec)).getD false, area := staged
    gate := if gate then some ⟨imgNum b 8 2, imgNum b 10 2, true⟩ else none
    wakeAt := now + 1, hold
    moving := hold && (x.map (·.moving)).getD false, movedVa := (x.map (·.movedVa)).getD 0, revoked := hold && (x.map (·.revoked)).getD false
    irrev := (x.map (·.irrev)).getD false, activation := x.bind (·.activation) }
  (tid, t, b.drop (at3 + 32 * nst))

/-- The thread records, one after another. -/
def State.readThreads (s : State) (now graph n k nextId : Nat) (kept : List SavedThread) (b : Bytes) (acc : Tbl Thread) : Tbl Thread × Bytes :=
  match k with
  | 0 => (acc, b)
  | k + 1 =>
    let r := s.readThread now graph n nextId kept b
    s.readThreads now graph n k (nextId + 32) kept r.2.2 (tblSet acc r.1 r.2.1)

/-- A tile's record placed: in its entry, on the lowest free run of its pool. -/
def Core.readTiles (c : Core) (now k : Nat) (b : Bytes) : Core × Bytes :=
  match k with
  | 0 => (c, b)
  | k + 1 =>
    let t := Tile.unpack (imgNum b 0 12)
    let i := bits (imgNum b 12 2) 11 0
    let base := (c.findRun now t.pool t.size).getD t.base
    let t := { t with base }
    let c := (c.modTile i fun _ => t).tilePut t 0 ((b.drop 16).take (32 * t.size))
    c.readTiles now k (b.drop (16 + 32 * t.size))

def Core.readBanks (c : Core) (k : Nat) (b : Bytes) : Core :=
  match k with
  | 0 => c
  | k + 1 =>
    let c := c.modBank (imgNum b 0 2) fun x => { x with
      holder := some (imgNum b 2 2), first := imgNum b 4 2, count := imgNum b 6 2, journal := none, jrun := none
      words := (List.range 128).map fun w => (w, .ofNat 128 (imgNum b (16 + 16 * w) 16)) }
    c.readBanks k (b.drop 2064)

/-- What reading a sync entry's phase answers: not yet, nothing for an entry that cannot be read, or the phase. -/
inductive PhaseRead where
  | busy
  | none
  | phase (p : Nat)
  deriving DecidableEq, Repr

/-- The phase that a sync entry holds now. -/
def State.syncPhase (s : State) (k : Nat) : PhaseRead :=
  match (s.die (syncDie k)).syncEntry (syncIndex k) with
  | some e => .phase e.phase
  | none => match s.devRead (s.syncAddr (syncDie k) (syncIndex k)) 16 with
    | .got bs _ => .phase (SyncEntry.ofBits (.ofNat 128 (leNat bs))).phase
    | .bad _ _ => .none
    | .busy => .busy

/-- A restored gate recorded again at its entry's home, or open when its phase has been released meanwhile. -/
def State.regate (s : State) (core tid : Nat) : State :=
  match ((s.core core).thread tid).gate with
  | none => s
  | some g =>
    let open_ := match s.syncPhase g.sync with
      | .phase p => p != g.phase
      | _ => false
    if open_ then s.modThread core tid fun th => { th with st := if th.st == .gated then .waiting else th.st, gate := none, wakeAt := s.cycle + 1 }
    else s.modDie (syncDie g.sync) fun d => { d with gates := d.gates ++ [⟨syncIndex g.sync, g.phase, core, tid⟩] }

/-- The thread records of an image, rebuilt, and the bytes after them. -/
def State.imageThreads (s : State) (core : Nat) (p : RunPart) (kept : List SavedThread) (img : Bytes) : Tbl Thread × Bytes :=
  s.readThreads s.cycle (imgNum img 4 2) p.slots (imgNum img 6 2) (s.core core).nextId kept (img.drop (64 + 272 * imgNum img 0x20 2)) []

/-- Whether all that a restore reads beside the image can be read now: the descriptors of the threads' safe points, and the phases of their
gates. -/
def State.restoreReady (s : State) (ts : Tbl Thread) : Bool :=
  ts.all fun t => (t.2.resume.k.isNone || !s.imageBusy t.2.resume.blk) && (match t.2.gate with
    | some g => s.syncPhase g.sync != .busy
    | none => true)

/-- A part's state put back on a core from its image. The core's part and pools stand already. -/
def State.restore (s : State) (core : Nat) (p : RunPart) (kept : List SavedThread) (img : Bytes) : State :=
  let c := s.core core
  let (ts, b) := s.imageThreads core p kept img
  let (c, b) := c.readTiles s.cycle (imgNum img 0x22 2) b
  let c := c.readBanks (imgNum img 0x24 2) b
  let grants := kept.filterMap fun x => x.grant.map fun g => (⟨.alloc g.1 0 g.2.1 (c.tile g.2.2).layout, x.tid, g.2.2⟩ : Grant)
  let s := s.setCore core { c with threads := ts, grants, nextId := c.nextId + 32 * imgNum img 6 2 }
  ts.foldl (fun (s : State) t => s.regate core t.1) s

end Sys2Proof.Machine
end

