-- ==== Sys2Proof/Machine/Distributor.lean ====
section
/-! DEFINITION. The task distributor: dispatch, parts on cores, pre-emption and resumption (R309, R310, R337 to R339, R371, R372, R414), and
FREEZE and THAW (R375 to R378). -/

namespace Sys2Proof.Machine

/-! ### Cores for a part (R338, R404) -/

/-- Whether a core is its die's service core and not yet released: a release acts from the cycle after its write (R404). -/
def State.isService (s : State) (core : Nat) : Bool :=
  let d := s.die (dieOf core)
  core % 96 == d.svcCore && !(d.svcRel && decide (d.svcRelAt < s.cycle))

/-- Whether R338 allows a task to run on a core. -/
def State.mayRun (s : State) (t : Task) (core : Nat) : Bool :=
  !(s.core core).disabled && (match hintCore t.record with
    | some k => k == core
    | none => true)
    && (!s.isService core || (t.priv && hintCore t.record == some core))

/-- Whether a core is idle for a task: it has no part, and is held for no other task. -/
def State.idleFor (s : State) (core h : Nat) : Bool :=
  let c := s.core core
  c.part.isNone && c.preempt.isNone && (match c.heldFor with
    | some x => x == h
    | none => true)

def dieCores (d : Nat) : List Nat := (List.range 96).map (96 * d + ·)

/-- The lowest idle core that may run a task. -/
def State.coreFor (s : State) (d h : Nat) (t : Task) : Option Nat :=
  (dieCores d).find? fun k => s.mayRun t k && s.idleFor k h

/-! ### Queue heads (R338, R375) -/

/-- The task of a ready element. -/
def State.readyTask (s : State) (r : Ready) : Task := s.task (bits r.task 13 12) (bits r.task 11 0)

/-- The head of a level: its first element whose space is not frozen, with its place. -/
def State.levelHead (s : State) (d level : Nat) : Option (Nat × Ready) :=
  findIdx (tblGet [] (s.die d).ready level) fun r => !s.frozen.contains r.space

/-- The copy or gather/scatter queue that takes a task's message: of the core with the most free entries, the lowest on a tie. A
service core that is not released is not available to a tenant's task (R18). -/
def State.engineFor (s : State) (d kind : Nat) (priv : Bool) : Option Nat :=
  let q := fun (k : Nat) => 4 * k + (if kind = 1 then 0 else 2)
  match leastBy (fun k => 16 - s.queueRoom (q k)) ((dieCores d).filter fun k => !(s.core k).disabled && (priv || !s.isService k)) with
  | some k => if s.queueRoom (q k) = 0 then none else some (q k)
  | none => none

/-- Whether an engine task must first hold the core that its hint names (R371). -/
def Task.holds (t : Task) (level : Nat) : Option Nat :=
  if 56 ≤ level && recKind t.record != 0 then hintCore t.record else none

/-- What the head of a level can do now: start a part on a core, or send its message to a queue. -/
inductive Dispatch where
  | part (core : Nat)
  | job (queue : Nat)
  deriving DecidableEq, Repr

def State.canDispatch (s : State) (d level : Nat) (r : Ready) : Option Dispatch :=
  let t := s.readyTask r
  match recKind t.record with
  | 0 => (s.coreFor d r.task t).map .part
  | k =>
    if (match t.holds level with
      | some c => !s.idleFor c r.task
      | none => false) then none
    else if k = 3 then (if s.queueRoom (s.collectQueue d) = 0 then none else some (.job (s.collectQueue d)))
    else (s.engineFor d k t.priv).map .job

/-- The highest level whose head can be dispatched; a head that cannot lets lower levels pass. -/
def State.nextDispatch (s : State) (d : Nat) : Option (Nat × Nat × Ready × Dispatch) :=
  ((List.range 64).reverse).findSome? fun level => match s.levelHead d level with
    | some (i, r) => (s.canDispatch d level r).map fun x => (level, i, r, x)
    | none => none

def State.dropReady (s : State) (d level i : Nat) : State :=
  s.modDie d fun x => { x with ready := tblSet x.ready level (dropAt (tblGet [] x.ready level) i) }

/-- A task some of whose parts run. -/
def State.setRunning (s : State) (h : Nat) : State := s.modTask (bits h 13 12) (bits h 11 0) fun t => { t with st := .running }

/-! ### Starting a part (R175, R309, R310, R337) -/

/-- The pools of a part: 0 to 14 from its descriptor in ascending order, and pool 15 the rest. -/
def poolLayout (ps : List (Nat × Nat)) : Tbl Pool :=
  let step := fun (acc : Tbl Pool × Nat) (k : Nat) =>
    let p := ps.getD k (0, 0)
    (acc.1 ++ [(k, (⟨acc.2, p.1, p.2⟩ : Pool))], acc.2 + p.1)
  let r := (List.range 15).foldl step ([], 0)
  r.1 ++ [(15, ⟨r.2, 32768 - r.2, 0⟩)]

/-- The threads of part j of a task. -/
def partThreads (cap threads j : Nat) : Nat := min ((j + 1) * cap) threads - j * cap

/-- The place of the next part to be dispatched in the order of dispatch, after every part that the cores now run. -/
def State.nextPlace (s : State) (core : Nat) : Nat :=
  ((dieCores (dieOf core)).foldl (fun (n k : Nat) => match (s.core k).part with
    | some p => max n p.started
    | none => n) 0) + 1

/-- A part placed on a core. -/
def State.placePart (s : State) (core level : Nat) (r : Ready) (t : Task) : State × RunPart :=
  let l := s.graphSlots (recGraph t.record)
  let cap := partCap l
  let p : RunPart :=
    { task := r.task, part := r.part, level, graph := recGraph t.record, space := recSpace t.record, priv := t.priv, session := t.session
      count := partThreads cap (recThreads t.record) r.part, slots := l, entry := recEntry t.record, args := recArgs t.record
      pools := t.pools, map := t.map, started := s.nextPlace core }
  (s.modCore core fun c => { c with
    part := some p, pools := poolLayout t.pools, preempt := none, heldFor := none, active := none, vecs := [], cached := [], idleFrom := s.cycle },
   p)

/-- The threads of a part at its entry, with the slots read for them. -/
def startThreads (now : Nat) (p : RunPart) (bs : Bytes) : Tbl Thread :=
  (List.range p.count).map fun t =>
    let b : BlockRef := ⟨p.graph, p.entry⟩
    (t, { Thread.none with
      st := .waiting, blk := b, resume := ⟨b, none⟩, wakeAt := now + 1, safeAt := now
      slots := (List.range p.slots).map fun k => (k, ⟨mkVal (.ofNat 128 (recNum bs (16 * (p.slots * t + k)) 16)), .raw⟩) })

/-- A dispatch read that fails freezes the task's space; the notice names the task, the part and the address; the part or task goes
back to the front of its level's queue (R414). -/
def State.dispatchFault (s : State) (d level i core : Nat) (r : Ready) (f : FaultRec) : State :=
  let s := s.modDie d fun x => { x with ready := tblSet x.ready level (r :: dropAt (tblGet [] x.ready level) i) }
  s.freezeTelling core r.space [r.space, f.code, r.task, r.part, f.addr]

/-- A part started on a core, or its failed read. -/
def State.startPart (s : State) (d level i core : Nat) (r : Ready) : State :=
  let t := s.readyTask r
  let l := s.graphSlots (recGraph t.record)
  let cap := partCap l
  let n := partThreads cap (recThreads t.record) r.part
  let a : Actor := { core, die := d, space := recSpace t.record, priv := t.priv }
  match s.taskRead a (recArgs t.record + 16 * l * r.part * cap) (16 * l * n) with
  | .error .busy => s
  | .error (.fault f s) => s.dispatchFault d level i core r f
  | .ok (bs, s) =>
    let (s, p) := ((s.dropReady d level i).setRunning r.task).placePart core level r t
    s.modCore core fun c => { c with threads := startThreads s.cycle p bs }

/-- A task's message read and queued. -/
def State.startJob (s : State) (d level i queue : Nat) (r : Ready) : State :=
  let t := s.readyTask r
  let core := if queue < 1536 then queue / 4 else 96 * d + (s.die d).svcCore
  let a : Actor := { core, die := d, space := recSpace t.record, priv := t.priv }
  match s.taskRead a (recArgs t.record) 64 with
  | .error .busy => s
  | .error (.fault f s) => s.dispatchFault d level i core r f
  | .ok (bs, s) =>
    let j := { Job.mk0 bs queue core (recSpace t.record) t.priv noTid with task := some r.task, map := t.map, graph := recGraph t.record }
    let s := ((s.dropReady d level i).setRunning r.task).setJobQueue queue (s.jobQueue queue ++ [j])
    match t.holds level with
    | some c => s.modCore c fun x => { x with heldFor := some r.task }
    | none => s

/-- TASK_DISPATCH: the head of the highest level that can start does. A part that was pre-empted is started by `execResumption`. -/
def execTaskDispatch (die : Nat) (s : State) : Host.Outcome State Fault Refusal :=
  match s.nextDispatch die with
  | some (level, i, r, .part core) => .next (if r.saved.isSome then s else s.startPart die level i core r)
  | some (level, i, r, .job q) => .next (s.startJob die level i q r)
  | none => .next s

/-- RESUMPTION: a pre-empted part is dispatched to a core and its image is read back. -/
def execResumption (core : Nat) (s : State) : Host.Outcome State Fault Refusal :=
  let die := dieOf core
  match s.nextDispatch die with
  | some (level, i, r, .part k) =>
    if k != core then .next s else
    match r.saved with
    | none => .next s
    | some pa =>
      match s.devRead pa 64 with
      | .got h s =>
        match s.devRead pa (imgNum h 0x28 4) with
        | .got img s =>
          let t := s.readyTask r
          let (u, p) := ((s.dropReady die level i).setRunning r.task).placePart core level r t
          .next (if u.restoreReady (u.imageThreads core p r.kept img).1 then u.restore core p r.kept img else s)
        | _ => .next s
      | _ => .next s
  | _ => .next s

/-! ### Parts that end (R333) -/

/-- Whether a core's part is complete: every thread has retired, and every area is acknowledged and freed. -/
def Core.partDone (c : Core) : Bool :=
  c.part.isSome && c.activations.isEmpty && c.threads.all fun t =>
    t.2.st == .retired && t.2.area.isEmpty && t.2.runs.isEmpty && t.2.past.isEmpty && t.2.exiting.isNone && t.2.pending.isNone

/-- Parts that have completed leave their cores, at the end of a cycle. -/
def State.finishParts (s : State) : State :=
  s.cores.foldl (fun (s : State) (k : Nat × Core) =>
    let c := s.core k.1
    match c.part with
    | some p => if c.partDone then (s.modCore k.1 fun c => { c.clearPart with heldFor := c.holdFor }).taskStep p.task else s
    | none => s) s

/-! ### Pre-emption (R339, R371, R372) -/

/-- The level of the work that a core runs. -/
def Core.level (c : Core) : Nat := match c.part with
  | some p => p.level
  | none => 0

/-- Which of two cores is pre-empted: the lower level, then the one dispatched later. -/
def Core.victimKey (c : Core) : Nat := match c.part with
  | some p => p.level * 2 ^ 64 + (2 ^ 64 - 1 - p.started % 2 ^ 64)
  | none => 2 ^ 80

/-- Whether a core's pre-emption begins at the end of this cycle. -/
def Core.asksPark (c : Core) : Bool := c.endq.any fun e => match e with
  | .preempt _ => true
  | _ => false

/-- The core that the head of a level pre-empts, and what for: a part's by R339, whether HINT.CORE names it or not, and a task's of another kind
by R371 (log 81). -/
def State.victimOf (s : State) (d level : Nat) (r : Ready) : Option (Nat × PreemptFor) :=
  let t := s.readyTask r
  let busy := fun (k : Nat) => (s.core k).part.isSome && (s.core k).preempt.isNone && !(s.core k).asksPark
  if recKind t.record = 0 then
    if (s.coreFor d r.task t).isSome then none else
    let may := (dieCores d).filter fun k => s.mayRun t k
    if may.any fun k => (s.core k).preempt.isSome || (s.core k).asksPark then none else
    (leastBy (fun k => (s.core k).victimKey) (may.filter fun k => busy k && decide ((s.core k).level + 8 ≤ level))).map fun k =>
      (k, .distributor)
  else match t.holds level with
    | some k => if busy k && (s.core k).heldFor.isNone then some (k, .hold r.task) else none
    | none => none

/-- What pre-empts a core now, from the highest level down. -/
def State.preemptNow (s : State) (core : Nat) : Option PreemptFor :=
  let d := dieOf core
  ((List.range 64).reverse).findSome? fun level => match s.levelHead d level with
    | some (_, r) => match s.victimOf d level r with
      | some (k, f) => if k = core then some f else none
      | none => none
    | none => none

/-- PREEMPTION_REQUEST: at the end of the cycle injection on the core stops, and from the next one on every site sees pre-emption
pending (R372). -/
def execPreemptionRequest (core : Nat) (s : State) : Host.Outcome State Fault Refusal :=
  .next (match s.preemptNow core with
    | some f => if s.endPhase || (s.core core).asksPark then s else s.modCore core fun c => { c with endq := c.endq ++ [.preempt f] }
    | none => s)

/-! ### FREEZE and THAW (R377, R378) -/

/-- Whether every thread of a space is parked and every job of it held: a job that has not moved its bytes stands still. -/
def State.frozenDone (s : State) (sp : Nat) : Bool :=
  (s.freezing.all fun m => m.space != sp)
    && (s.cores.all fun (k : Nat × Core) => !k.2.runs_ sp || k.2.threads.all fun t => t.2.st != .inBlock && t.2.exiting.isNone)
    && s.dies.all fun (d : Nat × Die) => d.2.jobs.all fun j => j.space != sp || !j.moved

/-- The FREEZE instructions whose space stands still answer DONE, at the end of a cycle. -/
def State.finishFreezes (s : State) : State :=
  let (done, left) := s.freezeOps.partition fun f => s.frozenDone f.2
  done.foldl (fun (s : State) f => s.status f.1 0) { s with freezeOps := left }

/-- FREEZE. -/
def execFreeze (w : SlotWord) (s : State) : Host.Outcome State Fault Refusal := .next (fireRange s w 5 fun _ => 0)

/-- THAW: SB bits [31:2] must be 0. -/
def execThaw (w : SlotWord) (s : State) : Host.Outcome State Fault Refusal := .next (fireRange s w 6 fun o => lane o.b 32 0)

end Sys2Proof.Machine
end

