-- ==== Sys2Proof/Machine/Slices.lean ====
section
/-! DEFINITION. The crossbar and the slices: packets sent (R114, R115), requests at the home and at a proxy (R117 to R125), what the
first-level caches do with the packets that reach them (R119, R124, R127 to R129), and error replies (R85, R86). -/

namespace Sys2Proof.Machine

/-! ### Sending (R114, R115) -/

/-- The core or slice at the reading end of a channel takes a packet. -/
def State.arriveAt (s : State) (chan : Nat) (p : Pkt) : State :=
  if chan < 128 then s.toSlice chan p else s.modCore p.dst fun c => { c with inbox := c.inbox ++ [{ p with came := s.cycle }] }

/-- The writers of a channel: 28 of a home channel, 32 of a reply channel (R113). -/
def writersOf (chan : Nat) : Nat := if chan < 128 then 28 else 32

/-- PACKET_SEND: the writer that holds the channel's optical token sends its oldest packet, and the token goes on. -/
def execPacketSend (chan : Nat) (s : State) : Host.Outcome State Fault Refusal :=
  if 240 ≤ chan then .next s else
  let c := s.chan chan
  let s1 := s.setChan chan { c with token := (c.token + 1) % writersOf chan }
  match tblGet [] c.fifo c.token with
  | [] => .next s1
  | p :: rest => .next ((s1.setChan chan { token := (c.token + 1) % writersOf chan, fifo := tblSet c.fifo c.token rest }).arriveAt chan p)

/-! ### What a line waits for -/

/-- Nothing waited for. -/
def Pend.none : Pend := { hbm := false, rcl := false, ask := false, home := false, acks := [], done := .none }

/-- The pending state changed; a line that waits for nothing is not pending. -/
def Line.modPend (x : Line) (f : Pend → Pend) : Line :=
  let p := f (x.pend.getD Pend.none)
  { x with pend := if p == Pend.none then .none else some p }

/-- Whether the line waits for its owner, or for acknowledgements. -/
def Line.busyLocal (x : Line) : Bool := match x.pend with
  | some p => p.rcl || p.ask || !p.acks.isEmpty
  | none => false

def State.dropPkt (s : State) (n idx : Nat) : State := s.modSlice n fun x => { x with inbox := dropAt x.inbox idx }

/-- Whether a packet is the first of its line among those of a slice that a test picks (R121). -/
def firstOf (inbox : List Pkt) (idx l : Nat) (pick : Pkt → Bool) : Bool := (inbox.take idx).all fun q => q.line != l || !pick q

/-- The counter of a slice raised (R123). -/
def State.tag (s : State) (n : Nat) : Nat × State :=
  let t := ((s.slice n).seq + 1) % 2 ^ 32
  (t, s.modSlice n fun x => { x with seq := t })

/-- A packet about a line from a slice to a core or die. -/
def State.sendTo (s : State) (n : Nat) (p : Pkt) (dst : Nat) : State := s.reply n { p with dst }

/-- The cores and dies that a sharer vector names (R118, R119). -/
def sharersOf (d l : Nat) (v : BitVec 27) : List Nat :=
  ((List.range 24).filter fun b => v.getLsbD b).flatMap (fun b => (List.range 4).map fun i => 96 * d + 4 * b + i)
    ++ ((List.range 3).filter fun j => v.getLsbD (24 + j)).map fun j => 384 + (lineDie l + 1 + j) % 4

/-- Invalidations sent to some of a line's sharers, and waited for; with `all`, to the owner too, which drops its copy whatever its state. -/
def State.sendInvals (s : State) (n d l : Nat) (some_ : BitVec 27) (all : Bool) : State :=
  let x := s.entry d l
  let own := if all && x.st.owns then [x.owner] else []
  let who := (sharersOf d l some_ ++ own).eraseDups
  let s := s.setEntry d l (x.modPend fun p => { p with acks := who })
  let s := s.modSlice n fun y => { y with inv := satAdd y.inv (popCount some_ + own.length) 32 }
  who.foldl (fun s k => s.sendTo n { Pkt.mk0 .inval l 0 k with dirty := all } k) s

/-- The sharers of a line other than the requester of its ownership (R120): a die that asks is none of them; a core's cluster is, for the
other cores of it. -/
def Line.others (x : Line) (l who : Nat) : BitVec 27 :=
  if 384 ≤ who then setSharer x.sharers (sharerBit l who) false else x.sharers

/-- A recall sent to the owner, and waited for. -/
def State.sendRecall (s : State) (n d l : Nat) : State :=
  let x := s.entry d l
  let s := s.setEntry d l (x.modPend fun p => { p with rcl := true })
  let s := s.modSlice n fun y => { y with recalls := satAdd y.recalls 1 32 }
  s.sendTo n (Pkt.mk0 .recall l 0 x.owner) x.owner

/-- The owner asked for the line, and waited for. -/
def State.sendAsk (s : State) (n d l : Nat) : State :=
  let x := s.entry d l
  (s.setEntry d l (x.modPend fun p => { p with ask := true })).sendTo n (Pkt.mk0 .ask l 0 x.owner) x.owner

/-- The error reply of a read (R84, R85). -/
def State.sendError (s : State) (n : Nat) (p : Pkt) (addr : Nat) : State :=
  s.sendTo n { Pkt.mk0 .error p.line 0 p.src with id := p.id, tid := p.tid, addr, persist := true, keep := p.kind == .getx } p.src

/-- The line sent to a requester (R120). -/
def State.sendLine (s : State) (n : Nat) (p : Pkt) (bs : Bytes) : State :=
  s.sendTo n { Pkt.mk0 .loadReply p.line 0 p.src with id := p.id, tid := p.tid, lineData := bs, hasData := true } p.src

/-- A packet served: gone from the slice, and counted where HBM was not read for it (R133). -/
def State.served (s : State) (n idx : Nat) (p : Pkt) : State :=
  if p.persist then s.dropPkt n idx else (s.dropPkt n idx).hit n

/-- An absent line read for a packet (R84, R401, R412): installed as zeros in the boot window, refused where HBM answers nothing, left
waiting while its pseudo-channel is retrained or the slice has no room, or asked of HBM. -/
def State.fetchFor (s : State) (n idx : Nat) (p : Pkt) : State :=
  let x := s.line p.line
  let install := fun (poison : BitVec 8) => if !s.roomAt n then s else
    (s.makeRoom n).modLine p.line fun x => { x with data := some (List.replicate 128 0), dirty := true, poison, dev := none }
  match s.hbmAnswer p.line with
  | .zeros => install 0
  | .error => match p.kind with
    | .gets | .getx => (s.sendError n p (128 * p.line)).dropPkt n idx
    | _ => install 0xFF
  | .wait => s
  | .serve =>
    let s := s.setLine p.line ((x.modPend fun q => { q with hbm := true }).ask s.cycle)
    s.modSlice n fun y => { y with misses := (y.misses + 1) % 2 ^ 64, inbox := setAt y.inbox idx { p with persist := true } }

/-! ### Requests at the home (R120 to R123) -/

/-- A request that is the oldest of its line at the home, while the line is not pending. -/
def State.homeReq (s : State) (n idx : Nat) (kind : PktKind → Bool) : Option (Pkt × Line) :=
  let inbox := (s.slice n).inbox
  match inbox[idx]? with
  | some p =>
    let x := s.line p.line
    if kind p.kind && homeSlice p.line == n && x.pend.isNone && firstOf inbox idx p.line (fun _ => true) then some (p, x) else none
  | none => none

/-- GETS_PACKET. -/
def execGetsPacket (slice : Nat) (at_ : SliceRead) (s : State) : Host.Outcome State Fault Refusal :=
  match s.homeReq slice at_.idx (· == .gets) with
  | none => .next s
  | some (p, x) =>
    if x.st.owns then .next (s.sendAsk slice (lineDie p.line) p.line) else
    let s := s.sliceEcc slice (lineDie p.line) p.line at_.ecc
    let x := s.line p.line
    match x.data with
    | none => .next (s.fetchFor slice at_.idx p)
    | some bs =>
      if x.poison != 0 then .next ((s.sendError slice p (firstBad p.line x.poison)).served slice at_.idx p) else
      .next (((s.setLine p.line { x with st := .s, sharers := setSharer x.sharers (sharerBit p.line p.src) true }).sendLine slice p bs).served
        slice at_.idx p)

/-- GETX. -/
def execGetx (slice : Nat) (at_ : SliceRead) (s : State) : Host.Outcome State Fault Refusal :=
  match s.homeReq slice at_.idx (· == .getx) with
  | none => .next s
  | some (p, x) =>
    let l := p.line
    let mine := x.st.owns && x.owner == p.src
    if x.st.owns && !mine then .next (s.sendRecall slice (lineDie l) l) else
    let s := if mine then s else s.sliceEcc slice (lineDie l) l at_.ecc
    let x := s.line l
    if !mine && x.data.isNone then .next (s.fetchFor slice at_.idx p)
    else if !mine && x.poison != 0 then .next ((s.sendError slice p (firstBad l x.poison)).served slice at_.idx p)
    else if x.others l p.src != 0 then .next (s.sendInvals slice (lineDie l) l (x.others l p.src) false)
    else
      let (t, s) := s.tag slice
      let s := s.setLine l { x with st := if mine then .m else .e, owner := p.src, sharers := 0 }
      .next ((s.sendTo slice { Pkt.mk0 .grant l 0 p.src with
        id := p.id, tid := p.tid, tag := t, hasData := !mine, lineData := if mine then [] else x.data.getD [] } p.src).served slice at_.idx p)

/-- A reduction applied to one word of a line, by its operation; a poisoned word is left (R86). -/
def Line.reduce (x : Line) (p : Pkt) (op : Nat) : Line × BitVec 5 :=
  match x.data with
  | none => (x, 0)
  | some bs =>
    if x.poison.getLsbD p.word then (x, 0) else
    let off := match [0, 4, 8, 12].find? fun i => p.mask.getLsbD i with
      | some i => i
      | none => 0
    let old := leNat ((bs.drop (16 * p.word + off)).take 4)
    let r := atomicWord op p.keep old (bits p.data.toNat (8 * off + 31) (8 * off))
    ({ x with data := some (putSlice bs (16 * p.word + off) (leBytes r.1 4)), dirty := true }, r.2)

/-- A STORE or RED performed at the home: owners are recalled first, then it is performed, sharers are invalidated, and it is
acknowledged when no copy of the old value remains (R120, R122). -/
def State.performWrite (s : State) (slice idx : Nat) (p : Pkt) (ecc : Ecc) : State :=
  let l := p.line
  if (s.line l).st.owns then s.sendRecall slice (lineDie l) l else
  let s := s.sliceEcc slice (lineDie l) l ecc
  let x := s.line l
  if x.data.isNone then s.fetchFor slice idx p
  else
    let (t, s) := s.tag slice
    let (y, flags) := match p.kind with
      | .red op => x.reduce p op
      | _ => (x.store p.word p.mask p.data, 0)
    let ack := { Pkt.mk0 .storeAck l 0 p.src with dst := p.src, id := p.id, tid := p.tid, tag := t, data := flags.setWidth 128 }
    let s := (s.setLine l y).served slice idx p
    if x.sharers = 0 then (s.modLine l fun y => { y with st := .i }).sendTo slice ack p.src
    else
      let s := s.sendInvals slice (lineDie l) l x.sharers false
      s.modLine l fun y => { y with st := .i }.modPend fun q => { q with done := some ack }

/-- STORE. -/
def execStore (slice : Nat) (at_ : SliceRead) (s : State) : Host.Outcome State Fault Refusal :=
  match s.homeReq slice at_.idx (· == .store) with
  | none => .next s
  | some (p, _) => .next (s.performWrite slice at_.idx p at_.ecc)

/-- RED. -/
def execRedPacket (slice : Nat) (at_ : SliceRead) (s : State) : Host.Outcome State Fault Refusal :=
  match s.homeReq slice at_.idx (fun k => match k with
    | .red _ => true
    | _ => false) with
  | none => .next s
  | some (p, _) => .next (s.performWrite slice at_.idx p at_.ecc)

/-- Whether an owner's packet may be handled: it answers what the line waits for, or its turn has come. -/
def State.ownerTurn (s : State) (d n idx : Nat) (p : Pkt) : Bool :=
  let inbox := (s.slice n).inbox
  let x := s.entry d p.line
  let answers := x.st.owns && x.owner == p.src && (match x.pend with
    | some q => q.rcl || q.ask
    | none => false)
  if answers then firstOf inbox idx p.line fun q => q.src == p.src && (q.kind == .wb || q.kind == .evn)
  else x.pend.isNone && firstOf inbox idx p.line fun _ => true

/-- The WB that a FLUSH or INVL waits for is performed; FLUSH.sys goes on to write the line to HBM (R132). -/
def State.wbDone (s : State) (p : Pkt) : State :=
  if p.id = 0 then s else
  let x := s.line p.line
  if p.scope == 4 && x.dirty && x.data.isSome && x.poison == 0 && !((s.die (lineDie p.line)).boot && bootWindow p.line) then
    s.setLine p.line ({ x with hbmWrite := x.hbmWrite ++ [(p.addr, p.id)] }.ask s.cycle)
  else s.flushStep p.addr p.id

/-- WB: written into the slice when it comes from the owner; one that a discard has overtaken is dropped (R109). -/
def execWb (slice idx : Nat) (s : State) : Host.Outcome State Fault Refusal :=
  match (s.slice slice).inbox[idx]? with
  | none => .next s
  | some p =>
    let l := p.line
    let x := s.line l
    if p.kind != .wb || homeSlice l != slice || !s.ownerTurn (lineDie l) slice idx p then .next s else
    if x.data.isNone && !s.roomAt slice then .next s else
    let s := (s.dropPkt slice idx).hit slice
    if !(x.st.owns && x.owner == p.src) then .next (s.wbDone p) else
    let s := if x.data.isNone then s.makeRoom slice else s
    let (_, s) := s.tag slice
    let sh := if p.keep then setSharer x.sharers (sharerBit l p.src) true else x.sharers
    let y : Line := { x with data := some p.lineData, dirty := true, poison := p.poison, st := if sh = 0 then .i else .s, sharers := sh, owner := 0 }
    .next ((s.setLine l (y.modPend fun q => { q with rcl := false, ask := false })).wbDone p)

/-- EVN; a die that keeps a shared copy says so. -/
def execEvn (slice idx : Nat) (s : State) : Host.Outcome State Fault Refusal :=
  match (s.slice slice).inbox[idx]? with
  | none => .next s
  | some p =>
    let l := p.line
    let x := s.line l
    if p.kind != .evn || homeSlice l != slice || !s.ownerTurn (lineDie l) slice idx p then .next s else
    let s := (s.dropPkt slice idx).hit slice
    if !(x.st.owns && x.owner == p.src) then .next (s.wbDone p) else
    let sh := if p.keep then setSharer x.sharers (sharerBit l p.src) true else x.sharers
    let y : Line := { x with st := if sh = 0 then .i else .s, sharers := sh, owner := 0 }
    .next ((s.setLine l (y.modPend fun q => { q with rcl := false, ask := false })).wbDone p)

/-- A discard of one line of RDISC acknowledged; DONE follows the last (R109). -/
def State.discDone (s : State) (p : Pkt) : State :=
  match findIdx s.invals fun v => v.next == 3 && (match v.op with
    | some o => o.key == p.id && o.core == p.src
    | none => false) with
  | none => s
  | some (i, v) =>
    let left := v.waitAcc.filter fun a => a.1 != p.line
    if left.isEmpty then match v.op with
      | some o => { s with invals := dropAt s.invals i }.status o 0
      | none => s
    else { s with invals := setAt s.invals i { v with waitAcc := left } }

/-- DISC: every copy is dropped, and then the line, without a write. -/
def execDisc (slice idx : Nat) (s : State) : Host.Outcome State Fault Refusal :=
  match s.homeReq slice idx (· == .disc) with
  | none => .next s
  | some (p, x) =>
    if x.st.owns || x.sharers != 0 then .next (s.sendInvals slice (lineDie p.line) p.line x.sharers true)
    else .next (((s.setLine p.line { Line.absent with hbmWrite := x.hbmWrite, asked := x.asked }).dropPkt slice idx).hit slice |>.discDone p)

/-- OWNER_REPLY: the owner's copy is O or S, the GETS that asked is answered, and the line is no longer pending. -/
def execOwnerReply (slice idx : Nat) (s : State) : Host.Outcome State Fault Refusal :=
  match (s.slice slice).inbox[idx]? with
  | none => .next s
  | some p =>
    let l := p.line
    let x := s.line l
    if p.kind != .ownerData || homeSlice l != slice then .next s else
    let s := s.dropPkt slice idx
    if !(x.st.owns && x.owner == p.src) then .next s else
    let sh := if p.dirty then x.sharers else setSharer x.sharers (sharerBit l p.src) true
    let y := ({ x with st := if p.dirty then .o else .s, sharers := sh, owner := if p.dirty then x.owner else 0 } : Line).modPend fun q =>
      { q with ask := false }
    match findIdx (s.slice slice).inbox fun q => q.line == l && q.kind == .gets with
    | none => .next (s.setLine l y)
    | some (i, g) =>
      if p.poison != 0 then .next (((s.setLine l y).sendError slice g (firstBad l p.poison)).served slice i g) else
      .next (((s.setLine l { y with sharers := setSharer y.sharers (sharerBit l g.src) true }).sendLine slice g p.lineData).served slice i g)

/-- An invalidation acknowledged: a cluster all of whose L1s have acknowledged, or a die, shares the line no longer, and after the last
acknowledgement a write that waited is acknowledged (R119, R122). -/
def State.ackInval (s : State) (n d : Nat) (p : Pkt) (own : Bool) : State :=
  let x := s.entry d p.line
  let q := x.pend.getD Pend.none
  let left := q.acks.erase p.src
  let bit := sharerBit p.line p.src
  let sh := if left.any fun k => sharerBit p.line k == bit then x.sharers else setSharer x.sharers bit false
  if !left.isEmpty then s.setEntry d p.line { x with sharers := sh, pend := some { q with acks := left } }
  else
    let y : Line := if own then { x with sharers := 0, st := .i, owner := 0, data := none, dirty := false }
      else { x with sharers := sh, st := if x.st == .s && sh = 0 then .i else x.st }
    let s := s.setEntry d p.line ({ y with pend := some { q with acks := [], done := none } }.modPend id)
    match q.done with
    | some a => s.sendTo n a a.dst
    | none => s

/-- INVALIDATION_ACK. -/
def execInvalidationAck (slice idx : Nat) (s : State) : Host.Outcome State Fault Refusal :=
  match (s.slice slice).inbox[idx]? with
  | none => .next s
  | some p =>
    if p.kind != .invAck || homeSlice p.line != slice then .next s
    else .next ((s.dropPkt slice idx).ackInval slice (lineDie p.line) p p.dirty)

/-! ### A core's own copies (R119, R124, R127 to R129) -/

/-- A packet of a core's, the first of its line there. -/
def State.corePkt (s : State) (core idx : Nat) (kind : PktKind → Bool) : Option Pkt :=
  let inbox := (s.core core).inbox
  match inbox[idx]? with
  | some p => if kind p.kind && firstOf inbox idx p.line (fun _ => true) then some p else none
  | none => none

def State.takePkt (s : State) (core idx : Nat) : State := s.modCore core fun c => { c with inbox := dropAt c.inbox idx }

/-- INVALIDATION: the line is dropped, and acknowledged. A copy that the core owns goes only with a discard. -/
def execInvalidation (core idx : Nat) (s : State) : Host.Outcome State Fault Refusal :=
  match s.corePkt core idx (· == .inval) with
  | none => .next s
  | some p =>
    let s := s.takePkt core idx
    let x := (s.core core).l1line p.line
    let s := if x.st.owns && !p.dirty then s else s.modCore core fun c => c.setL1 p.line ⟨.i, [], 0⟩
    .next (s.toHome core { Pkt.mk0 .invAck p.line core 0 with dirty := p.dirty })

/-- RECALL: the core gives up the line, or, asked for it, sends it and keeps it O or S. A line given up already answers nothing
more. -/
def execRecall (core idx : Nat) (s : State) : Host.Outcome State Fault Refusal :=
  match s.corePkt core idx (fun k => k == .recall || k == .ask) with
  | none => .next s
  | some p =>
    let s := s.takePkt core idx
    if p.kind == .recall then .next (s.giveUp core p.line) else
    let x := (s.core core).l1line p.line
    if !x.st.owns then .next s else
    let s := s.modCore core fun c => c.setL1 p.line { x with st := if x.st.dirty then .o else .s }
    .next (s.toHome core { Pkt.mk0 .ownerData p.line core 0 with
      dirty := x.st.dirty, lineData := x.data, poison := x.poison, hasData := true })

/-- Lines of 128 bytes that an L1 of 256 KiB holds (R19, R126). -/
def l1Lines : Nat := 2048

/-- A copy that comes to a full L1 puts another out, and one that comes to another may do so (R117, R126); which, and then whether, is not
architectural (a free value). -/
def State.l1Room (s : State) (core l : Nat) : State :=
  match ((s.core core).l1.map (·.1)).filter (· != l) with
  | [] => s
  | v :: vs =>
    let (k, s) := s.free
    let k := if vs.length + 1 < l1Lines then k else k % (vs.length + 1)
    match (v :: vs)[k]? with
    | some w => s.giveUp core w
    | none => s

/-- LOAD_REPLY: the line comes to the load that asked, and is held S unless the range keeps it out (R126, R127). -/
def execLoadReply (core idx : Nat) (s : State) : Host.Outcome State Fault Refusal :=
  match s.corePkt core idx (· == .loadReply) with
  | none => .next s
  | some p =>
    let s := s.takePkt core idx
    match (s.core core).access p.id with
    | none => .next s
    | some a =>
      let s := if ((s.core core).l1line p.line).st == .i && !a.noL1 then
          (s.l1Room core p.line).modCore core fun c => c.setL1 p.line ⟨.s, p.lineData, 0⟩ else s
      if a.op == .pref then .next (s.modCore core fun c => c.dropAccess a.id) else
      let a := { a with parts := giveLine p.line p.lineData a.parts }
      .next ((s.modCore core fun c => c.setAccess a).loadDone core a)

/-- The MEM record of an acknowledgement or grant that reaches a core (R391). -/
def State.memRecord (s : State) (core node : Nat) (p : Pkt) : State :=
  s.record (dieOf core) 3 ⟨0x20, core + p.slice * 2 ^ 9 + p.die * 2 ^ 14, [.ofNat 64 (p.tag + node * 2 ^ 32)]⟩

/-- The MEM record of one that the core's L1 takes, and L1ACK (R133). -/
def State.noteTag (s : State) (core node : Nat) (p : Pkt) : State :=
  (s.modCore core fun c => { c with l1Ack := some (p.die, p.slice, p.tag) }).memRecord core node p

/-- A STORE packet of an engine job acknowledged (R163). -/
def State.ackJob (s : State) (core id : Nat) : State :=
  { s with dies := tblMap s.dies fun (_ : Nat) (d : Die) =>
      { d with jobs := d.jobs.map fun j => if j.core == core then { j with waits := j.waits.filter fun w => w.1 != id } else j } }

/-- STORE_ACK: of a thread's entry, or of an engine job's packet, which names no thread and no node (log 134). -/
def execStoreAck (core idx : Nat) (s : State) : Host.Outcome State Fault Refusal :=
  match s.corePkt core idx (· == .storeAck) with
  | none => .next s
  | some p =>
    let s := s.takePkt core idx
    if p.tid = noTid then .next ((s.memRecord core 0xFFFF p).ackJob core p.id) else
    let node := match (((s.core core).thread p.tid).area).find? fun e => e.id == p.id with
      | some e => e.node
      | none => 0xFFFF
    let s := s.noteTag core node p
    let s := s.modCore core fun c => c.flagLate (p.data.setWidth 5)
    .next (s.ackEntry core p.tid p.id)

/-- The atomics that wait for a line by one GETX. -/
def Core.served (c : Core) (l getx : Nat) : List Access := (c.waitOwn l).filter fun a => a.getx == getx

/-- A GETX sent anew for the atomics that still wait by one that granted nothing. -/
def State.askAgain (s : State) (core l getx : Nat) : State :=
  match (s.core core).served l getx with
  | [] => s
  | a :: r => ((a :: r).foldl (fun s b => s.modCore core fun c => c.setAccess { b with getx := a.id, old := false }) s).toHome core
      { Pkt.mk0 .getx l core 0 with id := a.id, tid := a.tid }

/-- GETX_GRANT: every atomic of the core that waits by the GETX is performed. A grant without data for a copy that the L1 owns no longer is
asked for again. A STORE or RED of the core for the line that left behind the GETX is to be performed after it: the L1 then gives the line
up at once, and so it does where no atomic waits any more (R128, R129; log 139). -/
def execGetxGrant (core idx : Nat) (s : State) : Host.Outcome State Fault Refusal :=
  match s.corePkt core idx (· == .grant) with
  | none => .next s
  | some p =>
    let s := s.takePkt core idx
    let c := s.core core
    let node := match c.access p.id with
      | some a => ((c.ctx a.ctx).nodeOf a.site a.slot).1
      | none => 0xFFFF
    let s := s.noteTag core node p
    let x := c.l1line p.line
    if !p.hasData && !x.st.owns then .next (s.askAgain core p.line p.id) else
    let mine := c.served p.line p.id
    let s := (if x.st == .i then s.l1Room core p.line else s).modCore core fun c => c.setL1 p.line (if p.hasData then ⟨.e, p.lineData, 0⟩ else { x with st := .m })
    let s := mine.foldl (fun s a => s.performAtomic core a) s
    .next (if mine.isEmpty || mine.any (·.old) then s.giveUp core p.line else s)

/-- ERROR_REPLY: the access that asked ends (R85); other atomics that wait for the line ask again. -/
def execErrorReply (core idx : Nat) (s : State) : Host.Outcome State Fault Refusal :=
  match s.corePkt core idx (· == .error) with
  | none => .next s
  | some p =>
    let s := s.takePkt core idx
    let s := match (s.core core).access p.id with
      | some a => s.accessError core a p.addr p.persist
      | none => s
    .next (if p.keep then s.askAgain core p.line p.id else s)

/-! ### Proxies (R125) -/

/-- A proxy's own copies cleared before a request goes on: the owner recalled, unless it is `keep`, then the sharers invalidated; none
when nothing is left to clear. -/
def State.clearProxy (s : State) (n q l : Nat) (keep : Option Nat) : Option State :=
  let x := s.proxy q l
  if x.st.owns && keep != some x.owner then some (s.sendRecall n q l)
  else if x.sharers != 0 then some (s.sendInvals n q l x.sharers false)
  else none

/-- A proxy's ownership given back to the home: a WB where the die's copy is dirty, else an EVN. -/
def State.surrender (s : State) (q l : Nat) : State :=
  let x := s.proxy q l
  let s := { s with proxies := tblDel s.proxies (4 * l + q) }
  if !x.copy.owns then s
  else if x.dirty then s.toSlice (homeSlice l)
    { Pkt.mk0 .wb l (384 + q) 0 with lineData := x.data.getD [], poison := x.poison, dirty := true, hasData := true }
  else s.toSlice (homeSlice l) (Pkt.mk0 .evn l (384 + q) 0)

/-- A request of a local core at the proxy of die q; `ecc` is what the read of the proxy's data meets. A copy whose data came back dirty
stays dirty here while another local core owns it. -/
def State.proxyLocal (s : State) (n q idx : Nat) (p : Pkt) (ecc : Ecc) : State :=
  let l := p.line
  let s := if (s.proxy q l).st.owns then s else s.sliceEcc n q l ecc
  let x := s.proxy q l
  let home := homeSlice l
  match p.kind with
  | .gets =>
    if x.st.owns then s.sendAsk n q l
    else match x.data with
      | some bs =>
        if x.poison != 0 then (s.sendError n p (firstBad l x.poison)).served n idx p else
        ((s.setProxy q l { x with st := .s, sharers := setSharer x.sharers (sharerBit l p.src) true }).sendLine n p bs).served n idx p
      | none => (s.setProxy q l (x.modPend fun y => { y with home := true })).toSlice home { p with src := 384 + q, persist := false }
  | .getx =>
    if p.keep || x.copy == .e || x.copy == .m then
      match s.clearProxy n q l (some p.src) with
      | some s => s
      | none =>
        let mine := x.st.owns && x.owner == p.src
        if !mine && x.poison != 0 then (s.sendError n p (firstBad l x.poison)).served n idx p else
        let (t, s) := if p.keep then (p.tag, s) else s.tag n
        let g := { Pkt.mk0 .grant l 0 p.src with
          id := p.id, tid := p.tid, tag := t, hasData := !mine, lineData := if mine then [] else x.data.getD [] }
        let g := if p.keep then g else { g with die := q, slice := n % 32 }
        ((s.setProxy q l { x with st := if mine then .m else .e, owner := p.src }).sendTo n g p.src).served n idx p
    else (s.setProxy q l (x.modPend fun y => { y with home := true })).toSlice home { p with src := 384 + q, persist := false }
  | .disc => (s.dropPkt n idx).toSlice home p
  | _ => match s.clearProxy n q l none with
    | some s => s
    | none => ((s.surrender q l).dropPkt n idx).toSlice home p

/-- A proxy's entry, gone once it says nothing. -/
def State.putProxy (s : State) (q l : Nat) (x : Line) : State :=
  if x == Line.absent then { s with proxies := tblDel s.proxies (4 * l + q) } else s.setProxy q l x

/-- An owner's WB or EVN at the proxy. It answers a recall or an ask that the proxy made, and the line stays the die's; otherwise, or when a
FLUSH or INVL waits for it (R132), the die's ownership goes on to the home, as a WB where the die's copy is dirty and as an EVN where it is
not. While local cores share the line, or the sender keeps a copy, the die keeps one too. A WB that the proxy keeps so
does not raise its sequence counter, whose numbers are those of the grants that it makes (DESIGN CHOICE, log 73). -/
def State.proxyGiven (s : State) (n q idx : Nat) (p : Pkt) : State :=
  let l := p.line
  let x := s.proxy q l
  let s := (s.dropPkt n idx).hit n
  if !(x.st.owns && x.owner == p.src) then s.wbDone p else
  let waits := match x.pend with
    | some y => y.rcl || y.ask
    | none => false
  let sh := if p.keep then setSharer x.sharers (sharerBit l p.src) true else x.sharers
  let y : Line := ({ x with st := if sh = 0 then .i else .s, sharers := sh, owner := 0 } : Line).modPend fun z => { z with rcl := false, ask := false }
  let y : Line := if p.kind == .wb then { y with data := some p.lineData, dirty := true, poison := p.poison } else y
  if waits && p.id = 0 then s.setProxy q l y
  else
    let left : Line := if sh = 0 then { Line.absent with pend := y.pend } else { y with dirty := false, copy := .s }
    let up := { p with src := 384 + q, keep := sh != 0 }
    let up := if y.dirty then { up with kind := .wb, lineData := y.data.getD [], poison := y.poison, dirty := true, hasData := true } else up
    (s.putProxy q l left).toSlice (homeSlice l) up

/-- An owner's line at the proxy: it goes to the home that asked, or to the local GETS that did. -/
def State.proxyData (s : State) (n q idx : Nat) (p : Pkt) : State :=
  let l := p.line
  let x := s.proxy q l
  let s := s.dropPkt n idx
  if !(x.st.owns && x.owner == p.src) then s else
  let sh := if p.dirty then x.sharers else setSharer x.sharers (sharerBit l p.src) true
  let y := ({ x with st := if p.dirty then .o else .s, sharers := sh, owner := if p.dirty then x.owner else 0 } : Line).modPend fun z =>
    { z with ask := false }
  match findIdx (s.slice n).inbox fun g => g.line == l && (g.kind == .gets || g.kind == .ask) with
  | none => s.setProxy q l y
  | some (i, g) =>
    if g.kind == .ask then
      let dirty := p.dirty || x.dirty
      ((s.setProxy q l { y with copy := if dirty then .o else .s }).dropPkt n i).toSlice (homeSlice l) { p with src := 384 + q, dirty }
    else if p.poison != 0 then ((s.setProxy q l y).sendError n g (firstBad l p.poison)).served n i g
    else ((s.setProxy q l { y with sharers := setSharer y.sharers (sharerBit l g.src) true }).sendLine n g p.lineData).served n i g

/-- A recall, ask or invalidation of the home, answered on behalf of the whole die. -/
def State.proxyHome (s : State) (n q idx : Nat) (p : Pkt) : State :=
  let l := p.line
  let x := s.proxy q l
  match p.kind with
  | .inval =>
    if p.dirty then
      if x.st.owns || x.sharers != 0 then s.sendInvals n q l x.sharers true
      else ({ s with proxies := tblDel s.proxies (4 * l + q) }.dropPkt n idx).toSlice (homeSlice l)
        { Pkt.mk0 .invAck l (384 + q) 0 with dirty := true }
    else if x.copy.owns then (s.dropPkt n idx).toSlice (homeSlice l) (Pkt.mk0 .invAck l (384 + q) 0)
    else match s.clearProxy n q l none with
      | some s => s
      | none =>
        ((s.setProxy q l { x with data := none, copy := .i, st := .i }).dropPkt n idx).toSlice (homeSlice l) (Pkt.mk0 .invAck l (384 + q) 0)
  | .ask =>
    if x.st.owns then s.sendAsk n q l
    else if !x.copy.owns then s.dropPkt n idx
    else ((s.setProxy q l { x with copy := if x.dirty then .o else .s }).dropPkt n idx).toSlice (homeSlice l)
      { Pkt.mk0 .ownerData l (384 + q) 0 with dirty := x.dirty, lineData := x.data.getD [], poison := x.poison, hasData := true }
  | _ =>
    if !x.copy.owns then s.dropPkt n idx
    else match s.clearProxy n q l none with
      | some s => s
      | none =>
        let wait := x.pend
        let s := (s.surrender q l).dropPkt n idx
        match wait with
        | some _ => s.setProxy q l { Line.absent with pend := wait }
        | none => s

/-- A reply of the home to the die: the line or the ownership is the die's, and the request that waits for it is served from there. -/
def State.proxyReply (s : State) (n q idx : Nat) (p : Pkt) : State :=
  let l := p.line
  let x := s.proxy q l
  let s := s.dropPkt n idx
  let done := fun (y : Line) => y.modPend fun z => { z with home := false }
  match p.kind with
  | .loadReply => (s.makeRoom n).setProxy q l (done { x with data := some p.lineData, dirty := false, poison := 0, copy := .s })
  | .grant =>
    let s := if x.data.isNone && p.hasData then s.makeRoom n else s
    let y : Line := if p.hasData then { x with data := some p.lineData, dirty := false, poison := 0, copy := .e } else { x with copy := .m }
    let s := s.setProxy q l (done y)
    match findIdx (s.slice n).inbox fun g => g.line == l && g.kind == .getx && !g.keep with
    | some (i, g) => s.modSlice n fun z => { z with inbox := setAt z.inbox i { g with keep := true, tag := p.tag } }
    | none => s
  | _ =>
    let s := s.setProxy q l (done x)
    match findIdx (s.slice n).inbox fun g => g.line == l && (g.kind == .gets || g.kind == .getx) with
    | some (i, g) => (s.sendError n g p.addr).dropPkt n i
    | none => s

/-- Whether a packet that the proxy passes on keeps its place behind every earlier one of its core to the same remote slice (R16, R115):
requests that wait at the proxy have been passed on. -/
def State.passesInOrder (s : State) (q idx : Nat) (inbox : List Pkt) (p : Pkt) (ordered : Pkt → Bool) : Bool :=
  (List.range idx).all fun i => match inbox[i]? with
    | some g => !(ordered g && g.src == p.src && lineDie g.line == lineDie p.line)
      || (g.kind != .wb && g.kind != .evn && firstOf inbox i g.line ordered && match (s.proxy q g.line).pend with
        | some y => y.home
        | none => false)
    | none => true

/-- PROXY_REQUEST: whatever reaches the proxy of a die for a line homed on another. -/
def execProxyRequest (slice : Nat) (at_ : SliceRead) (s : State) : Host.Outcome State Fault Refusal :=
  let q := slice / 32
  let inbox := (s.slice slice).inbox
  match inbox[at_.idx]? with
  | none => .next s
  | some p =>
    let l := p.line
    if lineDie l = q then .next s else
    let x := s.proxy q l
    let fromHome := fun (g : Pkt) => g.kind == .recall || g.kind == .ask || g.kind == .inval
    let request := fun (g : Pkt) => match g.kind with
      | .gets | .getx | .store | .red _ | .disc => true
      | _ => false
    let reply := fun (g : Pkt) => decide (384 ≤ g.dst) && (g.kind == .loadReply || g.kind == .grant || g.kind == .error)
    let sent := fun (g : Pkt) => fromHome g || reply g
    -- a core's requests and what it gives up keep their order, but for what answers a recall or an ask
    let ordered := fun (g : Pkt) => request g || g.kind == .wb || g.kind == .evn
    let answers := x.st.owns && x.owner == p.src && (match x.pend with
      | some y => y.rcl || y.ask
      | none => false)
    let inTurn := fun (t : State) =>
      -- a packet passed on has its line at the home's slice
      if (t.slice (homeSlice l)).inbox.length != (s.slice (homeSlice l)).inbox.length && !s.passesInOrder q at_.idx inbox p ordered then s else t
    let granted := inbox.any fun g => g.line == l && g.kind == .getx && g.keep
    if p.kind == .wb || p.kind == .evn then .next (if !s.ownerTurn q slice at_.idx p then s else
      let t := s.proxyGiven slice q at_.idx p
      if answers then t else inTurn t)
    else if p.kind == .ownerData then .next (s.proxyData slice q at_.idx p)
    else if p.kind == .invAck then .next ((s.dropPkt slice at_.idx).ackInval slice q p p.dirty)
    else if fromHome p then .next (if x.busyLocal || granted || !firstOf inbox at_.idx l sent then s else s.proxyHome slice q at_.idx p)
    else if request p then .next (if x.pend.isSome || !firstOf inbox at_.idx l ordered then s else
      inTurn (s.proxyLocal slice q at_.idx p at_.ecc))
    else if p.dst < 384 then .next ((s.dropPkt slice at_.idx).toCore slice p)
    else .next (if firstOf inbox at_.idx l sent && (x.data.isSome || !p.hasData || s.roomAt slice) then s.proxyReply slice q at_.idx p else s)

end Sys2Proof.Machine
end

