-- ==== Sys2Proof/Machine/Hbm.lean ====
section
/-! DEFINITION. The main memory controllers: line reads and writes, refresh, temperature and the patrol scrubber (R80 to R87, R117,
R132). -/

namespace Sys2Proof.Machine

/-! ### Errors (R83, R84, R89) -/

/-- How many of a line's bursts a mask names, and the last of them. -/
def burstCount (f : BitVec 4) : Nat := ([0, 1, 2, 3].filter fun b => f.getLsbD b).length
def lastBurst (l : Nat) (f : BitVec 4) : Nat := 128 * l + 32 * (([3, 2, 1, 0].find? fun b => f.getLsbD b).getD 0)

/-- Bursts that stay uncorrectable, counted and recorded. -/
def State.countUe (s : State) (l : Nat) (f : BitVec 4) : State :=
  if f = 0 then s else
  { s.modCtrl (lineChan l) fun c =>
      { c with ue := satAdd c.ue (burstCount f) 16, ueAddr := lastBurst l f / 32 * 32 % 2 ^ 48, ueValid := true } with
    hbmBad := (s.hbmBad ++ ([0, 1, 2, 3].filter fun b => f.getLsbD b).map fun b => 4 * l + b).eraseDups }

/-! ### Reads and writes -/

/-- What a read of a line finds, and the state after its corrections and counts (R83, R84): `fail` and `retryFail` are the bursts that the
first and the second read cannot correct; those that stay uncorrectable in HBM are among both. A burst that only the second read fails is
not counted, since R84 asks of the second read only whether it cures the failure of the first (log 119). -/
def State.readBursts (s : State) (line : Nat) (fail retryFail : BitVec 4) (onDie corrected : Nat) : BitVec 4 × State :=
  let known := s.badBursts line
  let fail := fail ||| known
  let bad := (retryFail &&& fail) ||| known
  let s := s.modCtrl (lineChan line) fun c =>
    { c with dieCe := satAdd c.dieCe onDie 16, ce := satAdd c.ce corrected 16
             retry := if fail != 0 && bad == 0 then satAdd c.retry 1 16 else c.retry }
  (bad, s.countUe line bad)

/-- HBM_READ_COMPLETE. The read was made for the packet that waits for the line, or, for a line that no packet waits for, for an access of
the device (R85, log 15): then it starts and ends here, or, while its bank or pseudo-channel is refreshed, waits at the controller (R89). -/
def execHbmReadComplete (line : Nat) (fail retryFail : BitVec 4) (onDie corrected : Nat) (s : State) : Host.Outcome State Fault Refusal :=
  let x := s.line line
  let n := homeSlice line
  let asked := match x.pend with
    | some p => p.hbm
    | none => false
  let device := x.pend.isNone && x.data.isNone && x.dev.isNone && inHbm (128 * line)
  if device && s.hbmAnswer line == .serve && s.refreshing line then .next (s.setLine line (x.ask s.cycle)) else
  if !(asked || device) || !s.pcServes line || !s.roomAt n then .next s else
  let (bad, s) := s.readBursts line fail retryFail onDie corrected
  let install := fun (s : State) (poison : BitVec 8) (dev : Option (BitVec 4)) => (s.makeRoom n).modLine line fun x =>
    { x.answered with data := some (s.hbmLine line), dirty := false, poison, dev }
  if !asked then
    let s := s.modSlice n fun y => { y with misses := (y.misses + 1) % 2 ^ 64 }
    .next (if bad = 0 then install s 0 (some 0) else s.modLine line fun x => { x.answered with dev := some bad })
  else
  let s := s.modLine line fun x => (x.modPend fun p => { p with hbm := false }).answered
  match findIdx (s.slice n).inbox fun p => p.line == line with
  | none => .next s
  | some (i, p) =>
    if bad = 0 then .next (install s 0 none) else
    match p.kind with
    | .gets | .getx => .next ((s.sendError n p (firstBad line (burstPoison bad))).dropPkt n i)
    | _ => .next (install s (burstPoison bad) none)

/-- HBM_WRITE_COMPLETE: a line that FLUSH.sys waits for is written, and the slice's copy is clean. A line that has become poisoned is not
written, and not waited for (R86). -/
def execHbmWriteComplete (line : Nat) (s : State) : Host.Outcome State Fault Refusal :=
  let x := s.line line
  if x.hbmWrite.isEmpty || (s.hbmAnswer line == .serve && !s.pcServes line) || s.hbmAnswer line == .wait then .next s else
  let s := match x.data with
    | some bs => if x.dirty && x.poison == 0 && s.pcServes line then
        (s.writeHbm line bs 0).setLine line { x with dirty := false, hbmWrite := [], asked := none }
      else s.setLine line { x with hbmWrite := [], asked := none }
    | none => s.setLine line { x with hbmWrite := [], asked := none }
  .next (x.hbmWrite.foldl (fun s w => s.flushStep w.1 w.2) s)

/-! ### Refresh (R80, R81) -/

def State.modPc (s : State) (chan pc : Nat) (f : Pc → Pc) : State := s.modCtrl chan fun c => c.setPc pc (f (c.pc pc))

/-- REFRESH_INTERVAL: the debt rises by 64, and at 576 an all-bank refresh is forced. -/
def execRefreshInterval (chan pc : Nat) (s : State) : Host.Outcome State Fault Refusal :=
  .next (if !((s.ctrl chan).pc pc).init then s else s.modPc chan pc fun p =>
    let d := min 576 (p.debt + 64)
    if d = 576 && !p.forced then { p with debt := d, forced := true, force := satAdd p.force 1 32 } else { p with debt := d })

/-- Whether a pseudo-channel is in no refresh command. -/
def Pc.idle (p : Pc) (tick : Nat) : Bool := decide (p.pbUntil ≤ tick) && decide (p.abUntil ≤ tick)

/-- REFPB: one bank, in round-robin order, held for 240 ns. -/
def execRefpb (chan pc : Nat) (s : State) : Host.Outcome State Fault Refusal :=
  .next (s.modPc chan pc fun p => if !p.init || p.forced || !p.idle s.refTick then p else
    { p with debt := p.debt - 1, bank := (p.bank + 1) % 64, pbUntil := s.refTick + 240 })

/-- REFAB: all banks, held for 410 ns; a forced refresh ends when nothing is owed. -/
def execRefab (chan pc : Nat) (s : State) : Host.Outcome State Fault Refusal :=
  .next (s.modPc chan pc fun p => if !p.init || !p.idle s.refTick then p else
    { p with debt := p.debt - 64, forced := p.forced && decide (64 < p.debt), abUntil := s.refTick + 410 })

/-- TEMPERATURE_CHANGE: the channels of a stack (3 to a die) refresh twice as often while it is hot. -/
def execTemperatureChange (stack : Nat) (hot : Bool) (s : State) : Host.Outcome State Fault Refusal :=
  .next ((List.range 32).foldl (fun s c => s.modCtrl (32 * stack + c) fun x => { x with hot }) s)

/-- PATROL_SCRUB: a line read between requests, and once more where it fails (R84); what it cannot correct is counted and recorded, and
nothing faults (R87). -/
def execPatrolScrub (line : Nat) (fail : ReadFail) (corrected : Corrections) (s : State) : Host.Outcome State Fault Refusal :=
  .next (if !(s.ctrl (lineChan line)).scrub || !s.pcServes line then s else (s.readBursts line fail.first fail.retry corrected.onDie corrected.ctrl).2)

end Sys2Proof.Machine
end

