-- ==== Sys2Proof/Machine/Registers.lean ====
section
/-! DEFINITION. The registers of the device: where each lies, what it reads, and what a write does (R5, R25, R89, R92, R133, R194, R212,
R231, R267, R294, R295, R328, R351, R352, R379, R388, R389, R397, R399, R403, R406), SYSRD, SYSWR and TRACEW (R393), and the writes
that have a row of their own (R401, R404, R407 to R412). -/

namespace Sys2Proof.Machine

/-! ### Where a register lies (R25) -/

/-- A register, by its block, the block's number, and the 8-byte word of the block. -/
inductive Reg where
  | mcown | mcrst
  | tlm (d : Nat)
  | flash (off : Nat)
  | range (d k : Nat)
  | slice (n k : Nat)
  | l1 (core k : Nat)
  | alloc (core k : Nat)
  | elres (core k : Nat)
  | fpflag (core k : Nat)
  | matrix (core k : Nat)
  | port (p k : Nat)
  | select (core k : Nat)
  | dist (d k : Nat)
  | be (core k : Nat)
  | preempt (core k : Nat)
  | trace (d k : Nat)
  | die (d k : Nat)
  | ctrl (ch k : Nat)
  | phy (n k : Nat)
  | blank
  deriving DecidableEq, Repr

/-- The register of a module address, from its offset. -/
def moduleReg (o : Nat) : Reg :=
  if o = 0 then .mcown
  else if o = 0x10 then .mcrst
  else if 0x100 ≤ o && o < 0x120 then .tlm ((o - 0x100) / 8)
  else if 0x1000000000 ≤ o && o < 0x1010000000 then .flash (o - 0x1000000000)
  else .blank

/-- The register of a controller or PHY address, from its offset in the die's HBM block (R88, R406). -/
def hbmReg (d y : Nat) : Reg :=
  let st := y / 0x100000
  let c := y % 0x100000 / 0x1000
  let z := y % 0x1000
  let ch := 96 * d + 32 * st + c
  if 3 ≤ st || 32 ≤ c then .blank
  else if z < 0x800 then .ctrl ch (z / 8)
  else if 18 ≤ (z - 0x800) / 0x40 then .blank else .phy (18 * ch + (z - 0x800) / 0x40) (z % 0x40 / 8)

/-- The register of a die address, from its offset in the die's window. -/
def dieReg (d x : Nat) : Reg :=
  if 2 ^ 32 ≤ x then hbmReg d (x - 2 ^ 32) else
  let n := x % 0x1000000 / 0x1000
  let k := x % 0x1000 / 8
  let core := fun (f : Nat → Nat → Reg) => if n < 96 then f (96 * d + n) k else .blank
  let one := fun (f : Nat → Nat → Reg) => if n = 0 then f d k else .blank
  match x / 0x1000000 with
  | 2 => one .range
  | 3 => if n < 32 then .slice (32 * d + n) k else .blank
  | 4 => core .l1
  | 5 => core .alloc
  | 6 => core .elres
  | 7 => core .fpflag
  | 8 => core .matrix
  | 9 => if n < 8 then .port (8 * d + n) k else .blank
  | 0xA => core .select
  | 0xB => one .dist
  | 0xC => core .be
  | 0xD => core .preempt
  | 0xE => one .trace
  | 0xF => one .die
  | _ => .blank

/-- The register at an address inside a register window; an address in no listed block reads 0 and ignores writes. -/
def regAt (pa : Nat) : Reg :=
  if 0xFF0000000000 ≤ pa then moduleReg (pa - 0xFF0000000000)
  else dieReg ((pa - 0xF00000000000) / 2 ^ 36) ((pa - 0xF00000000000) % 2 ^ 36)

/-- The codes that may have a handler (R357). -/
def handledCodes : List Nat := [0x12, 0x20, 0x21, 0x22, 0x23, 0x24, 0x30, 0x32, 0x33, 0x34]

/-! ### What a register reads (R5) -/

/-- SELSTAT (R328). -/
def Core.selStat (c : Core) (now : Nat) : Nat :=
  let waiters := (c.threads.filter fun t => t.2.st == .waiting && decide (t.2.wakeAt ≤ now) && c.ready now t.2.blk t.1).length
  let live := (c.threads.filter fun t => t.2.st != .retired).length
  (match c.active with
    | some b => 2 ^ 44 + b.block % 4096 * 2 ^ 32 + (c.residence b).getD 0 % 8 * 2 ^ 24
    | none => 0) + waiters % 4096 * 2 ^ 12 + live % 4096

def readRange (d : Die) (k : Nat) : Nat :=
  match k with
  | 0 => d.sptBase.toNat
  | 1 => d.gdir.toNat
  | 2 => d.gdirN
  | 3 => d.wkCnt
  | 4 => d.wkCyc
  | 5 => d.xgtBase.toNat
  | _ => 0

def readSlice (x : Slice) (k : Nat) : Nat :=
  match k with
  | 0 => x.seq
  | 1 => x.hits
  | 2 => x.misses
  | 3 => x.inv * 2 ^ 32 + x.recalls
  | 4 => x.ce * 2 ^ 16 + x.ue
  | _ => 0

def readL1 (c : Core) (k : Nat) : Nat :=
  match k with
  | 0 => match c.l1Ack with
    | some (die, slice, tag) => 2 ^ 39 + die % 4 * 2 ^ 37 + slice % 32 * 2 ^ 32 + tag % 2 ^ 32
    | none => 0
  | 1 => c.l1Pred.toNat
  | _ => 0

def readAlloc (c : Core) (k : Nat) : Nat :=
  if k < 16 then (c.pool k).reserve * 2 ^ 32 + (c.pool k).size * 2 ^ 16 + (c.pool k).base else
  match k with
  | 0x10 => c.waiting.length % 4096
  | 0x11 => c.alcMoved * 2 ^ 32 + c.alcRuns
  | 0x12 => c.alcDl
  | _ => 0

def readMatrix (c : Core) (k : Nat) : Nat :=
  match k with
  | 0 => c.mtChunk
  | 1 => c.mtWait
  | 2 => c.mtRestore * 2 ^ 32 + c.mtSaves
  | _ => 0

def readPort (p : Port) (k : Nat) : Nat :=
  match k with
  | 0 => p.lanes.toNat * 2 ^ 8 + p.retrain.isSome.toNat * 4 + p.kls.toNat * 2 + p.up.toNat
  | 2 => p.limit
  | 3 => p.back * 2 ^ 32 + p.out
  | _ => if 0x20 ≤ k && k < 0x28 then tblGet 0 p.errs (k - 0x20) else 0

def readSelect (c : Core) (now k : Nat) : Nat :=
  match k with
  | 0 => c.selAge * 2 ^ 32 + c.selQ
  | 1 => c.selStat now
  | 2 => c.selVec
  | 3 => c.selLoads * 2 ^ 32 + c.selChoices
  | 4 => c.selStray
  | _ => 0

def readDist (d : Die) (k : Nat) : Nat :=
  match k with
  | 0 => d.tdBase.toNat
  | 1 => d.syncBase.toNat
  | 2 => d.cstart * 2 ^ 16 + d.limit
  | 3 => d.tdErr * 2 ^ 32 + d.syncMiss
  | 4 => d.slWait
  | _ => 0

def readBe (c : Core) (k : Nat) : Nat :=
  match k with
  | 0 => c.beRoute0.toNat
  | 1 => c.beRoute1.toNat
  | 2 => c.beDrop
  | _ => 0

def readPreempt (c : Core) (k : Nat) : Nat :=
  match k with
  | 0 => c.svBase
  | 1 => c.svSaves * 2 ^ 32 + c.svSize
  | 2 => c.tmrEn.toNat * 2 ^ 63 + c.tmrPend.toNat * 2 ^ 62 + c.tmrPeriod
  | _ => if 0x20 ≤ k && handledCodes.contains (k - 0x20) then (tblGet (0 : BitVec 64) c.hnd (k - 0x20)).toNat else 0

def readTrace (d : Die) (k : Nat) : Nat :=
  match k with
  | 0 => d.trBuf.toNat
  | 1 => d.trRd * 2 ^ 32 + d.trWr
  | 2 => d.trCtl.toNat
  | 3 => d.trLost
  | _ => 0

def readDie (d : Die) (k : Nat) : Nat :=
  match k with
  | 0 => d.boot.toNat
  | 2 => d.svcRel.toNat * 2 ^ 7 + d.svcCore % 128
  | _ => 0

def readCtrl (c : Ctrl) (k : Nat) : Nat :=
  match k with
  | 0 => c.hot.toNat * 2 + c.scrub.toNat
  | 1 => c.pc1.debt * 2 ^ 32 + c.pc0.debt
  | 2 => c.stall
  | 3 => c.pc1.force * 2 ^ 32 + c.pc0.force
  | 4 => c.dieCe * 2 ^ 48 + c.ce * 2 ^ 32 + c.retry * 2 ^ 16 + c.ue
  | 5 => bits c.ueAddr 47 5 * 32 + c.ueValid.toNat
  | _ => 0

def readPhy (p : Phy) (k : Nat) : Nat :=
  match k with
  | 1 => p.eye.toNat
  | 2 => p.spare.toNat
  | 3 => p.rdly.toNat
  | 4 => p.wdly.toNat
  | 5 => p.rep.toNat
  | 6 => p.pat
  | 7 => p.busy.isSome.toNat * 2 + p.trained.toNat
  | _ => 0

/-- What a register reads. -/
def State.regRead (s : State) (r : Reg) : Nat :=
  match r with
  | .mcown => s.modl.ownTo * 2 ^ 32 + (match s.modl.owner with
    | some o => 16 + o % 16
    | none => 0)
  | .mcrst | .blank => 0
  | .tlm d => (tblGet (0 : BitVec 64) s.modl.tlm d).toNat
  | .flash off => leNat (memBytes s.modl.flash (off / 8 * 8) 8)
  | .range d k => readRange (s.die d) k
  | .slice n k => readSlice (s.slice n) k
  | .l1 c k => readL1 (s.core c) k
  | .alloc c k => readAlloc (s.core c) k
  | .elres c k => if k = 0 then
      (s.core c).elLvs * 2 ^ 48 + (s.core c).elDreg * 2 ^ 32 + (s.core c).elHead * 2 ^ 16 + (s.core c).elResult else 0
  | .fpflag c k => if k = 0 then (s.core c).fpFlag.toNat else 0
  | .matrix c k => readMatrix (s.core c) k
  | .port p k => readPort (s.port p) k
  | .select c k => readSelect (s.core c) s.cycle k
  | .dist d k => readDist (s.die d) k
  | .be c k => readBe (s.core c) k
  | .preempt c k => readPreempt (s.core c) k
  | .trace d k => readTrace (s.die d) k
  | .die d k => readDie (s.die d) k
  | .ctrl ch k => readCtrl (s.ctrl ch) k
  | .phy n k => readPhy (s.phy n) k

/-! ### What a write does (R5) -/

/-- The RW bits of a value, in place. -/
def keepBits (v hi lo : Nat) : Nat := bits v hi lo * 2 ^ lo

def writeRange (d : Die) (k v : Nat) : Die :=
  match k with
  | 0 => { d with sptBase := .ofNat 64 (keepBits v 47 16 + bits v 0 0) }
  | 1 => { d with gdir := .ofNat 64 (keepBits v 47 8) }
  | 2 => { d with gdirN := bits v 16 0 }
  | 3 => { d with wkCnt := v }
  | 4 => { d with wkCyc := v }
  | 5 => { d with xgtBase := .ofNat 64 (keepBits v 47 5) }
  | _ => d

def writeSlice (x : Slice) (k v : Nat) : Slice :=
  match k with
  | 1 => { x with hits := v }
  | 2 => { x with misses := v }
  | 3 => { x with inv := bits v 63 32, recalls := bits v 31 0 }
  | 4 => { x with ce := bits v 31 16, ue := bits v 15 0 }
  | _ => x

def writeAlloc (c : Core) (k v : Nat) : Core :=
  match k with
  | 0x11 => { c with alcMoved := bits v 63 32, alcRuns := bits v 31 0 }
  | 0x12 => { c with alcDl := bits v 15 0 }
  | _ => c

def writeElres (c : Core) (v : Nat) : Core :=
  { c with elLvs := bits v 63 48, elDreg := bits v 47 32, elHead := bits v 31 16, elResult := bits v 15 0 }

/-- FPFLAG: each 1 clears its flag, but a flag set in this cycle stays set (R231). -/
def writeFpflag (c : Core) (v : Nat) : Core := { c with fpFlag := (c.fpFlag &&& ~~~(.ofNat 5 v)) ||| c.fpNew }

def writeMatrix (c : Core) (k v : Nat) : Core :=
  match k with
  | 0 => { c with mtChunk := v }
  | 1 => { c with mtWait := v }
  | 2 => { c with mtRestore := bits v 63 32, mtSaves := bits v 31 0 }
  | _ => c

def writePort (p : Port) (k v : Nat) : Port :=
  match k with
  | 2 => { p with limit := bits v 31 0 }
  | 3 => { p with back := bits v 63 32, out := bits v 31 0 }
  | _ => if 0x20 ≤ k && k < 0x28 then { p with errs := tblSet p.errs (k - 0x20) (bits v 47 0) } else p

def writeSelect (c : Core) (k v : Nat) : Core :=
  match k with
  | 0 => { c with selAge := bits v 63 32, selQ := bits v 31 0 }
  | 2 => { c with selVec := keepBits v 47 20 }
  | 3 => { c with selLoads := bits v 63 32, selChoices := bits v 31 0 }
  | 4 => { c with selStray := bits v 15 0 }
  | _ => c

/-- The distributor's registers. The credit that a die has when SLEW is written has grown at the old rate (R350). -/
def writeDist (d : Die) (now k v : Nat) : Die :=
  match k with
  | 0 => { d with tdBase := .ofNat 64 (keepBits v 47 18) }
  | 1 => { d with syncBase := .ofNat 64 (keepBits v 47 18) }
  | 2 => { d with credit := min (creditCap (bits v 31 16)) (d.creditNow now), creditAt := now, cstart := bits v 31 16, limit := bits v 8 0 }
  | 3 => { d with tdErr := bits v 63 32, syncMiss := bits v 31 0 }
  | 4 => { d with slWait := v }
  | _ => d

/-- The RW bits of BEROUTE. -/
def beBits (v : Nat) : BitVec 64 := .ofNat 64 (keepBits v 63 63 + keepBits v 45 23 + bits v 9 0)

def writeBe (c : Core) (k v : Nat) : Core :=
  match k with
  | 0 => { c with beRoute0 := beBits v }
  | 1 => { c with beRoute1 := beBits v }
  | 2 => { c with beDrop := bits v 15 0 }
  | _ => c

/-- Whether the timer counts (R369). -/
def Core.counting (c : Core) : Bool := c.tmrEn && (c.handlerOf 0x34).isSome

/-- The timer after a write: it starts from 0 when it begins to count, and TIMER is pending only while it counts (R369). -/
def Core.retime (c : Core) (now : Nat) (was : Bool) : Core :=
  if !c.counting then { c with tmrPend := false } else if was then c else { c with tmrFrom := now }

def writePreempt (c : Core) (now k v : Nat) : Core :=
  match k with
  | 0 => { c with svBase := keepBits v 47 6 }
  | 1 => { c with svSaves := bits v 63 32 }
  | 2 => { c with tmrEn := bit v 63, tmrPeriod := bits v 31 0 }.retime now c.counting
  | _ => if 0x20 ≤ k && handledCodes.contains (k - 0x20) then
      { c with hnd := tblSet c.hnd (k - 0x20) (.ofNat 64 (keepBits v 63 63 + bits v 27 0)) }.retime now c.counting
    else c

/-- The trace registers. Setting EN makes the next record the first after it (R390). -/
def writeTrace (d : Die) (k v : Nat) : Die :=
  match k with
  | 0 => { d with trBuf := .ofNat 64 (keepBits v 47 16 + bits v 4 0) }
  | 1 => { d with trRd := bits v 63 32 }
  | 2 => { d with trCtl := .ofNat 64 (keepBits v 63 48 + bits v 3 0), trSync := d.trSync || (bit v 0 && !d.trCtl.getLsbD 0) }
  | 3 => { d with trLost := bits v 31 0 }
  | _ => d

def writeCtrl (c : Ctrl) (k v : Nat) : Ctrl :=
  match k with
  | 0 => { c with scrub := bit v 0 }
  | 2 => { c with stall := v }
  | 3 => { c with pc1 := { c.pc1 with force := bits v 63 32 }, pc0 := { c.pc0 with force := bits v 31 0 } }
  | 4 => { c with dieCe := bits v 63 48, ce := bits v 47 32, retry := bits v 31 16, ue := bits v 15 0 }
  | 5 => if bit v 0 then { c with ueValid := false } else c
  | _ => c

/-- The codes of four lanes, in place. -/
def laneCodes (v : Nat) : BitVec 64 := .ofNat 64 (([0, 1, 2, 3].map fun k => keepBits v (16 * k + 3) (16 * k)).sum)

/-- The delay registers: written at once, and applied at once unless a command runs on the slice (R409). -/
def writePhy (p : Phy) (k v : Nat) : Phy :=
  match k with
  | 3 => { p with rdly := laneCodes v, useR := if p.busy.isSome then p.useR else laneCodes v }
  | 4 => { p with wdly := laneCodes v, useW := if p.busy.isSome then p.useW else laneCodes v }
  | _ => p

/-- A write to a register that has no row of its own. -/
def State.regWrite (s : State) (r : Reg) (v : Nat) : State :=
  match r with
  | .mcown => s.modl_ fun m => { m with ownTo := bits v 47 32 }
  | .mcrst | .blank | .tlm _ => s
  | .flash off => s.modl_ fun m => { m with flash := memPut m.flash (off / 8 * 8) (leBytes v 8) }
  | .range d k => s.modDie d fun x => writeRange x k v
  | .slice n k => s.modSlice n fun x => writeSlice x k v
  | .l1 c k => if k = 1 then s.modCore c fun x => { x with l1Pred := bit v 0 } else s
  | .alloc c k => s.modCore c fun x => writeAlloc x k v
  | .elres c k => if k = 0 then s.modCore c fun x => writeElres x v else s
  | .fpflag c k => if k = 0 then s.modCore c fun x => writeFpflag x v else s
  | .matrix c k => s.modCore c fun x => writeMatrix x k v
  | .port p k => s.modPort p fun x => writePort x k v
  | .select c k => s.modCore c fun x => writeSelect x k v
  | .dist d k => s.modDie d fun x => writeDist x s.cycle k v
  | .be c k => s.modCore c fun x => writeBe x k v
  | .preempt c k => s.modCore c fun x => writePreempt x s.cycle k v
  | .trace d k => s.modDie d fun x => writeTrace x k v
  | .die _ _ => s
  | .ctrl ch k => s.modCtrl ch fun x => writeCtrl x k v
  | .phy n k => s.modPhy n fun x => writePhy x k v

/-- Whether a register is a counter that keeps a value written in the cycle of an increment (R89). -/
def Reg.isCounter (r : Reg) : Bool :=
  match r with
  | .range _ k => k == 3 || k == 4
  | .slice _ k => 1 ≤ k && k ≤ 4
  | .alloc _ k => k == 0x11 || k == 0x12
  | .elres _ _ | .matrix _ _ => true
  | .port _ k => k == 3 || 0x20 ≤ k
  | .select _ k => k == 3 || k == 4
  | .dist _ k => k == 3 || k == 4
  | .be _ k => k == 2
  | .preempt _ k => k == 1
  | .trace _ k => k == 3
  | .ctrl _ k => 2 ≤ k && k ≤ 4
  | _ => false

/-- At the end of a cycle, the counters written in it hold what was written (R89). -/
def State.keepWritten (s : State) : State :=
  s.rewrites.foldl (fun (s : State) w => s.regWrite (regAt w.1) w.2.toNat) { s with rewrites := [] }

/-! ### The order of register accesses (R393) -/

def sameFrom (a b : SysFrom) : Bool :=
  match a, b with
  | .site c k _, .site d j _ => c == d && k == j
  | .session m, .session n => m == n
  | _, _ => false

/-- An access whose turn has come: no earlier one comes from the same site or session, or goes to the same register. -/
def State.sysTurn (s : State) (idx : Nat) : Option SysWrite :=
  match s.sysq[idx]? with
  | none => none
  | some w => if (s.sysq.take idx).any fun v => sameFrom v.who w.who || v.addr == w.addr then none else some w

/-- The answer to an access: a site's token can leave, or a session gets its response. -/
def State.sysAnswer (s : State) (w : SysWrite) (v : Nat) : State :=
  match w.who with
  | .site c k key => s.finishOp (PendOp.mk key c k 0) (.ofNat 128 v)
  | .session n => s.send n 0x33 0 []

/-- The reads whose turn has come performed; `fuel` bounds them. -/
def State.sysReads (s : State) (fuel : Nat) : State :=
  match fuel with
  | 0 => s
  | fuel + 1 =>
    match (List.range s.sysq.length).find? fun i => match s.sysTurn i with
      | some w => w.data.isNone
      | none => false with
    | none => s
    | some i => match s.sysTurn i with
      | some w => ({ s with sysq := dropAt s.sysq i }.sysAnswer w (s.regRead (regAt w.addr))).sysReads fuel
      | none => s

/-- A write performed: it leaves the queue and is answered, and the reads that waited for it are performed. -/
def State.sysDone (s : State) (idx : Nat) (w : SysWrite) : State :=
  let s := { s with sysq := dropAt s.sysq idx }.sysAnswer w 0
  s.sysReads s.sysq.length

/-! ### SYSRD, SYSWR and TRACEW (R393) -/

/-- Whether SYSRD and SYSWR can reach an address. -/
def sysOk (pa : Nat) : Bool := pa % 8 == 0 && inRegs pa

/-- A firing of SYSRD or SYSWR. -/
def fireSys (w : SlotWord) (s : State) (data : Ops → Option (BitVec 64)) : State :=
  match residueFault s w with
  | some p => residueTrap s w p
  | none =>
    let o := readOps s w 32
    let pa := vaOf o.a
    if !sysOk pa then s.faultHere o.tid (rangeRec (s.recHere 0x10) 0x10 pa 0 (data o).isSome)
    else
      let (t, op) := fireVar s w o w.ok
      let a : SysWrite := ⟨.site op.core op.site op.key, pa, data o, false⟩
      { t with sysq := t.sysq ++ [a] }.sysReads 1

/-- SYSRD. -/
def execSysrd (w : SlotWord) (s : State) : Host.Outcome State Fault Refusal := .next (fireSys w s fun _ => none)

/-- SYSWR. -/
def execSyswr (w : SlotWord) (s : State) : Host.Outcome State Fault Refusal :=
  .next (fireSys w s fun o => some (.ofNat 64 (vaOf o.b)))

/-- TRACEW. -/
def execTracew (w : SlotWord) (s : State) : Host.Outcome State Fault Refusal :=
  match residueFault s w with
  | some p => .next (residueTrap s w p)
  | none =>
    let o := readOps s w 32
    let ctl := (s.die (dieOf s.loc.core)).trCtl
    let on := ctl.getLsbD 0 && ctl.getLsbD 1
    let data := [BitVec.ofNat 64 (bits o.a.toNat 63 0), .ofNat 64 (bits o.a.toNat 127 64)]
    let r : TraceRec := ⟨0x40 + bits w.imm.toNat 5 0, o.tid % 2048 + s.loc.core * 2 ^ 11, data.take (bits w.imm.toNat 7 6)⟩
    .next ((fireWith s w 2 o { res := ofLanes 32 [on.toNat] }).record (dieOf s.loc.core) 1 r)

/-! ### Writes (R5, R395, R401, R404, R407, R409, R411, R412) -/

/-- Which event performs a write. -/
inductive SysKind where
  | plain
  | command (n cmd : Nat)
  | repair (n : Nat)
  | trained (n : Nat)
  | boot (d : Nat)
  | coreReset (d : Nat)
  | service (d : Nat)
  | dieReset
  | moduleReset
  deriving DecidableEq, Repr

def sysKind (addr v : Nat) : SysKind :=
  match regAt addr with
  | .phy n 0 => if 1 ≤ bits v 3 0 && bits v 3 0 ≤ 3 then .command n (bits v 3 0) else .plain
  | .phy n 5 => .repair n
  | .phy n 7 => .trained n
  | .die d 0 => .boot d
  | .die d 1 => .coreReset d
  | .die d 2 => .service d
  | .mcrst => if bit v 0 then .moduleReset else if bits v 7 4 != 0 then .dieReset else .plain
  | _ => .plain

/-- The write whose turn has come at a place, with its value and its event. -/
def State.sysWrite (s : State) (idx : Nat) : Option (SysWrite × Nat × SysKind) :=
  match s.sysTurn idx with
  | some w => w.data.map fun v => (w, v.toNat, sysKind w.addr v.toNat)
  | none => none

/-- REGISTER_WRITE. -/
def execRegisterWrite (idx : Nat) (s : State) : Host.Outcome State Fault Refusal :=
  match s.sysWrite idx with
  | some (w, v, .plain) =>
    let r := regAt w.addr
    let t := s.regWrite r v
    let t := if r.isCounter then { t with rewrites := t.rewrites ++ [(w.addr, .ofNat 64 v)] } else t
    .next (t.sysDone idx w)
  | _ => .next s

/-- A PHY command started: commands of one slice run one at a time (R407). -/
def State.startPhy (s : State) (idx cmd : Nat) : State :=
  match s.sysWrite idx with
  | some (w, _, .command n c) =>
    if c != cmd || (s.phy n).busy.isSome then s
    else ({ s with sysq := setAt s.sysq idx { w with started := true } }).modPhy n fun p => { p with busy := some c, held := true }
  | _ => s

/-- READ_SWEEP. -/
def execReadSweep (idx : Nat) (s : State) : Host.Outcome State Fault Refusal := .next (s.startPhy idx 1)

/-- WRITE_SWEEP. -/
def execWriteSweep (idx : Nat) (s : State) : Host.Outcome State Fault Refusal := .next (s.startPhy idx 2)

/-- PATTERN_TEST. -/
def execPatternTest (idx : Nat) (s : State) : Host.Outcome State Fault Refusal := .next (s.startPhy idx 3)

/-- The logical lane that a repair map carries on the spare: the lowest set bit (R411). -/
def repaired (rep : BitVec 64) : Option Nat := [0, 1, 2, 3].find? fun k => rep.getLsbD (16 * k)

/-- The results of a PHY command (R408), from the eyes of the four physical lanes and of the spare, and the errors met. -/
def Phy.results (p : Phy) (cmd : Nat) (eyes : List (BitVec 16)) (errs : Nat) : Phy :=
  let phys := fun (k : Nat) => (eyes.getD k 0).toNat
  let logical := fun (k : Nat) => if cmd == 2 && repaired p.useRep == some k then phys 4 else phys k
  if cmd = 3 then { p with pat := min errs (2 ^ 32 - 1) }
  else { p with eye := .ofNat 64 (phys' logical), spare := .ofNat 16 (phys 4) }
where
  phys' (f : Nat → Nat) : Nat := f 0 + f 1 * 2 ^ 16 + f 2 * 2 ^ 32 + f 3 * 2 ^ 48

/-- A slice's channel and pseudo-channel (R405). -/
def phyPc (n : Nat) : Nat × Nat := (n / 18, n % 18 / 9)

/-- The slices of a channel held by commands let go once none of them runs one (R407). -/
def State.freePhys (s : State) (chan : Nat) : State :=
  let ns := phyOf chan 0 ++ phyOf chan 1
  if ns.any fun n => (s.phy n).busy.isSome then s
  else ns.foldl (fun (s : State) n => if (s.phy n).held then s.modPhy n fun p => { p with held := false } else s) s

/-- PHY_COMMAND_COMPLETE: the results are published, and the codes and map written meanwhile are applied (R409). A forced refresh pauses
the command (R407). -/
def execPhyCommandComplete (slice : Nat) (eyes : List (BitVec 16)) (errs : Nat) (s : State) : Host.Outcome State Fault Refusal :=
  let p := s.phy slice
  match p.busy with
  | none => .next s
  | some cmd =>
    if ((s.ctrl (phyPc slice).1).pc (phyPc slice).2).forced then .next s else
    let q := p.results cmd eyes errs
    let s := (s.modPhy slice fun _ => { q with busy := none, useR := q.rdly, useW := q.wdly, useRep := q.rep }).freePhys (phyPc slice).1
    match findIdx s.sysq fun w => w.started && (match sysKind w.addr ((w.data.getD 0).toNat) with
      | .command n _ => n == slice
      | _ => false) with
    | some (i, w) => .next (s.sysDone i w)
    | none => .next s

/-- PHREP_WRITE: only the lowest set bit is kept. -/
def execPhrepWrite (idx : Nat) (s : State) : Host.Outcome State Fault Refusal :=
  match s.sysWrite idx with
  | some (w, v, .repair n) =>
    let rep : BitVec 64 := match repaired (.ofNat 64 v) with
      | some k => 1#64 <<< (16 * k)
      | none => 0
    .next ((s.modPhy n fun p => { p with rep, useRep := if p.busy.isSome then p.useRep else rep }).sysDone idx w)
  | _ => .next s

/-- TRAINED_WRITE. -/
def execTrainedWrite (idx : Nat) (s : State) : Host.Outcome State Fault Refusal :=
  match s.sysWrite idx with
  | some (w, v, .trained n) => .next ((s.modPhy n fun p => { p with trained := bit v 0 }).sysDone idx w)
  | _ => .next s

/-- PC_INIT_COMPLETE: the first time all nine slices are trained after a module reset, every burst of the pseudo-channel is zeros. -/
def execPcInitComplete (chan pc : Nat) (s : State) : Host.Outcome State Fault Refusal :=
  if pc < 2 && chan < 384 && !((s.ctrl chan).pc pc).init && s.trained chan pc && !s.phyHeld chan pc then
    let there := fun (l : Nat) => lineChan l == chan && linePc l == pc
    .next ({ s with mem := s.mem.filter (fun c => !there (c.1 / 128)), hbmBad := s.hbmBad.filter (fun b => !there (b / 4)) }.modPc chan pc fun p =>
      { p with init := true, debt := 0 })
  else .next s

/-- Whether every pseudo-channel of a die is initialised (R401). -/
def State.dieInit (s : State) (d : Nat) : Bool :=
  (List.range 96).all fun c => (s.ctrl (96 * d + c)).pc0.init && (s.ctrl (96 * d + c)).pc1.init

/-- DCBOOT_CLEAR: a write of 0 is performed only when every pseudo-channel of the die is initialised; a write of 1 never sets BOOT. -/
def execDcbootClear (idx : Nat) (s : State) : Host.Outcome State Fault Refusal :=
  match s.sysWrite idx with
  | some (w, v, .boot d) =>
    .next ((if !bit v 0 && s.dieInit d then s.modDie d fun x => { x with boot := false } else s).sysDone idx w)
  | _ => .next s

/-- SERVICE_CORE_RELEASE: performed only while no privileged part runs on the core; a write of 0 is never performed. -/
def execServiceCoreRelease (idx : Nat) (s : State) : Host.Outcome State Fault Refusal :=
  match s.sysWrite idx with
  | some (w, v, .service d) =>
    let busy := match (s.core (96 * d + (s.die d).svcCore)).part with
      | some p => p.priv
      | none => false
    .next ((if bit v 7 && !busy && !(s.die d).svcRel then s.modDie d fun x => { x with svcRel := true, svcRelAt := s.cycle } else s).sysDone idx w)
  | _ => .next s

end Sys2Proof.Machine
end

