-- ==== Sys2Proof/Machine/Ports.lean ====
section
/-! DEFINITION. The optical ports: link training, lanes, connections and remote reads and writes (R289 to R294). -/

namespace Sys2Proof.Machine

/-- The device's ports. -/
def isPort (p : Nat) : Bool := p < 32

/-- Whether a port may come up: in recovery port 0 alone does (R399), and a die in reset has none (R400). -/
def State.portAllowed (s : State) (p : Nat) : Bool :=
  isPort p && !(s.die (p / 8)).inReset && (!s.modl.recovery || p == 0)

/-- LINK_TRAINING: every lane that the configuration has not taken out for good carries flits (R398; log 24), and the lane sublayer runs when the partner is a Trelpin device too (R291). -/
def execLinkTraining (port : Nat) (trelpin : Bool) (s : State) : Host.Outcome State Fault Refusal :=
  .next (if s.portAllowed port && !(s.port port).up then s.modPort port fun p =>
    { p with up := true, kls := trelpin, lanes := ~~~(Config.portRepair s.modl.config port), retrain := none } else s)

/-- A port down (R293): it carries nothing, and what was not acknowledged goes by the die's other ports. -/
def Port.down (p : Port) : Port := { p with up := false, kls := false, lanes := 0, retrain := none }

/-- One lane of a set off or on. -/
def setLane (v : BitVec 8) (k : Nat) (on : Bool) : BitVec 8 := if on then v ||| (1#8 <<< k) else v &&& ~~~(1#8 <<< k)

/-- A lane taken out for retraining: one at a time, and never with a standard partner (R292, R293). -/
def Port.takeOut (p : Port) (lane : Nat) : Port :=
  if !p.kls then p.down
  else { p with lanes := setLane p.lanes lane false, retrain := some lane, out := satAdd p.out 1 32 }

/-- LANE_RETRAIN: a lane's errors are counted as they come; at the end of a window of 2^32 bits the window's count is compared, and a lane
over the limit is retrained, unless one is out. -/
def execLaneRetrain (port lane : Nat) (errs : LaneErrs) (s : State) : Host.Outcome State Fault Refusal :=
  let p := s.port port
  if !isPort port || 8 ≤ lane || !p.up || !p.lanes.getLsbD lane then .next s else
  let n := tblGet 0 p.window lane + errs.n
  let p := { p with errs := tblSet p.errs lane (satAdd (tblGet 0 p.errs lane) errs.n 48)
                    window := tblSet p.window lane (if errs.ended then 0 else n) }
  .next (s.modPort port fun _ => if errs.ended && decide (p.limit < n) && p.retrain.isNone then p.takeOut lane else p)

/-- LANE_HANDBACK. -/
def execLaneHandback (port lane : Nat) (s : State) : Host.Outcome State Fault Refusal :=
  .next (if (s.port port).retrain == some lane then s.modPort port fun p =>
    { p with lanes := setLane p.lanes lane true, retrain := none, back := satAdd p.back 1 32 } else s)

/-- LANE_SIGNAL_LOSS: with a standard partner, or while another lane is out, the port goes down; otherwise the lane is retrained. -/
def execLaneSignalLoss (port lane : Nat) (s : State) : Host.Outcome State Fault Refusal :=
  let p := s.port port
  if !isPort port || 8 ≤ lane || !p.up || !p.lanes.getLsbD lane then .next s
  else .next (s.modPort port fun p => if p.retrain.isSome then p.down else p.takeOut lane)

/-! ### Connections and remote accesses (R289, R290) -/

/-- The features that a port supports. -/
def supported (f : Feature) : Bool :=
  match f with
  | .rod | .rud | .spraying | .senderCC | .rma | .untagged | .linkRetry | .security => true
  | .rudIdempotent | .unreliable | .receiverCC | .creditFC | .tagged | .netAtomics | .inNetCollectives | .trimming => false

/-- CONNECTION_SETUP: a peer that asks for an unsupported feature is refused, and no packet of its session is accepted. -/
def execConnectionSetup (port : Nat) (features : List Feature) (s : State) : Host.Outcome State Fault Refusal :=
  .next (if (s.port port).up && isPort port && features.all supported then { s with conns := s.conns ++ [(port, features)] } else s)

/-- Whether a port serves a piece of a remote read or write: by a session that has RMA and the kind of delivery it comes by. -/
def State.rmaOn (s : State) (port : Nat) (x : RmaPiece) : Bool :=
  s.portUp (port / 8) && s.conns.any fun c => c.1 == port && c.2.contains .rma && c.2.contains (if x.rod then .rod else .rud)

/-- The message whose turn it is on an ordered flow; its messages are numbered from 0 (DESIGN CHOICE, log 142). -/
def State.rmaMsg (s : State) (die flow : Nat) : Nat :=
  match s.rmaNext.find? fun m => m.1 == die && m.2.1 == flow with
  | some m => m.2.2
  | none => 0

/-- Whether the order of an ordered flow lets a piece act (R290): every earlier message of its flow is complete. -/
def State.rmaTurn (s : State) (die : Nat) (x : RmaPiece) : Bool := !x.rod || s.rmaMsg die x.flow == x.msg

/-- A message with a piece performed: complete with its last, and on an ordered flow the next one's turn comes. -/
def State.rmaDone (s : State) (die : Nat) (x : RmaPiece) : State :=
  if x.rod && x.last then
    { s with rmaNext := (s.rmaNext.filter fun m => !(m.1 == die && m.2.1 == x.flow)) ++ [(die, x.flow, x.msg + 1)] }
  else s

/-- What a target answers to a device whose access it refuses (R301). -/
def State.refuse (s : State) (die : Nat) (r : FaultRec) : State := { s with nacks := s.nacks ++ [(die, r.code, r.detail)] }

/-- REMOTE_RMA_WRITE: a piece of a message performed at its home slices; once all of the message is, its completion is returned (R290).
Another device's RPUT is translated and checked here (R301). -/
def execRemoteRmaWrite (port : Nat) (at_ : RmaPiece) (data : List Byte) (s : State) : Host.Outcome State Fault Refusal :=
  let die := port / 8
  if !s.rmaOn port at_ || !s.rmaTurn die at_ then .next s else
  let done := fun (t : State) => let t := t.rmaDone die at_
    if at_.last then { t with wire := t.wire ++ [(die, [])] } else t
  match at_.at_ with
  | .phys pa => if !spanInHbm pa data.length || !s.quietSpan pa data.length then .next s else .next (done (s.cohWrite pa data))
  | .virt space va priv => match s.xPut (s.target die space priv) va data (data.length / 128 + 2) with
    | .ok t => .next (done t)
    | .error .busy => .next s
    | .error (.fault r t) => .next ((t.rmaDone die { at_ with last := true }).refuse die r)

/-- REMOTE_RMA_READ: each line read coherently, and the bytes returned; a line that cannot be read returns nothing (R86). A read may come in
several pieces, none of which parts an aligned word (R290). -/
def execRemoteRmaRead (port : Nat) (at_ : RmaPiece) (len : Nat) (s : State) : Host.Outcome State Fault Refusal :=
  let die := port / 8
  let whole := fun (a : Nat) => (at_.first || a % 16 == 0) && (at_.last || (a + len) % 16 == 0)
  if !s.rmaOn port at_ || !s.rmaTurn die at_ then .next s else
  let give := fun (t : State) (bs : Bytes) => let t := t.rmaDone die at_
    { t with wire := t.wire ++ [(die, bs)] }
  match at_.at_ with
  | .phys pa =>
    if !spanInHbm pa len || !s.quietSpan pa len || !whole pa then .next s
    else match s.cohBytes pa len with
      | .ok (bs, t) => .next (give t bs)
      | .error _ => .next (give s [])
  | .virt space va priv =>
    if !whole va then .next s
    else match s.xRead (s.target die space priv) .engRead va len with
      | .ok (bs, t) => .next (give t bs)
      | .error .busy => .next s
      | .error (.fault r t) => .next ((t.rmaDone die { at_ with last := true }).refuse die r)

end Sys2Proof.Machine
end

