-- ==== Sys2Proof/Machine/Clotis.lean ====
section
/-! DEFINITION. The Clotis protocol: sessions, ownership, management, admission and launches (R334, R381 to R387, R399). -/

namespace Sys2Proof.Machine

/-! ### Sessions and ownership (R381, R384) -/

def State.session (s : State) (n : Nat) : Option Session := (s.modl.sessions.find? fun x => x.1 == n).map (·.2)

def State.modSession (s : State) (n : Nat) (f : Session → Session) : State :=
  s.modl_ fun m => { m with sessions := m.sessions.map fun x => if x.1 == n then (x.1, f x.2) else x }

/-- Whether the control unit serves sessions: after the last step of R398, or in recovery (R399). -/
def State.open_ (s : State) : Bool :=
  s.modl.recovery || (s.modl.bootStep == 5 && (List.range 4).all fun d => (s.die d).failed || !(s.die d).boot)

/-- The management sessions. -/
def State.managers (s : State) : List Nat :=
  (s.modl.sessions.filter fun x => x.2.kind == .management).map (·.1)

/-- A change of ownership: any offer lapses, and every management session is told. -/
def State.setOwner (s : State) (o : Option Nat) : State :=
  let s := s.modl_ fun m => { m with owner := o, offer := none, heard := s.refTick }
  s.managers.foldl (fun s n => s.send n 0x50 0 (eventBody 3 [match o with
    | some k => k + 1
    | none => 0])) s

/-- A session that is frozen (R385): a frozen owner loses ownership. -/
def State.freezeSession (s : State) (n : Nat) : State :=
  let s := s.modSession n fun x => { x with frozen := true }
  if s.modl.owner == some n then s.setOwner none else s

/-- A session that is gone: an owner's ownership lapses, and so does an offer to it. -/
def State.dropSession (s : State) (n : Nat) : State :=
  let s := s.modl_ fun m => { m with
    sessions := m.sessions.filter fun x => x.1 != n, offer := if m.offer == some n then none else m.offer }
  if s.modl.owner == some n then s.setOwner none else s

/-- A flow closed, after a session on it was refused (R381). -/
def State.closeFlow (s : State) (flow : Nat) : State := s.modl_ fun m => { m with closed := flow :: m.closed }

/-- Whether a flow is one that Clotis can run on (R381): reliable, ordered and secured, of a port that is up, and not closed. -/
def State.flowOk (s : State) (flow : Nat) : Bool :=
  if s.modl.closed.contains flow then false else
  match s.conns[flow]? with
  | some (p, fs) => s.portUp (p / 8) && fs.contains .rod && fs.contains .untagged && fs.contains .security
  | none => false

/-- The port of a flow. -/
def State.flowPort (s : State) (flow : Nat) : Option Nat := (s.conns[flow]?).map (·.1)

/-- Whether a request on a flow is to wait: no port of its die is up (R293), or an earlier request of some session is still to be performed, a
MGMT write (R382). -/
def State.clotisWaits (s : State) (flow : Nat) : Bool :=
  (match s.flowPort flow with
    | some p => !s.portUp (p / 8)
    | none => true)
  || s.sysq.any fun w => match w.who with
    | .session _ => true
    | .site _ _ _ => false

/-- Whether a message of a flow may come by a port: by the flow's own, or, while that is down, by another of its die (R293, R381). -/
def State.comesBy (s : State) (flow port : Nat) : Bool :=
  match s.flowPort flow with
  | some p => isPort port && (s.port port).up && (port == p || (port / 8 == p / 8 && !(s.port p).up))
  | none => false

/-- The session of a flow. -/
def State.sessionOf (s : State) (flow : Nat) : Option (Nat × Session) := s.modl.sessions.find? fun x => x.2.flow == flow

/-- HELLO: a session number of 16, and a challenge; a seventeenth session is refused, and its flow is closed. -/
def execHello (flow : Nat) (key : List Byte) (s : State) : Host.Outcome State Fault Refusal :=
  if !s.open_ || !s.flowOk flow || s.clotisWaits flow then .next s else
  match s.sessionOf flow with
  | some (n, x) => .next (s.send n 0x01 (if x.frozen then 3 else 4) [])
  | none =>
    match (List.range 16).find? fun n => !tblHas s.modl.sessions n with
    | none => .next (s.closeFlow flow)
    | some n =>
      if key.length != 32 then .next (s.send n 0x01 4 []) else
      let c := Config.challenge s.freeNo
      let s := { s with freeNo := s.freeNo + 1 }
      let x : Session := { kind := .hello, key, challenge := c, flow, frozen := false }
      .next ((s.modl_ fun m => { m with sessions := tblSet m.sessions n x }).send n 0x01 0 c)

/-- The kind of session that a key opens: none for a key that is not known. In recovery only management sessions are accepted. -/
def State.kindOf (s : State) (key : Bytes) : Option SessionKind :=
  if Config.managementKey s.modl.config key then some .management
  else if s.modl.recovery then none
  else (s.modl.keys.find? fun k => k.2 == key).map fun k => .tenant k.1

/-- PROVE: the signature over the challenge and the device's identity key. Another key or signature is refused, and the flow is closed; a body
that is no signature of 64 bytes is malformed (R383). -/
def execProve (flow : Nat) (sig : List Byte) (s : State) : Host.Outcome State Fault Refusal :=
  match s.sessionOf flow with
  | none => .next s
  | some (n, x) =>
    if s.clotisWaits x.flow then .next s
    else if x.frozen then .next (s.send n 0x02 3 [])
    else if x.kind != .hello || sig.length != 64 then .next (s.send n 0x02 4 [])
    else match s.kindOf x.key with
      | some k =>
        if Config.ed25519Verify x.key (x.challenge ++ Config.identityKey) sig
        then .next ((s.modSession n fun x => { x with kind := k }).send n 0x02 0 [])
        else .next (((s.send n 0x02 1 []).dropSession n).closeFlow flow)
      | none => .next (((s.send n 0x02 1 []).dropSession n).closeFlow flow)

/-- SESSION_CLOSE. -/
def execSessionClose (session : Nat) (s : State) : Host.Outcome State Fault Refusal :=
  .next (if (s.session session).isSome then s.dropSession session else s)

/-! ### Who may issue what (R383, R399) -/

/-- Whether a session is the owner. -/
def State.isOwner (s : State) (n : Nat) : Bool := s.modl.owner == some n

/-- A command of a session, once its turn has come: frozen sessions and those that may not issue it are answered so; the owner's commands are
heard. -/
def State.command (s : State) (n code : Nat) (may : Session → Bool) (f : State → Session → State) : State :=
  match s.session n with
  | none => s
  | some x =>
    if s.clotisWaits x.flow then s
    else if x.frozen then s.send n code 3 []
    else if x.kind == .hello || (s.modl.recovery && !(code == 0x20 || code == 0x23)) || !may x then s.send n code 1 []
    else
      let s := if s.isOwner n then s.modl_ fun m => { m with heard := s.refTick } else s
      f s x

/-- Whether a session's command is performed now. -/
def State.hears (s : State) (n : Nat) : Bool := match s.session n with
  | some x => !s.clotisWaits x.flow
  | none => false

/-- CLAIM. -/
def execClaim (session : Nat) (s : State) : Host.Outcome State Fault Refusal :=
  .next (s.command session 0x10 (fun x => x.kind == .management) fun s _ =>
    if s.modl.owner.isSome then s.send session 0x10 2 [] else (s.setOwner (some session)).send session 0x10 0 [])

/-- HANDOVER: a new offer replaces an earlier one. -/
def execHandover (session target : Nat) (s : State) : Host.Outcome State Fault Refusal :=
  .next (s.command session 0x11 (fun _ => s.isOwner session) fun s _ =>
    if s.managers.contains target then (s.modl_ fun m => { m with offer := some target }).send session 0x11 0 []
    else s.send session 0x11 4 [])

/-- ACCEPT: a pending offer is taken. -/
def execAccept (session : Nat) (s : State) : Host.Outcome State Fault Refusal :=
  .next (s.command session 0x12 (fun x => x.kind == .management && s.modl.offer == some session) fun s _ =>
    (s.setOwner (some session)).send session 0x12 0 [])

/-- BEAT. -/
def execBeat (session : Nat) (s : State) : Host.Outcome State Fault Refusal :=
  .next (s.command session 0x13 (fun _ => s.isOwner session) fun s _ => s.send session 0x13 0 [])

/-- Ownership lapses after OWNTO ms without a command of the owner; 0 acts as 1. Every cycle begins with it, so that no command finds an owner
whose time has passed. -/
def State.lapse (s : State) : State :=
  if s.modl.owner.isSome && decide (s.modl.heard + 1000000 * max 1 s.modl.ownTo ≤ s.refTick) then s.setOwner none else s

/-- OWNERSHIP_TIMEOUT. -/
def execOwnershipTimeout (s : State) : Host.Outcome State Fault Refusal := .next s.lapse

/-! ### Reports (R383, R387) -/

/-- The body of STATUS: for each die whether it is failed, the tasks in its table and its ready parts; each core's SELSTAT; the frozen spaces
(log 11). -/
def State.statusBody (s : State) : Bytes :=
  ((List.range 4).flatMap fun d =>
    let x := s.die d
    leBytes x.failed.toNat 8 ++ leBytes (x.tasks.filter fun t => t.2.st != .free).length 8 ++ leBytes ((x.ready.map fun q => q.2.length).sum) 8)
  ++ ((List.range 384).flatMap fun k => leBytes ((s.core k).selStat s.cycle) 8) ++ s.frozen.flatMap fun sp => leBytes sp 8

/-- STATUS. -/
def execStatus (session : Nat) (s : State) : Host.Outcome State Fault Refusal :=
  .next (s.command session 0x20 (fun _ => true) fun s _ => s.send session 0x20 0 s.statusBody)

/-- TELEM. -/
def execTelem (session : Nat) (s : State) : Host.Outcome State Fault Refusal :=
  .next (s.command session 0x21 (fun _ => true) fun s _ =>
    s.send session 0x21 0 ((List.range 4).flatMap fun d => leBytes (s.regRead (.tlm d)) 8))

/-- The size of a die's trace buffer (R389). -/
def Die.trSize (d : Die) : Nat := 2 ^ (16 + min 16 (bits d.trBuf.toNat 4 0))
def Die.trBase (d : Die) : Nat := bits d.trBuf.toNat 47 16 * 65536

/-- TRACE: bytes of a die's trace buffer and its TRPTR; the reader offset is not moved. -/
def execTrace (session die offset len : Nat) (s : State) : Host.Outcome State Fault Refusal :=
  let d := s.die die
  if !s.hears session then .next s else
  if 4 ≤ die || d.trSize < offset + len then .next (s.command session 0x22 (fun _ => true) fun s _ => s.send session 0x22 4 []) else
  match s.devRead (d.trBase + offset) len with
  | .busy => .next s
  | .bad _ _ => .next (s.command session 0x22 (fun _ => true) fun s _ => s.send session 0x22 4 [])
  | .got bs t => match s.session session with
    | none => .next s
    | some _ => .next (t.command session 0x22 (fun _ => true) fun s _ => s.send session 0x22 0 (bs ++ leBytes (s.regRead (.trace die 1)) 8))

/-- The measurements of a space's graphs, in ascending graph id. -/
def State.measures (s : State) (space : Nat) : Bytes :=
  (s.graphs.filter fun g => g.2.space == some space).flatMap fun g => g.2.measure

/-- QUOTE: the measurements and the device's signature over them and the nonce. -/
def execQuote (session : Nat) (nonce : List Byte) (space : Nat) (s : State) : Host.Outcome State Fault Refusal :=
  .next (s.command session 0x23 (fun _ => true) fun s _ =>
    if nonce.length != 32 || 4096 ≤ space then s.send session 0x23 4 [] else
    let ms := s.modl.fwMeasure ++ s.modl.cfgMeasure ++ s.measures space
    s.send session 0x23 0 (ms ++ Config.identitySign (sha512 (nonce ++ ms))))

/-! ### Spaces and queues (R387) -/

/-- A freeze of a space by the control unit: it reaches every core later (R376). -/
def State.freezeFrom (s : State) (space : Nat) : State :=
  if s.frozen.contains space then s else
  let s := { s with frozen := space :: s.frozen, freezing := s.freezing ++ (List.range 384).map fun k => (⟨k, space⟩ : FreezeMsg) }
  match s.modl.owner with
  | some o => s.send o 0x50 0 (eventBody 2 [space, 0])
  | none => s

/-- The handles of a space's tasks. -/
def State.tasksOf (s : State) (space : Nat) : List Nat :=
  s.dies.flatMap fun (d : Nat × Die) => (d.2.tasks.filter fun t => t.2.st != .free && recSpace t.2.record == space).map fun t =>
    taskHandle d.1 t.1 t.2.gen

/-- A space's tiles and queued jobs gone from a core. -/
def Core.dropSpace (c : Core) (now space : Nat) : Core :=
  let mine := c.tiles.filter fun (t : Nat × Tile) => t.2.state != TileState.empty && t.2.space == space
  let c := mine.foldl (fun (c : Core) t => c.emptyTile now t.1) c
  { c with
    queues := tblMap c.queues fun _ (q : List Job) => q.filter fun j => j.space != space
    endq := c.endq.filter fun e => match e with
      | .send j => j.space != space
      | _ => true
    activations := c.activations.filter fun a => a.job.space != space }

/-- A space's tasks, threads, tiles, banks, jobs and queues torn down (R171, R387). -/
def State.tearDown (s : State) (space : Nat) : State :=
  let s := (s.tasksOf space).foldl (fun s h => s.endTask h) s
  let s := { s with
    cores := tblMap s.cores fun (_ : Nat) (c : Core) => c.dropSpace s.cycle space
    dies := tblMap s.dies fun (_ : Nat) (d : Die) =>
      { d with jobs := d.jobs.filter fun j => j.space != space
               collect := tblMap d.collect fun _ (q : List Job) => q.filter fun j => j.space != space } }
  let s := s.dropInsts
  s.modl_ fun m => { m with queues := m.queues.filter (fun q => q.space != space), keys := m.keys.filter (fun k => k.1 != space) }

/-- The addresses of a space's entry in the space tables of the dies. -/
def State.spaceEntries (s : State) (space : Nat) : List Nat :=
  (((List.range 4).filter fun d => !(s.die d).inReset).map fun d => bits (s.die d).sptBase.toNat 47 16 * 65536 + 16 * space).eraseDups

/-- A space destroyed: frozen, torn down, out of the space tables, and out of every range table. -/
def State.destroySpace (s : State) (space : Nat) : State :=
  let s := (s.freezeFrom space).tearDown space
  let s := (s.spaceEntries space).foldl (fun (s : State) pa => if spanInHbm pa 16 then s.cohWrite pa (List.replicate 16 0) else s) s
  s.invalidate 0 noTid allCores none 0 (2 ^ 64) 0 none (0, 0) none

/-- The codes of R383. -/
def listedCodes : List Nat := [0x01, 0x02, 0x10, 0x11, 0x12, 0x13, 0x20, 0x21, 0x22, 0x23, 0x30, 0x31, 0x32, 0x33, 0x40, 0x50]

/-- SPACE. A request of a code that R383 does not list gets BADCMD, from a session of any kind. -/
def execSpace (session : Nat) (req : SpaceReq) (s : State) : Host.Outcome State Fault Refusal :=
  match req with
  | .create sp key =>
    .next (s.command session 0x30 (fun _ => s.isOwner session) fun s _ =>
      if 4096 ≤ sp || key.length != 32 then s.send session 0x30 4 []
      else if tblHas s.modl.keys sp then s.send session 0x30 1 []
      else (s.modl_ fun m => { m with keys := tblSet m.keys sp key }).send session 0x30 0 [])
  | .destroy sp =>
    if !s.hears session then .next s else
    if (s.spaceEntries sp).any fun pa => spanInHbm pa 16 && !s.quietSpan pa 16 then .next s else
    .next (s.command session 0x30 (fun _ => s.isOwner session) fun s _ =>
      if 4096 ≤ sp then s.send session 0x30 4 [] else (s.destroySpace sp).send session 0x30 0 [])
  | .unlisted code => match s.session session with
    | none => .next s
    | some x =>
      if s.clotisWaits x.flow || listedCodes.contains code then .next s
      else .next (s.send session code (if x.frozen then 3 else 4) [])

/-- QUEUE: a queue of a space is created, up to 8 for a space, and its number answered; or the queue of a number is destroyed, with the launches
that wait in it. -/
def execQueue (session space : Nat) (create : Bool) (s : State) : Host.Outcome State Fault Refusal :=
  .next (s.command session 0x31 (fun _ => s.isOwner session) fun s _ =>
    let qs := s.modl.queues
    if create then
      if 4096 ≤ space then s.send session 0x31 4 []
      else if 8 ≤ (qs.filter fun q => q.space == space).length then s.send session 0x31 1 []
      else
        let n := ((List.range (qs.length + 1)).find? fun n => !qs.any fun q => q.num == n).getD 0
        (s.modl_ fun m => { m with queues := qs ++ [⟨space, n, []⟩] }).send session 0x31 0 (leBytes n 8)
    else if qs.any fun q => q.num == space then
      (s.modl_ fun m => { m with queues := qs.filter fun q => q.num != space }).send session 0x31 0 []
    else s.send session 0x31 4 [])

/-! ### ADMIT and MGMT (R385, R386) -/

/-- The key of a session. -/
def State.keyOf (s : State) (n : Nat) : Option Bytes := (s.session n).map (·.key)

/-- The space that a session admits for: a tenant's own. -/
def Session.space (x : Session) : Option Nat := match x.kind with
  | .tenant sp => some sp
  | _ => none

/-- Whether a signature over a measurement is one that ADMIT takes. -/
def State.signedOk (s : State) (x : Session) (m sig : Bytes) (priv : Bool) : Bool :=
  let owner := match s.modl.owner.bind s.keyOf with
    | some k => Config.ed25519Verify k m sig
    | none => false
  owner || (!priv && Config.ed25519Verify x.key m sig)

/-- ADMIT: the owner, or a tenant for its own space; a body without a signature of 64 bytes is malformed (R383). A graph id that another space
holds is not taken over (log 25). -/
def execAdmitGraph (session graph dir : Nat) (sig : List Byte) (s : State) : Host.Outcome State Fault Refusal :=
  let may := fun (x : Session) => s.isOwner session || x.space.isSome
  let deny := s.command session 0x32 may fun s _ => s.send session 0x32 1 []
  match s.session session with
  | none => .next s
  | some x =>
    if s.clotisWaits x.flow then .next s
    else if x.frozen || !may x || s.modl.recovery then .next deny
    else if sig.length != 64 then .next (s.command session 0x32 may fun s _ => s.send session 0x32 4 [])
    else if 65536 ≤ graph || (match s.graphs.find? fun g => g.1 == graph with
      | some g => g.2.space != x.space
      | none => false) then .next deny
    else match s.readGraphImages dir with
      | .busy => .next s
      | .bad => .next deny
      | .got blocks t =>
        let g := graphOf graph dir x.space blocks
        if s.signedOk x g.measure sig (blocks.any fun b => bit (imgNum b.2 9 1) 0) then
          .next (t.command session 0x32 may fun s _ => { s with graphs := tblSet s.graphs graph g }.send session 0x32 0 [])
        else .next deny

/-- MGMT: the owner writes a register or the flash window; any other MGMT is illegal and freezes its session. In recovery a management
session may write the flash window (R399). -/
def execMgmt (session addr : Nat) (value : BitVec 64) (s : State) : Host.Outcome State Fault Refusal :=
  match s.session session with
  | none => .next s
  | some x =>
    let flash := 0xFF1000000000 ≤ addr && addr < 0xFF1010000000
    let may := if s.modl.recovery then x.kind == .management && flash else s.isOwner session && inRegs addr
    if s.clotisWaits x.flow then .next s
    else if x.frozen then .next (s.send session 0x33 3 [])
    else if !may then .next ((s.freezeSession session).send session 0x33 3 [])
    else
      let s := s.modl_ fun m => { m with heard := s.refTick }
      if addr % 8 != 0 then .next (s.send session 0x33 4 [])
      else .next { s with sysq := s.sysq ++ [⟨.session session, addr, some value, false⟩] }

/-! ### LAUNCH (R331, R334, R335) -/

/-- The entries of a placement map (R335), when it is well formed. -/
def mapOf (b : Bytes) : Option (List MapEntry) :=
  let n := recNum b 0 4
  if b.length == 8 + 16 * n && n ≤ 1024 && recNum b 4 4 == 0 && (List.range n).all fun i => recNum b (22 + 16 * i) 2 < 4 then
    some ((List.range n).map fun i => ⟨recNum b (8 + 16 * i) 8, recNum b (16 + 16 * i) 6, recNum b (22 + 16 * i) 1⟩)
  else none

/-- What a launch meets: it waits, its refusal with the body of an abort report, or its records with their lists. -/
inductive LaunchPlan where
  | wait
  | refused (report : List Nat)
  | go (rs : List (Bytes × TaskLists)) (s : State)

/-- The lists of a launch's records read, each checked as it is read. -/
def State.planLaunch (s : State) (a : Nat → Actor) (n i : Nat) (rs : List Bytes) (acc : List (Bytes × TaskLists)) : LaunchPlan :=
  match rs with
  | [] => .go acc s
  | r :: rest =>
    match s.readLists (a (recSpace r)) r with
    | .busy => .wait
    | .broken _ => .refused [i, 0, 0]
    | .failed list code _ => .refused [i, list, code]
    | .lists l t =>
      if l.succ.any fun h => bit h 31 && (n ≤ bits h 11 0 || bits h 30 12 != 0) then .refused [i, 1, 0]
      else if recKind r = 0 && !tblHas s.graphs (recGraph r) then .refused [i, 0, 0]
      else if recKind r = 0 && !poolsOk (s.graph (recGraph r)) l.pools then .refused [i, 3, 0x23]
      else t.planLaunch a n (i + 1) rest (acc ++ [(r, l)])

/-- Slots taken for a launch's records in order, or none where a home's table is full. -/
def State.takeSlots (s : State) (die : Nat) (map : List MapEntry) (priv : Bool) (session : Nat) (rs : List (Bytes × TaskLists))
    (hs : List Nat) : Option (List Nat × State) :=
  match rs with
  | [] => some (hs, s)
  | (r, l) :: rest =>
    let d := placeTask r l.foot map die
    match s.freeSlot d with
    | none => none
    | some i =>
      (s.putTask d i r l map d priv session).takeSlots die map priv session rest (hs ++ [taskHandle d i (s.task d i).gen])

/-- A launch's tasks in their slots: launch-relative successors become handles, and records with DEPS = 0 are READY in order. -/
def State.startLaunch (s : State) (hs : List Nat) : State :=
  let s := hs.foldl (fun s h => s.modTask (bits h 13 12) (bits h 11 0) fun t =>
    { t with succ := t.succ.map fun x => if bit x 31 then hs.getD (bits x 11 0) 0 else x }) s
  hs.foldl (fun s h => s.readyIfFree (bits h 13 12) (bits h 11 0)) s

/-- The first launch of a queue gone from it. -/
def State.popLaunch (s : State) (q : Nat) : State :=
  s.modl_ fun m => { m with queues := m.queues.map fun x => if x.num == q then { x with waiting := x.waiting.drop 1 } else x }

/-- The first launch of a queue admitted on the die of its port, whole or not at all, once its lists can be read. -/
def State.admitFirst (s : State) (q : Queue) : State :=
  match q.waiting with
  | [] => s
  | x :: _ =>
    let actor := fun (sp : Nat) => ({ core := 96 * x.die + (s.die x.die).svcCore, die := x.die, space := sp, priv := x.priv } : Actor)
    match s.planLaunch actor x.records.length 0 x.records [] with
    | .wait => s
    | .refused report => ((s.popLaunch q.num).send x.session 0x40 1 []).send x.session 0x50 0 (eventBody 1 report)
    | .go rs t => match t.takeSlots x.die x.map x.priv x.session rs [] with
      | none => (s.popLaunch q.num).send x.session 0x40 1 []
      | some (hs, t) => ((t.startLaunch hs).popLaunch q.num).send x.session 0x40 0 []

/-- A queue's first launch, as it now is, admitted. -/
def State.admitQueue (s : State) (n : Nat) : State :=
  match s.modl.queues.find? fun q => q.num == n with
  | some q => s.admitFirst q
  | none => s

/-- Every queue's first launch admitted, if it can be; every cycle ends with it. -/
def State.admitQueues (s : State) : State := (s.modl.queues.map (·.num)).foldl (fun s n => s.admitQueue n) s

/-- A launch put into a queue. -/
def State.pushLaunch (s : State) (n : Nat) (x : Launch) : State :=
  s.modl_ fun m => { m with queues := m.queues.map fun q => if q.num == n then { q with waiting := q.waiting ++ [x] } else q }

/-- LAUNCH: a tenant to its own queues, the owner to any. It stands in the queue until it is admitted, and is answered then. -/
def execLaunch (session queue port : Nat) (records : List (List Byte)) (map : List Byte) (s : State) :
    Host.Outcome State Fault Refusal :=
  let own := s.isOwner session
  let may := fun (x : Session) => match s.modl.queues.find? fun q => q.num == queue with
    | some q => own || x.space == some q.space
    | none => false
  match s.session session with
  | none => .next s
  | some x =>
    if !s.comesBy x.flow port then .next s else
    .next (s.command session 0x40 may fun s x => match mapOf map with
      | none => s.send session 0x40 4 []
      | some m =>
        if records.isEmpty || 256 < records.length || !records.all recordOk then s.send session 0x40 4 []
        else if !own && records.any fun r => x.space != some (recSpace r) || 56 ≤ recPrio r then s.send session 0x40 1 []
        else (s.pushLaunch queue ⟨session, port / 8, own, records, m⟩).admitQueue queue)

end Sys2Proof.Machine
end

