-- ==== Sys2Proof/Machine/Select.lean ====
section
/-! DEFINITION. The choice of a slot at a site (R35, R178, R202, R203, R350), and the II-excess record of a firing (R392). -/

namespace Sys2Proof.Machine

/-! ### The readiness of an instruction (condition 9 of R202) -/

/-- Whether i0 to i3 all have heads, and of one thread (R50, R241, R340). -/
def fourReady (s : State) : Bool :=
  match headsOf s.here s.cycle s.loc.site s.loc.ctx [0, 1, 2, 3] with
  | some (t :: r) => r.all fun u => u.tid == t.tid
  | _ => false

def withHeads (s : State) (r : Readiness) : Readiness := if fourReady s then r else .wait

/-- A start slot waits while another start slot's pass is in progress; a restored pass goes on from any (R254, R255; log 17). -/
def readyCounter (s : State) (w : SlotWord) : Readiness :=
  let k := s.hereCtx.cnt
  if isBound w || !k.active || k.slot == 16 || k.slot == s.loc.slot then .fire else .wait

/-- The readiness that an instruction itself requires. -/
def readiness (i : Instr) (s : State) : Readiness :=
  match i with
  | .cnt w | .cnt2 w => readyCounter s w
  | .sxpk _ => withHeads s .fire
  | .alloc w => readyAlloc s w false
  | .acca w => readyAlloc s w true
  | .accf w => readyAccf s w
  | .seal w => readySeal s w
  | .release w | .retain w | .tinfo w => readyTile s w none false
  | .tld w | .tpln w => readyTile s w (some (layoutOf w)) false
  | .tst w => readyTile s w (some (layoutOf w)) true
  | .tzero w => readyTile s w none true
  | .tldw w => readyTldw s w
  | .tstw w => readyTstw s w
  | .ld _ | .ldt _ | .lda _ | .pref _ | .fence _ | .flush _ | .invl _ | .aadd _ | .amin _ | .amax _ | .aand _ | .aor _ | .axor _
  | .axchg _ | .acas _ | .afadd _ => readyAccess s
  | .st w => readyStore s w false false (fun o => vaOf o.a) (laneBytes w)
  | .stt w => readyStore s w false false (fun o => vaOf o.a) 16
  | .stl w => readyStore s w true false (fun o => vaOf o.a) 4
  | .red w => readyStore s w false true (fun o => wordAddr o.a) 4
  | .mma w | .mmaz w => readyMma s w
  | .accrd w | .acccv w => readyAcc s w true false
  | .accrdn w => readyAcc s w false false
  | .accwr w | .accz w => readyAcc s w true true
  | .copy _ | .gath _ | .scat _ => withHeads s (readyEngine s false)
  | .xcol _ => withHeads s (readyEngine s true)
  | .spawn w => if fourReady s then readySpawn s w else .wait
  | .exit w | .exit2 w | .exits w => readyExit s w
  | .safe w | .trap w => readyCommit s w
  | .eret w => readyEret s w
  | _ => .fire

/-! ### The slots of a site (R202, R203) -/

/-- A slot that meets conditions 1 to 8 of R202, with what condition 9 says of it. -/
structure Cand where
  ctx   : Nat
  slot  : Nat
  instr : Instr
  ready : Readiness
  deriving DecidableEq, Repr

/-- The state as a slot's firing sees it. -/
def State.at_ (s : State) (core site ctx slot : Nat) : State := { s with loc := ⟨core, site, ctx, slot⟩ }

/-- What a slot word of a context is now. -/
def State.cand (s : State) (core site ctx slot : Nat) (x : SiteWord) : Option Cand :=
  match decodeWord x with
  | .error _ => none
  | .ok i => match i.opcode with
    | none => none
    | some (_, w) =>
      if eligible (s.core core) s.cycle site ctx w i then some ⟨ctx, slot, i, readiness i (s.at_ core site ctx slot)⟩ else none

/-- The slots of a site that meet conditions 1 to 8, contexts by number and slots by number. -/
def State.cands (s : State) (core site : Nat) : List Cand :=
  let c := s.core core
  (List.range 8).flatMap fun x =>
    if !(c.ctx x).valid s.cycle then [] else ((c.site site).ctx x).words.filterMap fun p => s.cand core site x p.1 p.2

/-- The one of the oldest context, and of the lowest number there, among those of a readiness (R203). -/
def State.pick (s : State) (core site : Nat) (want : Readiness) : Option Cand :=
  leastBy (fun k => ((s.core core).ctx k.ctx).stamp * 16 + k.slot) ((s.cands core site).filter fun k => k.ready == want)

/-- Whether a slot of some site of a core asks for something in this cycle (R178, R350): it asks before any site of the core fires. -/
def State.asks (s : State) (core : Nat) : Bool := (s.core core).sites.any fun p => (s.pick core p.1 .ask).isSome

/-- Whether a pool's head can be granted now. -/
def State.grantDue (s : State) (core : Nat) : Bool :=
  (List.range 17).any fun p => ((s.core core).grantable s.cycle p).isSome

/-! ### II-excess records (R392) -/

/-- The record of a firing that came later than the II of its block allows. -/
def State.excess (s : State) (core site ctx slot : Nat) : State :=
  let c := s.core core
  let x := c.ctx ctx
  let d := s.die (dieOf core)
  match (c.site site).starts.find? fun p => p.1 == 16 * ctx + slot with
  | none => s
  | some (_, was) =>
    let late := s.cycle - was - x.ii
    if s.cycle < was + x.ii || late < bits d.trCtl.toNat 63 48 then s else
    let (node, loop) := x.nodeOf site slot
    let (cause, port) := tblGet (0, 0) ((c.site site).ctx ctx).stall slot
    let r : TraceRec := ⟨0x10, core + x.blk.block * 2 ^ 9,
      [.ofNat 64 (node % 65536 + loop % 65536 * 2 ^ 16 + min late 0xFFFF * 2 ^ 32 + cause * 2 ^ 48 + port * 2 ^ 49)]⟩
    s.record (dieOf core) 2 r

/-- What keeps a slot that meets conditions 1 to 3 from firing: an input without a head, or an output without room. -/
def Core.stallOf (c : Core) (now site ctx : Nat) (w : SlotWord) (i : Instr) : Option (Nat × Nat) :=
  let ns := [0, 1, 2, 3].filter fun n => (c.head now site ctx n).isNone
    && (guardAt w n != .off || (inputsUsed w).any fun k => k.val == n)
  match ns with
  | n :: _ => some (0, n)
  | [] =>
    if outputsFree c now site ctx w i then none
    else ([0, 1, 2, 3].find? fun k => w.om.getLsbD k && !outputsFree c now site ctx { w with om := 1#4 <<< k } i).map fun k => (1, k)

/-- The causes kept for the slots of a context that did not fire in this cycle. -/
def Core.stallCtx (c : Core) (now site ctx : Nat) (y : SiteCtx) : SiteCtx :=
  { y with stall := y.words.foldl (fun (st : Tbl (Nat × Nat)) p => match decodeWord p.2 with
    | .error _ => st
    | .ok i => match i.opcode with
      | none => st
      | some (_, w) =>
        if !predsMeet y.preds w || tblGet (now + 1) (c.site site).starts (16 * ctx + p.1) == now then st else
        match c.stallOf now site ctx w i with
        | some k => tblSet st p.1 k
        | none => st) y.stall }

/-- The causes kept at the end of a cycle, while IIX records are on. -/
def State.keepStalls (s : State) : State :=
  { s with cores := tblMap s.cores fun (k : Nat) (c : Core) =>
      let ctl := (s.die (dieOf k)).trCtl
      if ctl.getLsbD 0 && ctl.getLsbD 2 then
        { c with sites := tblMap c.sites fun (n : Nat) (x : Site) =>
            { x with ctxs := tblMap x.ctxs fun (m : Nat) (y : SiteCtx) => c.stallCtx s.cycle n m y } }
      else c }

/-! ### A site's turn -/

/-- What a site does in a cycle: a slot asks for what it lacks, whatever else the site fires (R178); once every request of the core has
joined and every head that can be has been granted, one slot fires (R179, R203). -/
def State.choose (s : State) (core site : Nat) : Option (Instr × State) :=
  if s.endPhase then none else
  match s.pick core site .ask with
  | some k => some (k.instr, s.at_ core site k.ctx k.slot)
  | none =>
    if s.asks core || s.grantDue core then none else
    match s.pick core site .fire with
    | some k => some (k.instr, (s.excess core site k.ctx k.slot).at_ core site k.ctx k.slot)
    | none => none

/-! ### Turns (log 1) -/

/-- What happens next, and the state without it: the head of the agenda, or else what the device does of itself. -/
def State.takeTurn (s : State) : Turn × State :=
  match s.agenda with
  | t :: r => (t, { s with agenda := r })
  | [] => (Config.nextTurn s.turnNo, { s with turnNo := s.turnNo + 1 })

/-! ### A word where the next step finds it (log 27)

A program reaches a core as blocks that the loader streams into contexts (R307). What stands here for that load is slot 0 of context 0 of
site 17 of core 0, whose turn comes next: the context is valid, thread 0 of a part of space 0 is in it, the predicates are as the word
asks, and each input has a head of thread 0 of the kind that the word guards. -/

/-- The site of the word, a processing element. -/
def fetchSite : Nat := 17

/-- The head at an input. -/
def fetchToken (w : SlotWord) (n : Nat) : Token :=
  { val := mkVal 0, tag := .raw, ctx := 0, tid := 0
    kind := match guardAt w n with
      | .kind k => k
      | _ => .dat }

/-- Context 0 of the site, with the word and its heads. -/
def fetchCtx (now : Nat) (x : SiteWord) : SiteCtx :=
  match decodeWord x with
  | .ok i => match i.opcode with
    | some (_, w) =>
      { SiteCtx.empty with
        words := [(0, x)], route := 0xFF00000000000000, preds := w.pm &&& w.pv
        entry := [0, 1, 2, 3].map fun n => (n, [⟨fetchToken w n, now, none⟩]) }
    | none => SiteCtx.empty
  | .error _ => SiteCtx.empty

/-- A part of space 0 with one thread, and the thread in context 0. -/
def fetchPart : RunPart :=
  { task := 0, part := 0, level := 0, graph := 0, space := 0, priv := true, session := 0, count := 1, slots := 0, entry := 0, args := 0, pools := []
    map := [], started := 0 }

def State.placeWord (s : State) (x : SiteWord) : State :=
  let c := s.core 0
  let beat : Beat := ⟨List.replicate 128 0, 0, 0, s.cycle, none⟩
  { s.setCore 0 { c with
      part := some fetchPart
      ctxs := tblSet c.ctxs 0 { Ctx.empty with validFrom := some s.cycle }
      threads := tblSet c.threads 0 { Thread.none with st := .inBlock, safeAt := s.cycle }
      sites := [(fetchSite, { Site.empty with ctxs := [(0, fetchCtx s.cycle x)], wb := [beat] })] } with
    agenda := .site 0 fetchSite :: s.agenda, endPhase := false }

end Sys2Proof.Machine
end

