-- ==== Sys2Proof/Machine/Grants.lean ====
section
/-! DEFINITION. The allocator's events: grants, compaction and the deadlock fault (R178 to R182). -/

namespace Sys2Proof.Machine

/-! ### Grants and compaction (R179, R181) -/

/-- Whether the selector has a commit-area request to make in this cycle, which precedes the fabric's (R178). -/
def Core.areaAsk (c : Core) (now : Nat) : Bool := (c.areaWanted now).isSome

/-- Whether every request that joins the list in this cycle has joined it. -/
def State.allAsked (s : State) (core : Nat) : Bool := !s.asks core && !(s.core core).areaAsk s.cycle

/-- The head of a pool granted, if it can be. -/
def State.grantHead (s : State) (core pool : Nat) : State :=
  match (s.core core).grantable s.cycle pool with
  | some (r, num, entry) => s.grant core r num entry
  | none => s

/-- ALLOC_GRANT. -/
def execAllocGrant (core pool : Nat) (s : State) : Host.Outcome State Fault Refusal :=
  .next (if s.endPhase || !s.allAsked core then s else s.grantHead core pool)

/-- Whether a job is reading: from its start until its bytes are moved, a collective's until what it brings is read (R181). -/
def Job.reading (j : Job) : Bool :=
  j.begun && !j.moved && !j.held && !(j.arrived && match j.collectPiece with
    | .done => true
    | _ => false)

/-- Whether a tile of a core is pinned (R181). -/
def State.pinned (s : State) (core i : Nat) : Bool :=
  (s.core core).pinned s.cycle i || (s.die (dieOf core)).jobs.any fun j =>
    j.core == core && j.reading && (msgRegions j.msg).any fun r => r.2.tile && !r.2.w && r.2.tileIdx == i

/-- COMPACTION. -/
def execCompaction (core pool : Nat) (s : State) : Host.Outcome State Fault Refusal :=
  .next (if s.endPhase || !s.allAsked core || !(s.core core).mayCompact s.cycle pool then s
    else s.modCore core fun c => c.startCompact s.cycle pool fun i => s.pinned core i)

/-- Whether a compaction has taken its cycles. -/
def Core.compactDue (c : Core) (now : Nat) : Bool := c.compact.any fun k => decide (k.ends ≤ now)

/-- COMPACTION_COMPLETE: the head is granted if a run now fits. -/
def execCompactionComplete (core : Nat) (s : State) : Host.Outcome State Fault Refusal :=
  match (s.core core).compact.find? fun k => decide (k.ends ≤ s.cycle) with
  | none => .next s
  | some k => .next (if s.endPhase then s else (s.modCore core fun c => c.endCompact k).grantHead core k.pool)

/-! ### Matrix starts (R350) -/

/-- Whether a grant is due at a die's stagger unit: every request of this cycle has arrived. -/
def State.startGrantDue (s : State) (d : Nat) : Bool :=
  (s.die d).startDue s.cycle && s.cores.all fun (c : Nat × Core) => dieOf c.1 != d || !s.asks c.1

/-- MT_START_GRANT: the first request takes CSTART from the credit. -/
def execMtStartGrant (die : Nat) (s : State) : Host.Outcome State Fault Refusal :=
  let d := s.die die
  match d.starts with
  | [] => .next s
  | a :: rest =>
    let r := rest.foldl (fun b x => if x.before b then x else b) a
    .next (if s.endPhase || !s.startGrantDue die then s else s.setDie die { d with
      starts := d.starts.erase r, granted := d.granted ++ [r], credit := d.creditNow s.cycle - d.slewStart, creditAt := s.cycle
      lastGrant := some s.cycle })

/-! ### Deadlock (R182) -/

/-- Whether a buffer took or gave up a token in a cycle. -/
def bufMoved (now : Nat) (b : List BufEntry) : Bool := b.any fun e => e.since == now + 1 || e.gone == some now

/-- Whether a site fired, or a token or beat moved at it, in a cycle. -/
def Site.moved (x : Site) (now : Nat) : Bool :=
  x.fired == some now || (x.bufs.any fun b => bufMoved now b.2) || bufMoved now x.bound
    || (x.ctxs.any fun y => y.2.entry.any fun b => bufMoved now b.2)
    || x.wb.any fun b => b.since == now + 1 || b.gone == some now

/-- Whether the injection that is due can be made in this cycle (R313, R314, R366). -/
def Core.injects (c : Core) (now : Nat) : Bool :=
  match c.injectDue now with
  | none => false
  | some (b, k, t) =>
    let th := c.thread t
    let into := fun (k : Nat) (es : List RouteEntry) => !c.needsArea k t && c.entryRoom now k es
    match th.rstep, th.resume.k.bind (c.ctx k).safe with
    | .none, _ => into k (c.ctx k).entries
    | _, none => false
    | r, some d => match r, d.stub with
      | .stub, some n => match c.resident now ⟨b.graph, n⟩ with
        | none => false
        | some j => into j (c.ctx j).entries
      | _, _ => (c.ctx k).fresh
          && into k ((c.ctx k).entries.filter fun e => e.kind == 0 && (d.lvmask ||| th.stubOut).getLsbD e.slot)

/-- Whether a thread in a waiting vector can be injected. -/
def Core.canInject (c : Core) (now : Nat) : Bool := c.choiceDue now || c.quantumOver now || c.injects now

/-- Whether a result of variable latency is still awaited from outside the fabric. -/
def Site.awaits (x : Site) : Bool :=
  x.flight.any fun f => f.key != 0 && f.due.isNone && !(x.flight.any fun g => g.key == f.key && g.ready)

/-- Whether something that a core's threads issued is outstanding, or work of the core is under way. -/
def State.outstanding (s : State) (core : Nat) : Bool :=
  let c := s.core core
  let d := s.die (dieOf core)
  !c.accesses.isEmpty || (c.sites.any fun p => p.2.awaits)
    || (c.threads.any fun t => t.2.area.any fun e => e.oper != 8 && e.sent)
    || (c.ctxs.any fun x => x.2.loading)
    || (s.sysq.any fun w => match w.who with
      | .site k _ _ => k == core
      | .session _ => false)
    || (s.rangeq.any fun r => r.op.core == core) || (s.invals.any fun v => match v.op with
      | some p => p.core == core
      | none => false)
    || (s.moves.any fun m => m.op.core == core) || (s.freezeOps.any fun f => f.1.core == core) || !c.cfgWait.isEmpty
    || (c.queues.any fun q => !q.2.isEmpty) || (s.dies.any fun x => x.2.collect.any fun q => q.2.any fun j => j.core == core)
    || (s.dies.any fun x => x.2.jobs.any fun j => j.core == core && !j.held)
    || !c.chunks.isEmpty || (d.starts.any fun r => r.core == core) || !c.compact.isEmpty || !c.copies.isEmpty

/-- Whether the conditions of ALLOC_DEADLOCK hold in a cycle. -/
def State.stuck (s : State) (core : Nat) : Bool :=
  let c := s.core core
  !c.waiting.isEmpty && !(c.sites.any fun p => p.2.moved s.cycle) && !(c.grantedAt.any fun g => g.2 == s.cycle)
    && c.lastInj != s.cycle + 1 && !c.canInject s.cycle && !s.outstanding core

/-- Whether the conditions have held for 1,024 cycles. -/
def Core.deadlocked (c : Core) (now : Nat) : Bool := !c.waiting.isEmpty && decide (c.idleFrom + 1024 ≤ now)

/-- The thread that takes the fault, with the place of its request and its pool: of the oldest request of a thread in the fabric or of one
parked at an ALLOC, or else the lowest thread in the fabric. -/
def Core.deadVictim (c : Core) : Option (Nat × Nat × Nat × Nat) :=
  let may := fun (r : Req) => let st := (c.thread r.tid).st; st == .inBlock || (st == .parked && (match r.kind with
    | .alloc _ _ _ _ => true
    | _ => false))
  match c.waiting.find? fun r => r.kind != .commit && may r with
  | some r => some (r.tid, r.pool, match r.kind with
      | .alloc site _ slot _ | .acca site _ slot | .grow site _ slot | .journal _ site slot => (site, slot)
      | .commit => (0, 0))
  | none => (c.threads.find? fun t => t.2.st == .inBlock).map fun t => (t.1, 0xFFFF, 0, 0)

/-- ALLOC_DEADLOCK: the fault of the thread of the oldest request that a thread in the fabric has, or else of the lowest thread there. -/
def execAllocDeadlock (core : Nat) (s : State) : Host.Outcome State Fault Refusal :=
  let c := s.core core
  if s.endPhase || !c.deadlocked s.cycle then .next s else
  match c.deadVictim with
  | none => .next s
  | some (t, pool, site, slot) =>
    let s := s.modCore core fun c => { c with alcDl := satAdd c.alcDl 1 16, idleFrom := s.cycle }
    let th := c.thread t
    .next (s.raiseFault core t { FaultRec.zero with
      code := 0x22, detail := pool, space := s.partSpace core, block := (c.ctx th.ctx).blk.block, ctx := th.ctx, site, slot })

end Sys2Proof.Machine
end

