-- ==== Sys2Proof/Machine/Integer.lean ====
section
/-! DEFINITION. The integer instructions (R219 to R223). -/

namespace Sys2Proof.Machine

/-- A result whose lanes are given from the three sources' lanes as numbers. -/
def lanes3 (t : Nat) (sat : Bool) (f : Int → Int → Int → Int) (a b c : Payload) : Payload :=
  mapLanes (laneWidth t) fun i => lanePut t sat (f (laneNum t a i) (laneNum t b i) (laneNum t c i))

/-- A result whose lanes are given from the sources' lanes as bit patterns of the lane width. -/
def lanesRaw (w : Nat) (f : Nat → Nat → Nat → Nat) (a b c : Payload) : Payload :=
  mapLanes w fun i => f (lane a w i) (lane b w i) (lane c w i) % 2 ^ w

/-- The carry of ADDC (R219). -/
def addcLane (w a b c : Nat) : Nat := if 2 ^ w ≤ a + b + c % 2 then 1 else 0

/-- The borrow of SUBB (R219). -/
def subbLane (a b c : Nat) : Nat := if a < b + c % 2 then 1 else 0

/-- INDX's result (R219). -/
def indxResult (t : Nat) (sat : Bool) (a b : Payload) : Payload :=
  mapLanes (laneWidth t) fun i => lanePut t sat (laneNum t a 0 + i * laneNum t b 0)

/-- DOT4's result (R220). -/
def dot4Result (t : Nat) (sat : Bool) (a b c : Payload) : Payload :=
  mapLanes 32 fun i =>
    let s0 : Int := if t = 4 then sext (lane c 32 i) 32 else (lane c 32 i : Int)
    let s := [0, 1, 2, 3].foldl (fun s j => s + laneNum t a (4 * i + j) * laneNum t b (4 * i + j)) s0
    if sat then (if t = 4 then sats s 32 else satn s 32) else wrap s 32

/-- SHL's lane (R221): a shift by the lane width or more is one by the lane width. -/
def shlLane (t : Nat) (sat : Bool) (a : Int) (sh : Nat) : Nat := lanePut t sat (a * (2 ^ min sh (laneWidth t) : Nat))

/-- SAR's lane (R221). -/
def sarLane (w a sh : Nat) : Nat := wrap (sext a w / (2 ^ min sh w : Nat)) w

/-- ROL's lane (R221). -/
def rolLane (w a sh : Nat) : Nat := (a * 2 ^ (sh % w) + a / 2 ^ (w - sh % w)) % 2 ^ w

/-- CLZ's lane (R221): leading zero bits. -/
def clzLane (w a : Nat) : Nat := w - (if a = 0 then 0 else Nat.log2 a + 1)

/-- POPC's lane (R221). -/
def popcLane (w a : Nat) : Nat := ((List.range w).filter fun j => bit a j).length

/-- BREV's lane (R221). -/
def brevLane (w a : Nat) : Nat := (List.range w).foldl (fun r j => r + (if bit a j then 2 ^ (w - 1 - j) else 0)) 0

/-- EXTR's lane (R222). -/
def extrLane (w : Nat) (signed : Bool) (a f : Nat) : Nat :=
  let p := bits f 7 0
  let l := bits f 15 8
  if l = 0 || w ≤ p then 0 else
    let m := min l (w - p)
    let x := a / 2 ^ p % 2 ^ m
    if signed then wrap (sext x m) w else x

/-- INSR's lane (R222). -/
def insrLane (w a v f : Nat) : Nat :=
  let p := bits f 7 0
  let l := bits f 15 8
  if l = 0 || w ≤ p then a else
    let m := min l (w - p)
    setBits a (p + m - 1) p v

/-- A compare's result (R223): all ones where the relation holds. -/
def cmpResult (t : Nat) (r : Int → Int → Bool) (a b : Payload) : Payload :=
  mapLanes (laneWidth t) fun i => if r (laneNum t a i) (laneNum t b i) then 2 ^ laneWidth t - 1 else 0

/-- An integer instruction: its result from its sources, tagged RAW, PU lanes of width w (R214). -/
def fireInt (s : State) (w : SlotWord) (lat : Nat) (f : Payload → Payload → Payload → Payload) : Host.Outcome State Fault Refusal :=
  .next (fireOp s w lat (lwidth w) fun o => { res := f o.a o.b o.c, width := lwidth w })

/-- ADD. -/
def execAdd (w : SlotWord) (s : State) : Host.Outcome State Fault Refusal :=
  fireInt s w 1 (lanes3 (ltype w) (satBit w) fun a b c => a + b + c)

/-- SUB. -/
def execSub (w : SlotWord) (s : State) : Host.Outcome State Fault Refusal :=
  fireInt s w 1 (lanes3 (ltype w) (satBit w) fun a b c => a - b - c)

/-- ADDC. -/
def execAddc (w : SlotWord) (s : State) : Host.Outcome State Fault Refusal :=
  fireInt s w 1 (lanesRaw (lwidth w) (addcLane (lwidth w)))

/-- SUBB. -/
def execSubb (w : SlotWord) (s : State) : Host.Outcome State Fault Refusal :=
  fireInt s w 1 (lanesRaw (lwidth w) subbLane)

/-- MUL. -/
def execMul (w : SlotWord) (s : State) : Host.Outcome State Fault Refusal :=
  fireInt s w 3 (lanes3 (ltype w) (satBit w) fun a b _ => a * b)

/-- MULH: the high part of the exact product, rounded down. -/
def execMulh (w : SlotWord) (s : State) : Host.Outcome State Fault Refusal :=
  fireInt s w 3 (lanes3 (ltype w) false fun a b _ => a * b / (2 ^ lwidth w : Nat))

/-- MAD. -/
def execMad (w : SlotWord) (s : State) : Host.Outcome State Fault Refusal :=
  fireInt s w 3 (lanes3 (ltype w) (satBit w) fun a b c => a * b + c)

/-- ABSD. -/
def execAbsd (w : SlotWord) (s : State) : Host.Outcome State Fault Refusal :=
  fireInt s w 1 (lanes3 (ltype w) (satBit w) fun a b _ => (a - b).natAbs)

/-- MIN. -/
def execMin (w : SlotWord) (s : State) : Host.Outcome State Fault Refusal :=
  fireInt s w 1 (lanes3 (ltype w) false fun a b _ => min a b)

/-- MAX. -/
def execMax (w : SlotWord) (s : State) : Host.Outcome State Fault Refusal :=
  fireInt s w 1 (lanes3 (ltype w) false fun a b _ => max a b)

/-- ABS. -/
def execAbs (w : SlotWord) (s : State) : Host.Outcome State Fault Refusal :=
  fireInt s w 1 (lanes3 (ltype w) (satBit w) fun a _ _ => a.natAbs)

/-- NEG. -/
def execNeg (w : SlotWord) (s : State) : Host.Outcome State Fault Refusal :=
  fireInt s w 1 (lanes3 (ltype w) (satBit w) fun a _ _ => -a)

/-- AVG: the mean, rounded up at a half. -/
def execAvg (w : SlotWord) (s : State) : Host.Outcome State Fault Refusal :=
  fireInt s w 1 (lanes3 (ltype w) false fun a b _ => (a + b + 1) / 2)

/-- INDX. -/
def execIndx (w : SlotWord) (s : State) : Host.Outcome State Fault Refusal :=
  fireInt s w 1 fun a b _ => indxResult (ltype w) (satBit w) a b

/-- CLAMP. -/
def execClamp (w : SlotWord) (s : State) : Host.Outcome State Fault Refusal :=
  fireInt s w 1 (lanes3 (ltype w) false fun a b c => min (max a b) c)

/-- DOT4; its PU lanes are 32-bit, and it has latency 3, so PU is none (R206). -/
def execDot4 (w : SlotWord) (s : State) : Host.Outcome State Fault Refusal :=
  .next (fireOp s w 3 (lwidth w) fun o => { res := dot4Result (ltype w) (satBit w) o.a o.b o.c })

/-- AND. -/
def execAnd (w : SlotWord) (s : State) : Host.Outcome State Fault Refusal := fireInt s w 1 fun a b _ => a &&& b

/-- OR. -/
def execOr (w : SlotWord) (s : State) : Host.Outcome State Fault Refusal := fireInt s w 1 fun a b _ => a ||| b

/-- XOR. -/
def execXor (w : SlotWord) (s : State) : Host.Outcome State Fault Refusal := fireInt s w 1 fun a b _ => a ^^^ b

/-- ANDN. -/
def execAndn (w : SlotWord) (s : State) : Host.Outcome State Fault Refusal := fireInt s w 1 fun a b _ => a &&& ~~~b

/-- ORN. -/
def execOrn (w : SlotWord) (s : State) : Host.Outcome State Fault Refusal := fireInt s w 1 fun a b _ => a ||| ~~~b

/-- NOT. -/
def execNot (w : SlotWord) (s : State) : Host.Outcome State Fault Refusal := fireInt s w 1 fun a _ _ => ~~~a

/-- SHL. -/
def execShl (w : SlotWord) (s : State) : Host.Outcome State Fault Refusal :=
  fireInt s w 1 fun a b _ => mapLanes (lwidth w) fun i => shlLane (ltype w) (satBit w) (laneNum (ltype w) a i) (lane b (lwidth w) i)

/-- SHR. -/
def execShr (w : SlotWord) (s : State) : Host.Outcome State Fault Refusal :=
  fireInt s w 1 (lanesRaw (lwidth w) fun a b _ => a / 2 ^ min b (lwidth w))

/-- SAR. -/
def execSar (w : SlotWord) (s : State) : Host.Outcome State Fault Refusal :=
  fireInt s w 1 (lanesRaw (lwidth w) fun a b _ => sarLane (lwidth w) a b)

/-- ROL. -/
def execRol (w : SlotWord) (s : State) : Host.Outcome State Fault Refusal :=
  fireInt s w 1 (lanesRaw (lwidth w) fun a b _ => rolLane (lwidth w) a b)

/-- CLZ. -/
def execClz (w : SlotWord) (s : State) : Host.Outcome State Fault Refusal :=
  fireInt s w 1 (lanesRaw (lwidth w) fun a _ _ => clzLane (lwidth w) a)

/-- POPC. -/
def execPopc (w : SlotWord) (s : State) : Host.Outcome State Fault Refusal :=
  fireInt s w 1 (lanesRaw (lwidth w) fun a _ _ => popcLane (lwidth w) a)

/-- BREV. -/
def execBrev (w : SlotWord) (s : State) : Host.Outcome State Fault Refusal :=
  fireInt s w 1 (lanesRaw (lwidth w) fun a _ _ => brevLane (lwidth w) a)

/-- EXTR. -/
def execExtr (w : SlotWord) (s : State) : Host.Outcome State Fault Refusal :=
  fireInt s w 1 (lanesRaw (lwidth w) fun a f _ => extrLane (lwidth w) (laneSigned (ltype w)) a f)

/-- INSR. -/
def execInsr (w : SlotWord) (s : State) : Host.Outcome State Fault Refusal :=
  fireInt s w 1 (lanesRaw (lwidth w) fun a v f => insrLane (lwidth w) a v f)

/-- BSEL. -/
def execBsel (w : SlotWord) (s : State) : Host.Outcome State Fault Refusal :=
  fireInt s w 1 fun a b c => (a &&& b) ||| (~~~a &&& c)

/-- CMPEQ. -/
def execCmpeq (w : SlotWord) (s : State) : Host.Outcome State Fault Refusal :=
  fireInt s w 1 fun a b _ => cmpResult (ltype w) (fun x y => x == y) a b

/-- CMPNE. -/
def execCmpne (w : SlotWord) (s : State) : Host.Outcome State Fault Refusal :=
  fireInt s w 1 fun a b _ => cmpResult (ltype w) (fun x y => x != y) a b

/-- CMPLT. -/
def execCmplt (w : SlotWord) (s : State) : Host.Outcome State Fault Refusal :=
  fireInt s w 1 fun a b _ => cmpResult (ltype w) (fun x y => decide (x < y)) a b

/-- CMPLE. -/
def execCmple (w : SlotWord) (s : State) : Host.Outcome State Fault Refusal :=
  fireInt s w 1 fun a b _ => cmpResult (ltype w) (fun x y => decide (x ≤ y)) a b

/-- CMPGT. -/
def execCmpgt (w : SlotWord) (s : State) : Host.Outcome State Fault Refusal :=
  fireInt s w 1 fun a b _ => cmpResult (ltype w) (fun x y => decide (y < x)) a b

/-- CMPGE. -/
def execCmpge (w : SlotWord) (s : State) : Host.Outcome State Fault Refusal :=
  fireInt s w 1 fun a b _ => cmpResult (ltype w) (fun x y => decide (y ≤ x)) a b

/-- TSTZ. -/
def execTstz (w : SlotWord) (s : State) : Host.Outcome State Fault Refusal :=
  fireInt s w 1 fun a _ _ => cmpResult (ltype w) (fun x _ => x == 0) a a

end Sys2Proof.Machine
end

