-- ==== Sys2Proof/Machine/Trace.lean ====
section
/-! DEFINITION. Telemetry and the trace units (R2, R388 to R392). -/

namespace Sys2Proof.Machine

/-- Whether a die's sample is due: the cycle in which 10^6 more reference ticks have passed does not end without it. -/
def State.sampleDue (s : State) (die : Nat) : Bool := decide (tblGet 0 s.modl.tlmSeq die < s.refTick / 1000000)

/-- TELEMETRY_SAMPLE: each die's register is replaced once in 10^6 reference ticks; the values are measured. -/
def execTelemetrySample (die iavg pavg pmax : Nat) (s : State) : Host.Outcome State Fault Refusal :=
  let n := tblGet 0 s.modl.tlmSeq die
  if 4 ≤ die || !s.sampleDue die then .next s else
  let v : BitVec 64 := .ofNat 64 (pmax % 65536 + pavg % 65536 * 2 ^ 16 + iavg % 65536 * 2 ^ 32 + (n + 1) % 65536 * 2 ^ 48)
  .next (s.modl_ fun m => { m with tlm := tblSet m.tlm die v, tlmSeq := tblSet m.tlmSeq die (n + 1) })

/-! ### Records (R390, R391) -/

/-- A record as its words, its DELTA being given. -/
def TraceRec.toWords (r : TraceRec) (sync : Bool) (delta : Nat) : List Nat :=
  (r.words.length % 8 + sync.toNat * 8 + r.type % 256 * 2 ^ 4 + delta % 2 ^ 20 * 2 ^ 12 + r.info % 2 ^ 32 * 2 ^ 32)
    :: r.words.map (·.toNat)

/-- The words that a record takes at an offset of the ring: a PAD to the 64-byte boundary that it would cross, and itself. -/
def padded (at_ : Nat) (ws : List Nat) : List Nat :=
  let left := (64 - at_ % 64) / 8
  if left < ws.length then ((left - 1) :: List.replicate (left - 1) 0) ++ ws else ws

/-- Records in order from an offset on. -/
def layRecords (at_ : Nat) (rs : List (List Nat)) : List Nat :=
  match rs with
  | [] => []
  | r :: rest => let ws := padded at_ r; ws ++ layRecords (at_ + 8 * ws.length) rest

/-- What the trace unit writes for a record: a SYNC that is owed, a LOST that is owed, and the record. -/
def Die.traceWords (d : Die) (now : Nat) (r : TraceRec) : List Nat :=
  let sync := d.trSync || 2 ^ 20 ≤ now - d.trLast
  let delta := if sync then 0 else now - d.trLast
  let sy := if sync then [(⟨1, 0, [.ofNat 64 now]⟩ : TraceRec).toWords true 0] else []
  let lo := if d.trPend = 0 then [] else [(⟨2, 0, [.ofNat 64 d.trPend]⟩ : TraceRec).toWords false delta]
  layRecords d.trWr (sy ++ lo ++ [r.toWords false (if lo.isEmpty then delta else 0)])

/-- The bytes free before RD. -/
def Die.trFree (d : Die) : Nat :=
  let n := d.trSize
  n - (d.trWr % n + n - d.trRd / 64 * 64 % n) % n

/-- The words written to the ring, each inside it. -/
def State.putTrace (s : State) (base n at_ : Nat) (ws : List Nat) : State :=
  match ws with
  | [] => s
  | w :: r =>
    let pa := base + at_ % n
    (if spanInHbm pa 8 then s.cohWrite pa (leBytes w 8) else s).putTrace base n (at_ + 8) r

/-- Whether the lines that a write to the ring touches are quiet. -/
def State.traceQuiet (s : State) (base n at_ len : Nat) : Bool :=
  (List.range len).all fun i => let pa := base + (at_ + 8 * i) % n; !spanInHbm pa 8 || s.quietSpan pa 8

/-- TRACE_RECORD_APPEND: the oldest record that has reached the unit is appended, or dropped where it would reach RD. -/
def execTraceRecordAppend (die : Nat) (s : State) : Host.Outcome State Fault Refusal :=
  let d := s.die die
  match d.trq with
  | [] => .next s
  | r :: rest =>
    let ws := d.traceWords s.refTick r
    if d.trFree ≤ 8 * ws.length then
      .next (s.setDie die { d with trq := rest, trLost := satAdd d.trLost 1 32, trPend := d.trPend + 1 })
    else if !s.traceQuiet d.trBase d.trSize d.trWr ws.length then .next s
    else
      let at_ := (d.trWr + 8 * ws.length) % d.trSize
      let t := s.setDie die { d with trq := rest, trWr := at_, trPend := 0, trLast := s.refTick, trSync := false }
      .next (t.putTrace d.trBase d.trSize d.trWr ws)

/-- FABRIC_CLOCK_CHANGE: the next record of the core's die has a SYNC before it. -/
def execFabricClockChange (core : Nat) (s : State) : Host.Outcome State Fault Refusal :=
  .next (if core < 384 then s.modDie (dieOf core) fun d => { d with trSync := true } else s)

end Sys2Proof.Machine
end

