-- ==== Sys2Proof/Machine/Reset.lean ====
section
/-! DEFINITION. The three resets and the boot sequence (R18, R395 to R404). -/

namespace Sys2Proof.Machine

/-! ### Core reset (R396) -/

/-- A core after its reset. What R396 does not name stays: the registers whose tables name another reset, the engines' queues, packets on
their way to the core, and what the core knows of frozen spaces (log 26). -/
def Core.afterReset (c : Core) (now : Nat) : Core :=
  { Core.reset with
    disabled := c.disabled, start := now + 1, nextId := c.nextId, inbox := c.inbox, queues := c.queues
    endq := c.sent, activations := c.activations, frozen := c.frozen
    heldFor := c.heldFor, idleFrom := now + 1 }

/-- A line that a core's L1 loses: whoever recorded the core as its owner records it so no more. -/
def State.loseLine (s : State) (core l : Nat) : State :=
  let d := dieOf core
  let off := fun (x : Line) => { x with st := if x.sharers == 0 then .i else .s, owner := 0 }
  let s := s.modCore core fun c => c.setL1 l ⟨.i, [], 0⟩
  let s := if (s.line l).st.owns && (s.line l).owner == core then s.modLine l off else s
  let p := s.proxy d l
  if !(tblHas s.proxies (4 * l + d) && p.st.owns && p.owner == core) then s
  else
    let s := s.setProxy d l { off p with copy := .s }
    if (s.line l).st.owns && (s.line l).owner == 384 + d then s.modLine l off else s

/-- A core reset. -/
def State.resetCore (s : State) (core : Nat) : State :=
  let s := (s.core core).l1.foldl (fun (s : State) x => s.loseLine core x.1) s
  (s.dropCoreWaits core).modCore core fun c => c.afterReset s.cycle

/-- CORE_RESET: a write to DCCORE; one that names a core holding a part, or none, is not performed. -/
def execCoreReset (idx : Nat) (s : State) : Host.Outcome State Fault Refusal :=
  match s.sysWrite idx with
  | some (w, v, .coreReset d) =>
    let core := 96 * d + bits v 6 0
    .next ((if bit v 15 && decide (bits v 6 0 < 96) && (s.core core).part.isNone then s.resetCore core else s).sysDone idx w)
  | _ => .next s

/-! ### Die reset (R396) -/

/-- The dies that a write of MCRST names. -/
def resetDies (v : Nat) : List Nat := [0, 1, 2, 3].filter fun d => bit v (4 + d)

/-- The lines that a die's reset writes back or gives up: those homed there, and those that its proxies or L1s hold. -/
def State.linesOf (s : State) (d : Nat) : List Nat :=
  ((s.lines.map fun (x : Nat × Line) => x.1).filter (lineDie · == d) ++ (s.proxies.filter fun (x : Nat × Line) => x.1 % 4 == d).map (fun (x : Nat × Line) => x.1 / 4)
    ++ s.cores.flatMap fun (c : Nat × Core) => if dieOf c.1 == d then c.2.l1.map fun (x : Nat × L1Line) => x.1 else []).eraseDups

/-- Whether a die's lines stand still, so that they can be written back: HBM, where it is written, serves them (R81). -/
def State.dieQuiet (s : State) (d : Nat) : Bool :=
  (s.linesOf d).all fun l => s.quietLine l && s.hbmAnswer l != .wait && (s.hbmAnswer l != .serve || s.pcServes l)

/-- A line brought home and, dirty, written to HBM where HBM serves it, which FLUSH.sys waits for (R132); a line of the die itself is held no
more. -/
def State.settleLine (s : State) (d l : Nat) : State :=
  let s := s.gather l
  let x := s.line l
  let s : State := match x.data with
    | some bs => if x.dirty && s.hbmAnswer l == .serve then (s.writeHbm l bs x.poison).modLine l fun y => { y with dirty := false } else s
    | none => s
  let s := x.hbmWrite.foldl (fun (s : State) w => s.flushStep w.1 w.2) (s.modLine l fun y => { y with hbmWrite := [], asked := none })
  if lineDie l = d then { s with lines := tblDel s.lines l } else s

/-- The lowest core of a die that is not disabled (R18). -/
def State.serviceOf (s : State) (d : Nat) : Option Nat := (List.range 96).find? fun k => !(s.core (96 * d + k)).disabled

/-- A die reset: dirty lines are written back, what is homed on the die is lost, and its parts hold their reset values; HBM, the
controllers and PHY, and DCBOOT keep theirs. The slots of the task table are freed and keep their GEN: the table is in HBM (R332). -/
def State.resetDie (s : State) (d : Nat) : State :=
  let s := (s.linesOf d).foldl (fun s l => s.settleLine d l) s
  let hs := (s.die d).tasks.filterMap fun t => if t.2.st == .free then none else some (taskHandle d t.1 t.2.gen)
  let s := hs.foldl (fun s h => s.endTask h) s
  let s := (dieCores d).foldl (fun s k => s.dropCoreWaits k) s
  let mine := fun (op : PendOp) => dieOf op.core == d
  let s := { s with
    cores := tblMap s.cores fun (k : Nat) (c : Core) => if dieOf k != d then c else
      { Core.reset with disabled := c.disabled, start := s.cycle + 1, nextId := c.nextId, inbox := c.inbox, frozen := c.frozen, idleFrom := s.cycle + 1 }
    slices := tblMap s.slices fun (n : Nat) (x : Slice) => if n / 32 == d then { Slice.empty with inbox := x.inbox } else x
    ports := s.ports.filter fun p => p.1 / 8 != d
    sysq := s.sysq.filter fun w => match w.who with
      | .site k _ _ => dieOf k != d
      | .session _ => true
    rangeq := s.rangeq.filter fun r => !mine r.op
    invals := s.invals.filter fun v => v.die != d
    moves := s.moves.filter fun m => m.die != d
    freezeOps := s.freezeOps.filter fun f => !mine f.1 }
  let s := s.modDie d fun x => { Die.reset with
    boot := x.boot, tasks := x.tasks, inReset := x.inReset, failed := x.failed, svcCore := (s.serviceOf d).getD 0, creditAt := s.cycle }
  s.dropInsts

/-- DIE_RESET: a write of MCRST that names dies and not the module; it waits until the lines that it writes back stand still. -/
def execDieReset (idx : Nat) (s : State) : Host.Outcome State Fault Refusal :=
  match s.sysWrite idx with
  | some (w, v, .dieReset) =>
    if (resetDies v).any fun d => !s.dieQuiet d then .next s else
    let t := s.sysDone idx w
    .next ((resetDies v).foldl (fun s d => s.resetDie d) t)
  | _ => .next s

/-! ### Flash and verification (R399) -/

/-- An image in the flash: its version, its body and its signed bytes, when its signature verifies. -/
def flashImage (flash : Memory) (at_ : Nat) : Option (Nat × Bytes × Bytes) :=
  let h := memBytes flash at_ 64
  let len := recNum h 8 8
  let m := memBytes flash at_ (64 + len)
  if Config.ed25519Verify Config.kerperKey (sha512 m) (memBytes flash (at_ + 64 + len) 64) then some (recNum h 4 4, m.drop 64, m) else none

/-- A copy that the boot ROM accepts: the configuration's body, the firmware's, and the two measurements. -/
def flashCopy (flash : Memory) (base : Nat) : Option (Bytes × Bytes × Bytes × Bytes) :=
  match flashImage flash (base + Config.imageOffset false), flashImage flash (base + Config.imageOffset true) with
  | some (_, cfg, mc), some (ver, fw, mf) => if recNum cfg 0 4 ≤ ver then some (cfg, fw, sha512 mc, sha512 mf) else none
  | _, _ => none

def bootCopy (flash : Memory) : Option (Bytes × Bytes × Bytes × Bytes) :=
  match flashCopy flash 0 with
  | some c => some c
  | none => flashCopy flash 0x8000000

/-! ### Boot (R398, R400, R402) -/

/-- The boot window's base. -/
def bootBase (d : Nat) : Nat := d * dieSpan

/-- The descriptor of space 0 at boot: the whole window at virtual 0, with R, W, A, E and P. -/
def bootDesc (d : Nat) : Desc := ⟨0, .ofNat 64 (0x2000000 + 0x3F), .ofNat 64 (bootBase d), .ofNat 64 (0x2000000 / 256)⟩

/-- The record of a die's firmware task: priority 63, on its service core, in space 0. -/
def bootRecord (fw : Bytes) (d core : Nat) : Bytes :=
  let t := Config.firmwareTask fw d
  leBytes (63 * 256) 2 ++ leBytes 0 2 ++ leBytes 0 2 ++ leBytes (t.1 % 4096) 2 ++ leBytes t.2.1 4 ++ leBytes t.2.2.1 2 ++ leBytes 0xFFFF 2
    ++ leBytes t.2.2.2 8 ++ leBytes 0 8 ++ leBytes 0 8 ++ leBytes (0x8000 + core) 2 ++ leBytes 0 6 ++ leBytes 0 8 ++ leBytes 0 8

/-- A graph of the firmware admitted. -/
def State.bootGraph (s : State) (g dir : Nat) : State :=
  match s.readGraphImages dir with
  | .got blocks s => { s with graphs := tblSet s.graphs g (graphOf g dir none blocks) }
  | _ => s

/-- Steps 4 and 5 for one die: its service core, its boot tables, its firmware graphs and its task. A die without a good core stays in
reset (R400). -/
def State.bootDie (s : State) (fw : Bytes) (d : Nat) : State :=
  match s.serviceOf d with
  | none => s.modDie d fun x => { x with failed := true, inReset := true }
  | some k =>
    let b := bootBase d
    let core := 96 * d + k
    let s := s.modDie d fun x => { x with
      svcCore := k, sptBase := .ofNat 64 (b + 0x100001), gdir := .ofNat 64 (b + 0x120000), gdirN := 0, tdBase := .ofNat 64 (b + 0x400000)
      syncBase := .ofNat 64 (b + 0x440000) }
    let s := s.modCore core fun c => { c with selVec := b + 0x500000, svBase := b + 0x600000 }
    let s := s.cohWrite (b + 0x100000) (leBytes (b + 0x110001) 8 ++ leBytes 1 8)
    let s := s.cohWrite (b + 0x110000) (bootDesc d).bytes
    let s := s.cohWrite (b + 0x1000000) ((Config.firmwareGraphs fw d).take 0x1000000)
    let s := (Config.firmwareDirs fw d).foldl (fun (s : State) g => s.bootGraph g.1 (b + 0x1000000 + g.2)) s
    match s.freeSlot d with
    | none => s
    | some i =>
      (s.putTask d i (bootRecord fw d core) ⟨[], [], Config.firmwarePools fw d⟩ [] d true 16).readyIfFree d i

/-- The cores that stay in reset until the next module reset: those that fail self-test or that the configuration disables. -/
def bootCores (cfg : Bytes) (failed : List Nat) : Tbl Core :=
  (List.range 384).map fun k => (k, { Core.reset with disabled := failed.contains k || !Config.coreEnabled cfg k })

/-- The PHY slices whose repair map the configuration sets. -/
def bootPhys (cfg : Bytes) : Tbl Phy :=
  (List.range 6912).filterMap fun n => match repaired (Config.laneRepair cfg n) with
    | some k => some (n, { Phy.reset with rep := 1#64 <<< (16 * k), useRep := 1#64 <<< (16 * k) })
    | none => none

/-- The module after its reset, before its boot: the flash keeps its contents, and what has been sent stays sent. -/
def State.moduleBase (s : State) : State :=
  { State.reset with
    agenda := s.agenda, turnNo := s.turnNo, freeNo := s.freeNo, wire := s.wire, nacks := s.nacks, modl := { Control.reset with flash := s.modl.flash, sent := s.modl.sent } }

/-- A module reset and the boot that follows it, up to step 5; the rest is the firmware's. Without an accepted copy the module stays in
recovery at step 2. -/
def State.moduleReset (s : State) (cfg : BootInputs) : State :=
  let t := s.moduleBase
  match bootCopy t.modl.flash with
  | none => t.modl_ fun m => { m with recovery := true, bootStep := 2 }
  | some (conf, fw, mc, mf) =>
    let t := { t with cores := bootCores conf cfg.failed, phys := bootPhys conf }.modl_ fun m =>
      { m with config := conf, cfgMeasure := mc, fwMeasure := mf, bootStep := 5 }
    [0, 1, 2, 3].foldl (fun s d => s.bootDie fw d) t

/-- MODULE_RESET: at power-on, at a supply fault, or by a write of 1 to MCRST.MODULE. -/
def execModuleReset (cause : ResetCause) (cfg : BootInputs) (s : State) : Host.Outcome State Fault Refusal :=
  match cause with
  | .powerOn | .supplyFault => .next (s.moduleReset cfg)
  | .write idx => match s.sysWrite idx with
    | some (_, _, .moduleReset) => .next (s.moduleReset cfg)
    | _ => .next s

end Sys2Proof.Machine
end

