-- ==== Sys2Proof/Machine/Dispatch.lean ====
section
/-! DEFINITION. The meaning of every instruction and event, one arm each. -/

namespace Sys2Proof.Machine

/-- The meaning of an instruction or event. -/
def exec (i : Instr) (s : State) : Host.Outcome State Fault Refusal :=
  match i with
  | .mov w => Sys2Proof.Machine.execMov w s
  | .movi w => Sys2Proof.Machine.execMovi w s
  | .sel w => Sys2Proof.Machine.execSel w s
  | .selk w => Sys2Proof.Machine.execSelk w s
  | .drop w => Sys2Proof.Machine.execDrop w s
  | .emit w => Sys2Proof.Machine.execEmit w s
  | .plog w => Sys2Proof.Machine.execPlog w s
  | .pset w => Sys2Proof.Machine.execPset w s
  | .ptest w => Sys2Proof.Machine.execPtest w s
  | .lane w => Sys2Proof.Machine.execLane w s
  | .shuf w => Sys2Proof.Machine.execShuf w s
  | .pack w => Sys2Proof.Machine.execPack w s
  | .unpk w => Sys2Proof.Machine.execUnpk w s
  | .gets w => Sys2Proof.Machine.execGets w s
  | .tagf w => Sys2Proof.Machine.execTagf w s
  | .add w => Sys2Proof.Machine.execAdd w s
  | .sub w => Sys2Proof.Machine.execSub w s
  | .addc w => Sys2Proof.Machine.execAddc w s
  | .subb w => Sys2Proof.Machine.execSubb w s
  | .mul w => Sys2Proof.Machine.execMul w s
  | .mulh w => Sys2Proof.Machine.execMulh w s
  | .mad w => Sys2Proof.Machine.execMad w s
  | .absd w => Sys2Proof.Machine.execAbsd w s
  | .min w => Sys2Proof.Machine.execMin w s
  | .max w => Sys2Proof.Machine.execMax w s
  | .abs w => Sys2Proof.Machine.execAbs w s
  | .neg w => Sys2Proof.Machine.execNeg w s
  | .avg w => Sys2Proof.Machine.execAvg w s
  | .indx w => Sys2Proof.Machine.execIndx w s
  | .clamp w => Sys2Proof.Machine.execClamp w s
  | .dot4 w => Sys2Proof.Machine.execDot4 w s
  | .and w => Sys2Proof.Machine.execAnd w s
  | .or w => Sys2Proof.Machine.execOr w s
  | .xor w => Sys2Proof.Machine.execXor w s
  | .andn w => Sys2Proof.Machine.execAndn w s
  | .orn w => Sys2Proof.Machine.execOrn w s
  | .not w => Sys2Proof.Machine.execNot w s
  | .shl w => Sys2Proof.Machine.execShl w s
  | .shr w => Sys2Proof.Machine.execShr w s
  | .sar w => Sys2Proof.Machine.execSar w s
  | .rol w => Sys2Proof.Machine.execRol w s
  | .clz w => Sys2Proof.Machine.execClz w s
  | .popc w => Sys2Proof.Machine.execPopc w s
  | .brev w => Sys2Proof.Machine.execBrev w s
  | .extr w => Sys2Proof.Machine.execExtr w s
  | .insr w => Sys2Proof.Machine.execInsr w s
  | .bsel w => Sys2Proof.Machine.execBsel w s
  | .cmpeq w => Sys2Proof.Machine.execCmpeq w s
  | .cmpne w => Sys2Proof.Machine.execCmpne w s
  | .cmplt w => Sys2Proof.Machine.execCmplt w s
  | .cmple w => Sys2Proof.Machine.execCmple w s
  | .cmpgt w => Sys2Proof.Machine.execCmpgt w s
  | .cmpge w => Sys2Proof.Machine.execCmpge w s
  | .tstz w => Sys2Proof.Machine.execTstz w s
  | .cnt w => Sys2Proof.Machine.execCnt w s
  | .cnt2 w => Sys2Proof.Machine.execCnt2 w s
  | .step w => Sys2Proof.Machine.execStep w s
  | .joink w => Sys2Proof.Machine.execJoink w s
  | .ordj w => Sys2Proof.Machine.execOrdj w s
  | .fadd w => Sys2Proof.Machine.execFadd w s
  | .fsub w => Sys2Proof.Machine.execFsub w s
  | .fmul w => Sys2Proof.Machine.execFmul w s
  | .fma w => Sys2Proof.Machine.execFma w s
  | .fnma w => Sys2Proof.Machine.execFnma w s
  | .fms w => Sys2Proof.Machine.execFms w s
  | .fmin w => Sys2Proof.Machine.execFmin w s
  | .fmax w => Sys2Proof.Machine.execFmax w s
  | .fabs w => Sys2Proof.Machine.execFabs w s
  | .fneg w => Sys2Proof.Machine.execFneg w s
  | .fcmpeq w => Sys2Proof.Machine.execFcmpeq w s
  | .fcmplt w => Sys2Proof.Machine.execFcmplt w s
  | .fcmple w => Sys2Proof.Machine.execFcmple w s
  | .fcmpun w => Sys2Proof.Machine.execFcmpun w s
  | .fclass w => Sys2Proof.Machine.execFclass w s
  | .fscale w => Sys2Proof.Machine.execFscale w s
  | .frnd w => Sys2Proof.Machine.execFrnd w s
  | .frcp w => Sys2Proof.Machine.execFrcp w s
  | .frsq w => Sys2Proof.Machine.execFrsq w s
  | .fsqrt w => Sys2Proof.Machine.execFsqrt w s
  | .fdiv w => Sys2Proof.Machine.execFdiv w s
  | .fexp2 w => Sys2Proof.Machine.execFexp2 w s
  | .flog2 w => Sys2Proof.Machine.execFlog2 w s
  | .fsum w => Sys2Proof.Machine.execFsum w s
  | .fdot w => Sys2Proof.Machine.execFdot w s
  | .fmaxa w => Sys2Proof.Machine.execFmaxa w s
  | .cvt w => Sys2Proof.Machine.execCvt w s
  | .ftoi w => Sys2Proof.Machine.execFtoi w s
  | .itof w => Sys2Proof.Machine.execItof w s
  | .sxpk w => Sys2Proof.Machine.execSxpk w s
  | .sxup w => Sys2Proof.Machine.execSxup w s
  | .sxex w => Sys2Proof.Machine.execSxex w s
  | .alloc w => Sys2Proof.Machine.execAlloc w s
  | .seal w => Sys2Proof.Machine.execSeal w s
  | .release w => Sys2Proof.Machine.execRelease w s
  | .retain w => Sys2Proof.Machine.execRetain w s
  | .tld w => Sys2Proof.Machine.execTld w s
  | .tst w => Sys2Proof.Machine.execTst w s
  | .tldw w => Sys2Proof.Machine.execTldw w s
  | .tstw w => Sys2Proof.Machine.execTstw w s
  | .tzero w => Sys2Proof.Machine.execTzero w s
  | .tinfo w => Sys2Proof.Machine.execTinfo w s
  | .tpln w => Sys2Proof.Machine.execTpln w s
  | .pool w => Sys2Proof.Machine.execPool w s
  | .acca w => Sys2Proof.Machine.execAcca w s
  | .accf w => Sys2Proof.Machine.execAccf w s
  | .ld w => Sys2Proof.Machine.execLd w s
  | .ldt w => Sys2Proof.Machine.execLdt w s
  | .lda w => Sys2Proof.Machine.execLda w s
  | .st w => Sys2Proof.Machine.execSt w s
  | .stt w => Sys2Proof.Machine.execStt w s
  | .stl w => Sys2Proof.Machine.execStl w s
  | .pref w => Sys2Proof.Machine.execPref w s
  | .fence w => Sys2Proof.Machine.execFence w s
  | .aadd w => Sys2Proof.Machine.execAadd w s
  | .amin w => Sys2Proof.Machine.execAmin w s
  | .amax w => Sys2Proof.Machine.execAmax w s
  | .aand w => Sys2Proof.Machine.execAand w s
  | .aor w => Sys2Proof.Machine.execAor w s
  | .axor w => Sys2Proof.Machine.execAxor w s
  | .axchg w => Sys2Proof.Machine.execAxchg w s
  | .acas w => Sys2Proof.Machine.execAcas w s
  | .afadd w => Sys2Proof.Machine.execAfadd w s
  | .red w => Sys2Proof.Machine.execRed w s
  | .flush w => Sys2Proof.Machine.execFlush w s
  | .invl w => Sys2Proof.Machine.execInvl w s
  | .mma w => Sys2Proof.Machine.execMma w s
  | .mmaz w => Sys2Proof.Machine.execMmaz w s
  | .accrd w => Sys2Proof.Machine.execAccrd w s
  | .accrdn w => Sys2Proof.Machine.execAccrdn w s
  | .accwr w => Sys2Proof.Machine.execAccwr w s
  | .accz w => Sys2Proof.Machine.execAccz w s
  | .acccv w => Sys2Proof.Machine.execAcccv w s
  | .mtcfg w => Sys2Proof.Machine.execMtcfg w s
  | .copy w => Sys2Proof.Machine.execCopy w s
  | .gath w => Sys2Proof.Machine.execGath w s
  | .scat w => Sys2Proof.Machine.execScat w s
  | .xcol w => Sys2Proof.Machine.execXcol w s
  | .engq w => Sys2Proof.Machine.execEngq w s
  | .spawn w => Sys2Proof.Machine.execSpawn w s
  | .taskd w => Sys2Proof.Machine.execTaskd w s
  | .synca w => Sys2Proof.Machine.execSynca w s
  | .synci w => Sys2Proof.Machine.execSynci w s
  | .exit w => Sys2Proof.Machine.execExit w s
  | .exit2 w => Sys2Proof.Machine.execExit2 w s
  | .exits w => Sys2Proof.Machine.execExits w s
  | .done w => Sys2Proof.Machine.execDone w s
  | .safe w => Sys2Proof.Machine.execSafe w s
  | .trap w => Sys2Proof.Machine.execTrap w s
  | .sysrd w => Sys2Proof.Machine.execSysrd w s
  | .syswr w => Sys2Proof.Machine.execSyswr w s
  | .rsplit w => Sys2Proof.Machine.execRsplit w s
  | .rmerge w => Sys2Proof.Machine.execRmerge w s
  | .rinv w => Sys2Proof.Machine.execRinv w s
  | .rdisc w => Sys2Proof.Machine.execRdisc w s
  | .rmove w => Sys2Proof.Machine.execRmove w s
  | .rprobe w => Sys2Proof.Machine.execRprobe w s
  | .rwin w => Sys2Proof.Machine.execRwin w s
  | .cfgld w => Sys2Proof.Machine.execCfgld w s
  | .cfginv w => Sys2Proof.Machine.execCfginv w s
  | .eret w => Sys2Proof.Machine.execEret w s
  | .tracew w => Sys2Proof.Machine.execTracew w s
  | .freeze w => Sys2Proof.Machine.execFreeze w s
  | .thaw w => Sys2Proof.Machine.execThaw w s
  | .resultPlacement core site idx => Sys2Proof.Machine.execResultPlacement core site idx s
  | .passThrough core site dir => Sys2Proof.Machine.execPassThrough core site dir s
  | .steeredToken core site dir => Sys2Proof.Machine.execSteeredToken core site dir s
  | .wideBeatPlacement core idx => Sys2Proof.Machine.execWideBeatPlacement core idx s
  | .tileWrite core idx => Sys2Proof.Machine.execTileWrite core idx s
  | .chunkComplete core idx => Sys2Proof.Machine.execChunkComplete core idx s
  | .journalCopy core bank => Sys2Proof.Machine.execJournalCopy core bank s
  | .allocGrant core pool => Sys2Proof.Machine.execAllocGrant core pool s
  | .compaction core pool => Sys2Proof.Machine.execCompaction core pool s
  | .compactionComplete core => Sys2Proof.Machine.execCompactionComplete core s
  | .allocDeadlock core => Sys2Proof.Machine.execAllocDeadlock core s
  | .packetSend chan => Sys2Proof.Machine.execPacketSend chan s
  | .getsPacket slice at_ => Sys2Proof.Machine.execGetsPacket slice at_ s
  | .getx slice at_ => Sys2Proof.Machine.execGetx slice at_ s
  | .store slice at_ => Sys2Proof.Machine.execStore slice at_ s
  | .redPacket slice at_ => Sys2Proof.Machine.execRedPacket slice at_ s
  | .wb slice idx => Sys2Proof.Machine.execWb slice idx s
  | .evn slice idx => Sys2Proof.Machine.execEvn slice idx s
  | .disc slice idx => Sys2Proof.Machine.execDisc slice idx s
  | .ownerReply slice idx => Sys2Proof.Machine.execOwnerReply slice idx s
  | .invalidationAck slice idx => Sys2Proof.Machine.execInvalidationAck slice idx s
  | .invalidation core idx => Sys2Proof.Machine.execInvalidation core idx s
  | .recall core idx => Sys2Proof.Machine.execRecall core idx s
  | .proxyRequest slice at_ => Sys2Proof.Machine.execProxyRequest slice at_ s
  | .loadReply core idx => Sys2Proof.Machine.execLoadReply core idx s
  | .storeAck core idx => Sys2Proof.Machine.execStoreAck core idx s
  | .getxGrant core idx => Sys2Proof.Machine.execGetxGrant core idx s
  | .errorReply core idx => Sys2Proof.Machine.execErrorReply core idx s
  | .hbmReadComplete line fail retryFail onDie corrected => Sys2Proof.Machine.execHbmReadComplete line fail retryFail onDie corrected s
  | .refreshInterval chan pc => Sys2Proof.Machine.execRefreshInterval chan pc s
  | .refpb chan pc => Sys2Proof.Machine.execRefpb chan pc s
  | .refab chan pc => Sys2Proof.Machine.execRefab chan pc s
  | .temperatureChange stack hot => Sys2Proof.Machine.execTemperatureChange stack hot s
  | .patrolScrub line fail corrected => Sys2Proof.Machine.execPatrolScrub line fail corrected s
  | .rangeTableMiss die => Sys2Proof.Machine.execRangeTableMiss die s
  | .walkInstall die idx => Sys2Proof.Machine.execWalkInstall die idx s
  | .invalidationComplete idx => Sys2Proof.Machine.execInvalidationComplete idx s
  | .rmoveCopyComplete idx => Sys2Proof.Machine.execRmoveCopyComplete idx s
  | .engineJobAccept queue => Sys2Proof.Machine.execEngineJobAccept queue s
  | .linear die at_ => Sys2Proof.Machine.execLinear die at_ s
  | .toplanes die at_ => Sys2Proof.Machine.execToplanes die at_ s
  | .fromplanes die at_ => Sys2Proof.Machine.execFromplanes die at_ s
  | .gather die at_ => Sys2Proof.Machine.execGather die at_ s
  | .scatter die at_ => Sys2Proof.Machine.execScatter die at_ s
  | .allreduce die at_ => Sys2Proof.Machine.execAllreduce die at_ s
  | .reduce die at_ => Sys2Proof.Machine.execReduce die at_ s
  | .bcast die at_ => Sys2Proof.Machine.execBcast die at_ s
  | .allgather die at_ => Sys2Proof.Machine.execAllgather die at_ s
  | .reducescatter die at_ => Sys2Proof.Machine.execReducescatter die at_ s
  | .rget die at_ remote => Sys2Proof.Machine.execRget die at_ remote s
  | .rput die at_ remote => Sys2Proof.Machine.execRput die at_ remote s
  | .collectiveInstanceFill group seq remote => Sys2Proof.Machine.execCollectiveInstanceFill group seq remote s
  | .engineJobComplete die idx => Sys2Proof.Machine.execEngineJobComplete die idx s
  | .engineActivation core => Sys2Proof.Machine.execEngineActivation core s
  | .blockDemand core graph block => Sys2Proof.Machine.execBlockDemand core graph block s
  | .prefetchDemand core => Sys2Proof.Machine.execPrefetchDemand core s
  | .blockValidationComplete core ctx => Sys2Proof.Machine.execBlockValidationComplete core ctx s
  | .staleContextRetire core ctx => Sys2Proof.Machine.execStaleContextRetire core ctx s
  | .vectorFetch core => Sys2Proof.Machine.execVectorFetch core s
  | .selectorChoice core => Sys2Proof.Machine.execSelectorChoice core s
  | .selectorQuantumExpiry core => Sys2Proof.Machine.execSelectorQuantumExpiry core s
  | .threadInjection core => Sys2Proof.Machine.execThreadInjection core s
  | .exitComplete core tid => Sys2Proof.Machine.execExitComplete core tid s
  | .gateRegistration die idx => Sys2Proof.Machine.execGateRegistration die idx s
  | .threadFault core tid err => Sys2Proof.Machine.execThreadFault core tid err s
  | .freezePropagation core space => Sys2Proof.Machine.execFreezePropagation core space s
  | .safeDistance core tid => Sys2Proof.Machine.execSafeDistance core tid s
  | .timerExpiry core => Sys2Proof.Machine.execTimerExpiry core s
  | .preemptionRequest core => Sys2Proof.Machine.execPreemptionRequest core s
  | .threadPark core tid => Sys2Proof.Machine.execThreadPark core tid s
  | .saveImage core => Sys2Proof.Machine.execSaveImage core s
  | .resumption core => Sys2Proof.Machine.execResumption core s
  | .resumeInjection core tid => Sys2Proof.Machine.execResumeInjection core tid s
  | .taskDecrement die idx => Sys2Proof.Machine.execTaskDecrement die idx s
  | .taskDispatch die => Sys2Proof.Machine.execTaskDispatch die s
  | .taskComplete die slot => Sys2Proof.Machine.execTaskComplete die slot s
  | .syncArrival die idx => Sys2Proof.Machine.execSyncArrival die idx s
  | .syncInit die idx => Sys2Proof.Machine.execSyncInit die idx s
  | .syncCacheFill die index => Sys2Proof.Machine.execSyncCacheFill die index s
  | .boundaryTokenDelivery core be => Sys2Proof.Machine.execBoundaryTokenDelivery core be s
  | .mtStartGrant die => Sys2Proof.Machine.execMtStartGrant die s
  | .laneRetrain port lane errs => Sys2Proof.Machine.execLaneRetrain port lane errs s
  | .laneHandback port lane => Sys2Proof.Machine.execLaneHandback port lane s
  | .laneSignalLoss port lane => Sys2Proof.Machine.execLaneSignalLoss port lane s
  | .linkTraining port trelpin => Sys2Proof.Machine.execLinkTraining port trelpin s
  | .remoteRmaWrite port at_ data => Sys2Proof.Machine.execRemoteRmaWrite port at_ data s
  | .remoteRmaRead port at_ len => Sys2Proof.Machine.execRemoteRmaRead port at_ len s
  | .hello flow key => Sys2Proof.Machine.execHello flow key s
  | .prove flow sig => Sys2Proof.Machine.execProve flow sig s
  | .claim session => Sys2Proof.Machine.execClaim session s
  | .handover session target => Sys2Proof.Machine.execHandover session target s
  | .accept session => Sys2Proof.Machine.execAccept session s
  | .beat session => Sys2Proof.Machine.execBeat session s
  | .status session => Sys2Proof.Machine.execStatus session s
  | .telem session => Sys2Proof.Machine.execTelem session s
  | .trace session die offset len => Sys2Proof.Machine.execTrace session die offset len s
  | .quote session nonce space => Sys2Proof.Machine.execQuote session nonce space s
  | .space session req => Sys2Proof.Machine.execSpace session req s
  | .queue session space create => Sys2Proof.Machine.execQueue session space create s
  | .admitGraph session graph dir sig => Sys2Proof.Machine.execAdmitGraph session graph dir sig s
  | .mgmt session addr value => Sys2Proof.Machine.execMgmt session addr value s
  | .launch session queue port records map => Sys2Proof.Machine.execLaunch session queue port records map s
  | .ownershipTimeout => Sys2Proof.Machine.execOwnershipTimeout s
  | .sessionClose session => Sys2Proof.Machine.execSessionClose session s
  | .telemetrySample die iavg pavg pmax => Sys2Proof.Machine.execTelemetrySample die iavg pavg pmax s
  | .traceRecordAppend die => Sys2Proof.Machine.execTraceRecordAppend die s
  | .moduleReset cause cfg => Sys2Proof.Machine.execModuleReset cause cfg s
  | .dieReset idx => Sys2Proof.Machine.execDieReset idx s
  | .coreReset idx => Sys2Proof.Machine.execCoreReset idx s
  | .dcbootClear idx => Sys2Proof.Machine.execDcbootClear idx s
  | .serviceCoreRelease idx => Sys2Proof.Machine.execServiceCoreRelease idx s
  | .readSweep idx => Sys2Proof.Machine.execReadSweep idx s
  | .writeSweep idx => Sys2Proof.Machine.execWriteSweep idx s
  | .patternTest idx => Sys2Proof.Machine.execPatternTest idx s
  | .phyCommandComplete slice eyes errs => Sys2Proof.Machine.execPhyCommandComplete slice eyes errs s
  | .phrepWrite idx => Sys2Proof.Machine.execPhrepWrite idx s
  | .trainedWrite idx => Sys2Proof.Machine.execTrainedWrite idx s
  | .pcInitComplete chan pc => Sys2Proof.Machine.execPcInitComplete chan pc s
  | .registerWrite idx => Sys2Proof.Machine.execRegisterWrite idx s
  | .fabricClockChange core => Sys2Proof.Machine.execFabricClockChange core s
  | .hbmWriteComplete line => Sys2Proof.Machine.execHbmWriteComplete line s
  | .connectionSetup port features => Sys2Proof.Machine.execConnectionSetup port features s

end Sys2Proof.Machine
end

