-- ==== Sys2Proof/Machine/Edge.lean ====
section
/-! DEFINITION. How a fabric cycle ends (R2, R204, R392): what must happen in a cycle before it can end, what takes effect at its end, and
the start of the next (log 1, 4).

A cycle has two phases. In the first, sites fire and tokens move; in the second, what is due at the end of the cycle is placed. What a
rule numbers in cycles cannot be put off: the phase does not end while it is owed. -/

namespace Sys2Proof.Machine

/-! ### What the first phase owes -/

/-- Whether a site can fire or ask (R202, R178), or a token can pass or be steered through it (R200, R233). -/
def State.siteOwes (s : State) (core site : Nat) : Bool :=
  (s.choose core site).isSome || ([0, 1, 2, 3].any fun d => ((s.core core).passDue s.cycle site d).isSome)
    || (List.range 36).any fun d => ((s.core core).steerDue s.cycle site d).isSome

/-- Whether a core's selector, allocator, timer or count of cycles since a safe point has something to do in this cycle. -/
def State.coreOwes (s : State) (core : Nat) : Bool :=
  let c := s.core core
  c.choiceDue s.cycle || c.quantumOver s.cycle || c.injects s.cycle || c.areaAsk s.cycle || c.timerDue s.cycle
    || s.grantDue core || c.validDue s.cycle || (c.prefetchDue s.cycle).isSome || s.vectorDue core || (c.demandDue s.cycle).isSome || ((List.range 8).any fun k => c.retireDue s.cycle k) || ((List.range 15).any fun p => c.mayCompact s.cycle p) || c.compactDue s.cycle
    || (c.deadlocked s.cycle && c.deadVictim.isSome) || c.threads.any fun t => c.safeOver s.cycle t.1

/-- Whether a recall has stood at a core for the 64 cycles within which its L1 answers (R124). -/
def Core.recallDue (c : Core) (now : Nat) : Bool := c.inbox.any fun p => p.kind == .recall && decide (p.came + 64 ≤ now)

/-- Whether the first phase cannot end yet. -/
def State.owesFire (s : State) : Bool :=
  (s.cores.any fun (c : Nat × Core) => s.coreOwes c.1 || c.2.recallDue s.cycle || c.2.sites.any fun x => s.siteOwes c.1 x.1)
    || s.dies.any fun (d : Nat × Die) => s.startGrantDue d.1

/-! ### What takes effect at the end of the firing cycle -/

/-- A value that a firing reports as it is at the end of its cycle, given to its result in flight. -/
def Core.report (c : Core) (site slot due : Nat) (v : Payload) : Core :=
  c.modSite site fun x => { x with flight := x.flight.map fun f =>
    if f.key == 0 && f.slot == slot && f.due == some due then { f with tok := { f.tok with val := mkVal v } } else f }

/-- Tile states and banks (R184, R263). -/
def Core.endTile (c : Core) (now : Nat) (e : EndOp) : Core :=
  match e with
  | .seal i n => c.sealTile i n
  | .release i => c.releaseTile now i
  | .retain i => c.retainTile i
  | .word b w v => c.modBank b fun k => { k with words := tblSet k.words w v }
  | .zero b => c.modBank b fun k => { k with words := [] }
  | _ => c

/-- A message enters its engine's queue (R158). -/
def State.endSend (s : State) (e : EndOp) : State :=
  match e with
  | .send j => s.setJobQueue j.queue (s.jobQueue j.queue ++ [j])
  | _ => s

/-- What POOL and ENGQ report, exits and a pre-emption (R192, R320, R343, R372). -/
def State.endReport (s : State) (core : Nat) (e : EndOp) : State :=
  match e with
  | .exit t ctx done gate => s.endExit core t ctx done gate
  | .preempt f => s.modCore core fun c => { c.withdrawParked false with preempt := some f }
  | .pool site slot k => s.modCore core fun c => c.report site slot (s.cycle + 2) (c.poolResult (s.cycle + 1) k)
  | .engines site slot _ => s.modCore core fun c => c.report site slot (s.cycle + 4) (s.engines core)
  | _ => s

/-- Everything of a core that takes effect at the end of the firing cycle. -/
def State.endCore (s : State) (core : Nat) : State :=
  let es := (s.core core).endq
  let s := s.modCore core fun c => { es.foldl (fun (c : Core) e => c.endTile s.cycle e) c with endq := [] }
  es.foldl (fun s e => s.endReport core e) (es.foldl State.endSend s)

/-! ### MTWAIT (R267) -/

/-- Whether a slot of a matrix tile is an MMA or MMAZ that lacks only its beats. -/
def State.lacksBeats (s : State) (core site ctx slot : Nat) (x : SiteWord) : Bool :=
  match decodeWord x with
  | .ok (.mma w) | .ok (.mmaz w) =>
    let s := (s.at_ core site ctx slot).modHereSite fun y => { y with fired := none }
    let c := s.here
    let o := readOps s w 32
    let b := lane o.c 32 2
    (match decodeWord x with
      | .ok i => eligible c s.cycle site ctx w i
      | .error _ => false)
      && tileUse s (bits o.c.toNat 47 32) (some 2) false o.tid == .ok && b ≤ 190 && c.holds b o.tid && c.holds (b + 1) o.tid
      && (chunkBeats s w o.tid).isNone && decide (s.hereSite.busy ≤ s.cycle)
      && (c.chunks.all fun k => k.site == site || !(k.bank == b || k.bank + 1 == b || k.bank == b + 1))
      && (c.journalsMissing [b, b + 1]).isEmpty
  | _ => false

/-- Whether some matrix tile of a core holds such a slot. -/
def State.waitsForBeats (s : State) (core : Nat) : Bool :=
  (s.core core).sites.any fun x => mtSites.contains x.1 && x.2.ctxs.any fun y =>
    ((s.core core).ctx y.1).valid s.cycle && y.2.words.any fun p => s.lacksBeats core x.1 y.1 p.1 p.2

def State.countMtWait (s : State) : State :=
  { s with cores := tblMap s.cores fun (k : Nat) (c : Core) => if s.waitsForBeats k then { c with mtWait := (c.mtWait + 1) % 2 ^ 64 } else c }

/-! ### The shared bank port (R168, R261) -/

/-- Whether something else may address the banks in a cycle beside the slab reads of a matrix tile: another tile's, a memory element's
access, a job of the core's engines or a compaction. -/
def State.portShared (s : State) (core site : Nat) : Bool :=
  let c := s.core core
  (c.chunks.any fun k => k.site != site && decide (s.cycle ≤ k.reads)) || (c.tiles.any fun t => t.2.pinTo == s.cycle + 5)
    || (c.writes.any fun w => decide (w.due ≤ s.cycle)) || !c.compact.isEmpty
    || s.dies.any fun d => d.2.jobs.any fun j => j.core == core && !j.held

/-- The slab reads of one matrix tile in a cycle: where the port is shared they may wait for a cycle, and the chunk and those behind it
complete later (R261; a free value, log 67). -/
def State.slabWait (s : State) (core site : Nat) : State :=
  match (s.core core).chunks.find? fun k => k.site == site && decide (k.fired < s.cycle) && decide (s.cycle ≤ k.reads) with
  | none => s
  | some k =>
    if !s.portShared core site then s else
    let (v, s) := s.free
    s.modCore core fun c => { c with chunks := c.chunks.map fun j =>
      if j.site == site && k.fired ≤ j.fired then { j with reads := j.reads + v % 2, due := j.due + v % 2 } else j }

/-- The slab reads of every matrix tile in a cycle. -/
def State.slabWaits (s : State) : State :=
  s.cores.foldl (fun (s : State) (c : Nat × Core) =>
    if c.2.chunks.isEmpty then s else mtSites.foldl (fun s k => s.slabWait c.1 k) s) s

/-- The first phase ends. -/
def State.endFire (s : State) : State :=
  let t := s.countMtWait.keepStalls.slabWaits
  { t.cores.foldl (fun (s : State) (c : Nat × Core) => s.endCore c.1) t with endPhase := true }

/-! ### What the second phase owes -/

/-- Whether a result of a site is due at the end of this cycle. -/
def Core.placeDue (c : Core) (now site : Nat) : Bool :=
  let fs := (c.site site).flight
  (List.range fs.length).any fun i => match fs[i]? with
    | some f => c.placeable now site i f
    | none => false

/-- Whether something of a core is still due at the end of this cycle. -/
def Core.owesEnd (c : Core) (now : Nat) : Bool :=
  (c.sites.any fun x => c.placeDue now x.1) || (c.wide.any fun w => decide (w.due ≤ now)) || (c.writes.any fun w => decide (w.due ≤ now))
    || (c.chunks.any fun k => decide (k.due ≤ now)) || (c.copies.any fun p => decide (p.2.1 ≤ now))
    || c.threads.any fun t => c.exitDue now t.1 || (t.2.pending.isSome && !c.chunks.any fun k => k.tid == t.1)

/-- Whether the cycle cannot end yet. -/
def State.owesEnd (s : State) : Bool := s.cores.any fun (c : Nat × Core) => c.2.owesEnd s.cycle

/-! ### The next cycle -/

/-- Whether a head of an input leaves its buffer at the end of a cycle (R350). -/
def Core.headLeaves (c : Core) (now k x n : Nat) : Bool :=
  let site := c.site k
  let y := site.ctx x
  let j := routeIn y.route n
  (y.entryBuf n ++ if 1 ≤ j && j ≤ 4 then site.buf (j - 1) else []).any fun e => e.gone == some now && e.tok.ctx == x

/-- Whether a start's request keeps its place: its heads still stand in their buffers, and none of them has left in this cycle for a like
one (R350). -/
def State.keepsStart (s : State) (now : Nat) (r : StartReq) : Bool :=
  let c := s.core r.core
  match decodeWord (tblGet 0 ((c.site r.site).ctx r.ctx).words r.slot) with
  | .ok i => match i.opcode with
    | some (_, w) => !((inputsUsed w).any fun n => c.headLeaves (now - 1) r.site r.ctx n.val)
        && match headsOf c now r.site r.ctx (inputsUsed w) with
      | some (t :: _) => t.tid == r.tid
      | _ => false
    | none => false
  | .error _ => false

/-- A die at the start of a cycle: requests withdrawn, and SLWAIT (R350, R351). -/
def State.nextDie (s : State) (d : Die) : Die :=
  { d with slWait := if d.starts.isEmpty then d.slWait else (d.slWait + 1) % 2 ^ 64
           starts := d.starts.filter fun r => s.keepsStart (s.cycle + 1) r
           granted := d.granted.filter fun r => s.keepsStart (s.cycle + 1) r }

/-- The requests that wait at the controllers: since when, and for which line. -/
def State.hbmWaits (s : State) : List (Nat × Nat) :=
  s.lines.filterMap fun (x : Nat × Line) => match x.2.asked with
    | none => none
    | some t =>
      let waits := !x.2.hbmWrite.isEmpty || (match x.2.pend with
        | some p => p.hbm
        | none => x.2.data.isNone)
      if waits then some (t, x.1) else none

/-- The line of the oldest request that waits at a pseudo-channel; of one cycle's, the lowest line's (R89; log 146). -/
def State.oldestWait (s : State) (chan pc : Nat) : Option Nat :=
  match s.hbmWaits.filter fun w => lineChan w.2 == chan && linePc w.2 == pc with
  | [] => none
  | w :: ws => some (ws.foldl (fun (b : Nat × Nat) x => if x.1 < b.1 || (x.1 == b.1 && x.2 < b.2) then x else b) w).2

/-- The channels of which a pseudo-channel's oldest request waits only for a refresh (R89). -/
def State.stalledChans (s : State) : List Nat :=
  ((s.hbmWaits.map fun w => lineChan w.2).eraseDups).filter fun ch => [0, 1].any fun pc => match s.oldestWait ch pc with
    | some l => s.hbmAnswer l == .serve && s.refreshing l
    | none => false

def State.countStalls (s : State) : State :=
  s.stalledChans.foldl (fun (s : State) ch => s.modCtrl ch fun c => { c with stall := (c.stall + 1) % 2 ^ 64 }) s

/-- A core at the start of a cycle: the count of R182, the pools that reads held (R181), and the flags of the cycle that has ended. -/
def State.nextCore (s : State) (k : Nat) (c : Core) : Core :=
  let freed := ((c.tiles.filter fun t => t.2.pinTo == s.cycle && t.2.state != .empty).map fun t => t.2.pool)
    ++ ((c.chunks.filter fun x => x.reads == s.cycle).map fun x => (c.tile x.tile).pool)
  { c with idleFrom := if s.stuck k then c.idleFrom else s.cycle + 1
           noCompact := c.noCompact.filter fun p => !freed.contains p
           preFound := c.findPrefetch s.cycle
           had := c.candidates s.cycle
           fpFlag := c.fpFlag ||| c.fpLate
           fpNew := 0
           fpLate := 0 }

/-- The next cycle begins: written counters keep what was written (R89), what waited for the end of a cycle is done, and the reference
clock goes on (R1, R2). One cycle is every core's: R390 speaks of a core whose fabric clock changes rate or stops, and here none does (DESIGN
CHOICE, log 3). -/
def State.nextCycle (s : State) : State :=
  let s := s.countStalls
  let s := { s with dies := tblMap s.dies fun _ (d : Die) => s.nextDie d }
  let s := s.keepWritten
  let s := (s.cores.foldl (fun (s : State) (c : Nat × Core) => s.inOrder c.1) s).admitQueues.forgetReads
  let s := (s.runRanges [] (s.rangeq.length + 1)).finishFreezes.finishParts
  let s := s.cores.foldl (fun (s : State) (c : Nat × Core) => s.deliverOwed c.1) s
  State.lapse { s with
    cores := tblMap s.cores fun (k : Nat) (c : Core) => s.nextCore k c.parkWaiting
    cycle := s.cycle + 1, refTick := s.refTick + Config.ticks s.cycle, endPhase := false }

/-- The cycle moves on, unless something of its phase is still owed. -/
def State.edge (s : State) : State :=
  if s.endPhase then (if s.owesEnd || (List.range 4).any (fun d => s.sampleDue d) then s else s.nextCycle) else if s.owesFire then s else s.endFire

end Sys2Proof.Machine
end

