-- ==== Sys2Proof/Machine/Step.lean ====
section
/-! DEFINITION. One step of the device (log 1): a site fires, an event happens, or the cycle moves on. -/

namespace Sys2Proof.Machine

/-- What a turn does. A site without a slot to fire, and an event that cannot happen, change nothing. -/
def runTurn (t : Turn) (s : State) : Host.Outcome State Fault Refusal :=
  match t with
  | .site core site => match s.choose core site with
    | some (i, u) => exec i u
    | none => .next s
  | .event i => exec i s
  | .edge => .next s.edge

/-- The next turn taken. -/
def step (s : State) : Host.Outcome State Fault Refusal := runTurn s.takeTurn.1 s.takeTurn.2

/-- The state with an instruction's word in a slot whose site's turn comes next. -/
def State.withFetchWord (s : State) (nbits w : Nat) : State := s.placeWord (.ofNat 128 (w % 2 ^ nbits))

end Sys2Proof.Machine
end

