-- ==== Sys2Proof/Safety.lean ====
section
/-! DEFINITION. What counts as a safe run. -/

namespace Sys2Proof

open Machine

/-- A step that neither stops nor is refused. -/
def Answers (o : Host.Outcome State Fault Refusal) : Prop := ∃ t, o = .next t

/-- A run of n steps that neither stops nor is refused. -/
def Safe (n : Nat) (s : State) : Prop := Answers (Host.Core.run { State, Fault, Refusal, step, reset := State.reset } n s)

end Sys2Proof
end

