-- ==== Sys2Proof/Certificates/Slice0/Obligations.lean ====
section
/-! DEFINITION. The statements of this slice, each a proposition for the provers. -/

namespace Sys2Proof.Says

open Machine

/-! ### What a firing does to its site

`Leaves` says which result a firing puts on its way, and `SiteOnly` that nothing but the firing's own site, and the number of the
next free value, may differ after it. -/

/-- The result of a firing on its way (R204): it is placed at the end of cycle `due`. -/
def onItsWay (s : State) (w : SlotWord) (due : Nat) (kind : Kind) (tag : Fmt) (flags : BitVec 5) (v : Payload) : Flight :=
  { slot := s.loc.slot, ctx := s.loc.ctx, tid := (firingTid s w).getD noTid, due := some due, ready := true, key := 0, om := w.om, dr := w.dr,
    room := true, flags := flags
    tok := { val := ⟨v, residues v⟩, kind := kind, tag := tag, ctx := s.loc.ctx, tid := (firingTid s w).getD noTid } }

/-- The site of the firing, after it. -/
def siteOf (s t : State) : Site := (t.core s.loc.core).site s.loc.site

/-- One result of latency `lat` is on its way: to the links of OM and to the register DR of the word, with the floating-point flags it
sets. A firing that has none of the three leaves nothing on its way. -/
def Leaves (s t : State) (w : SlotWord) (lat : Nat) (kind : Kind) (tag : Fmt) (flags : BitVec 5) (v : Payload) : Prop :=
  (siteOf s t).flight = s.hereSite.flight ++
    if w.om = 0 ∧ w.dr = none ∧ flags = 0 then [] else [onItsWay s w (s.cycle + lat) kind tag flags v]

/-- Everything outside the firing's site is as it was; the number of the next free value apart. -/
def SiteOnly (s t : State) : Prop :=
  t = { s with cores := t.cores, freeNo := t.freeNo } ∧ (∀ k, k ≠ s.loc.core → t.core k = s.core k)
    ∧ t.core s.loc.core = s.here.setSite s.loc.site (siteOf s t)

/-- The parts of a site that no firing of a result changes: the other contexts; in its own context the words, the routing word, the
registers, the counter, the joins, the EMIT counts and the binding; and the boundary buffer, the wide buffer and the plane array. -/
def SiteKept (s t : State) : Prop :=
  (∀ k, k ≠ s.loc.ctx → (siteOf s t).ctx k = s.hereSite.ctx k)
    ∧ ((siteOf s t).ctx s.loc.ctx).words = s.hereCtx.words ∧ ((siteOf s t).ctx s.loc.ctx).route = s.hereCtx.route
    ∧ ((siteOf s t).ctx s.loc.ctx).dreg = s.hereCtx.dreg ∧ ((siteOf s t).ctx s.loc.ctx).cnt = s.hereCtx.cnt
    ∧ ((siteOf s t).ctx s.loc.ctx).join = s.hereCtx.join ∧ ((siteOf s t).ctx s.loc.ctx).emit = s.hereCtx.emit
    ∧ ((siteOf s t).ctx s.loc.ctx).mtsrc = s.hereCtx.mtsrc
    ∧ (siteOf s t).bound = s.hereSite.bound ∧ (siteOf s t).wb = s.hereSite.wb ∧ (siteOf s t).busy = s.hereSite.busy
    ∧ (siteOf s t).lastMma = s.hereSite.lastMma

/-- Every byte of main memory reads as before. -/
def SameMemory (s t : State) : Prop := ∀ a, memGet t.mem a = memGet s.mem a

/-- The slot instructions whose whole effect is a result computed from their sources, with a latency fixed by the opcode map. -/
def computes (i : Instr) : Option SlotWord :=
  match i with
  | .mov w | .movi w | .sel w | .selk w | .drop w | .plog w | .pset w | .ptest w | .lane w | .shuf w | .pack w | .unpk w | .gets w | .tagf w
  | .add w | .sub w | .addc w | .subb w | .mul w | .mulh w | .mad w | .absd w | .min w | .max w | .abs w | .neg w | .avg w | .indx w | .clamp w
  | .dot4 w | .and w | .or w | .xor w | .andn w | .orn w | .not w | .shl w | .shr w | .sar w | .rol w | .clz w | .popc w | .brev w | .extr w
  | .insr w | .bsel w | .cmpeq w | .cmpne w | .cmplt w | .cmple w | .cmpgt w | .cmpge w | .tstz w | .ordj w
  | .fadd w | .fsub w | .fmul w | .fma w | .fnma w | .fms w | .fmin w | .fmax w | .fabs w | .fneg w | .fcmpeq w | .fcmplt w | .fcmple w
  | .fcmpun w | .fclass w | .fscale w | .frnd w | .frcp w | .frsq w | .fsqrt w | .fdiv w | .fexp2 w | .flog2 w | .fsum w | .fdot w | .fmaxa w
  | .cvt w | .ftoi w | .itof w | .sxup w | .sxex w => some w
  | _ => none

/-! ### Numbers in lanes (R7, R214) -/

/-- The least and the greatest number of a lane type. -/
def least (t : Nat) : Int := if laneSigned t then -(2 ^ (laneWidth t - 1) : Int) else 0
def greatest (t : Nat) : Int := if laneSigned t then 2 ^ (laneWidth t - 1) - 1 else 2 ^ laneWidth t - 1

/-- put(x) of R214: with .sat the nearest number of the type, otherwise x modulo 2 to the width of the lane. -/
def Put (t : Nat) (sat : Bool) (x : Int) (r : Payload) (i : Nat) : Prop :=
  if sat then laneNum t r i = max (least t) (min (greatest t) x) else ((2 : Int) ^ laneWidth t) ∣ (lane r (laneWidth t) i - x)

/-- The rows of R219 but DOT4: the word, the latency, whether .sat acts, and the number that lane i is put to from the lane type and the
three sources. -/
def arithmetic (i : Instr) : Option (SlotWord × Nat × Bool × (Nat → Payload → Payload → Payload → Nat → Int)) :=
  match i with
  | .add w => some (w, 1, satBit w, fun t a b c i => laneNum t a i + laneNum t b i + laneNum t c i)
  | .sub w => some (w, 1, satBit w, fun t a b c i => laneNum t a i - laneNum t b i - laneNum t c i)
  | .addc w => some (w, 1, false, fun t a b c i =>
      if 2 ^ laneWidth t ≤ lane a (laneWidth t) i + lane b (laneWidth t) i + lane c (laneWidth t) i % 2 then 1 else 0)
  | .subb w => some (w, 1, false, fun t a b c i =>
      if (lane a (laneWidth t) i : Int) - lane b (laneWidth t) i - (lane c (laneWidth t) i % 2 : Nat) < 0 then 1 else 0)
  | .mul w => some (w, 3, satBit w, fun t a b _ i => laneNum t a i * laneNum t b i)
  | .mulh w => some (w, 3, false, fun t a b _ i => (laneNum t a i * laneNum t b i) / 2 ^ laneWidth t)
  | .mad w => some (w, 3, satBit w, fun t a b c i => laneNum t a i * laneNum t b i + laneNum t c i)
  | .absd w => some (w, 1, satBit w, fun t a b _ i => |laneNum t a i - laneNum t b i|)
  | .min w => some (w, 1, false, fun t a b _ i => min (laneNum t a i) (laneNum t b i))
  | .max w => some (w, 1, false, fun t a b _ i => max (laneNum t a i) (laneNum t b i))
  | .abs w => some (w, 1, satBit w, fun t a _ _ i => |laneNum t a i|)
  | .neg w => some (w, 1, satBit w, fun t a _ _ i => -laneNum t a i)
  | .avg w => some (w, 1, false, fun t a b _ i => (laneNum t a i + laneNum t b i + 1) / 2)
  | .indx w => some (w, 1, satBit w, fun t a b _ i => laneNum t a 0 + i * laneNum t b 0)
  | .clamp w => some (w, 1, false, fun t a b c i => min (max (laneNum t a i) (laneNum t b i)) (laneNum t c i))
  | _ => none

/-- The rows of R221 that act on all 128 bits: the word and bit j of the result. -/
def logic (i : Instr) : Option (SlotWord × (Bool → Bool → Bool → Bool)) :=
  match i with
  | .and w => some (w, fun a b _ => a && b)
  | .or w => some (w, fun a b _ => a || b)
  | .xor w => some (w, fun a b _ => a != b)
  | .andn w => some (w, fun a b _ => a && !b)
  | .orn w => some (w, fun a b _ => a || !b)
  | .not w => some (w, fun a _ _ => !a)
  | .bsel w => some (w, fun a b c => (a && b) || (!a && c))
  | _ => none

/-- The rows of R223: the word and the relation that makes a lane all ones. -/
def compare (i : Instr) : Option (SlotWord × (Int → Int → Bool)) :=
  match i with
  | .cmpeq w => some (w, fun a b => decide (a = b))
  | .cmpne w => some (w, fun a b => decide (a ≠ b))
  | .cmplt w => some (w, fun a b => decide (a < b))
  | .cmple w => some (w, fun a b => decide (a ≤ b))
  | .cmpgt w => some (w, fun a b => decide (b < a))
  | .cmpge w => some (w, fun a b => decide (b ≤ a))
  | .tstz w => some (w, fun a _ => decide (a = 0))
  | _ => none

/-- The other rows of R221, and those of R222: the word and what lane i (y) is, from the lane of SA (x), the lane of SB (v), the lane of SC
(f), the lane width, and whether the type is signed. -/
def shifts (i : Instr) : Option (SlotWord × (Nat → Bool → Nat → Nat → Nat → Nat → Prop)) :=
  match i with
  | .shr w => some (w, fun _ _ x v _ y => y = x / 2 ^ v)
  | .sar w => some (w, fun n _ x v _ y => (sext y n) = (sext x n) / (2 ^ v : Nat))
  | .rol w => some (w, fun n _ x v _ y => ∀ j, j < n → y.testBit ((j + v) % n) = x.testBit j)
  | .clz w => some (w, fun n _ x _ _ y => y ≤ n ∧ x < 2 ^ (n - y) ∧ (y < n → 2 ^ (n - y - 1) ≤ x))
  | .popc w => some (w, fun n _ x _ _ y => y = ((List.range n).filter fun j => x.testBit j).length)
  | .brev w => some (w, fun n _ x _ _ y => ∀ j, j < n → y.testBit j = x.testBit (n - 1 - j))
  | .extr w => some (w, fun n sgn x f _ y =>
      let p := f % 256
      let l := f / 256 % 256
      if l = 0 ∨ n ≤ p then y = 0
      else ∀ j, j < n → y.testBit j = if j < min l (n - p) then x.testBit (p + j) else (sgn && x.testBit (p + min l (n - p) - 1)))
  | .insr w => some (w, fun n _ x v f y =>
      let p := f % 256
      let l := f / 256 % 256
      if l = 0 ∨ n ≤ p then y = x
      else ∀ j, j < n → y.testBit j = if p ≤ j ∧ j < p + min l (n - p) then v.testBit (j - p) else x.testBit j)
  | _ => none

/-- Whether `p` holds of a word that stands in some site section of the image. -/
def HasWord (m : Image) (p : Instr → SlotWord → Prop) : Prop :=
  ∃ x ∈ m.sections, ∃ y ∈ x.words, ∃ i op w, decodeWord y = .ok i ∧ i.opcode = some (op, w) ∧ p i w

/-- The loader refuses with ILLEGAL_WORD an image that passes the checks before it and holds a word of which `p` holds (R64). -/
def IllegalWord (p : Instr → SlotWord → Prop) : Prop :=
  ∀ (b : Bytes) (graph block : Nat),
    let m := readImage b
    m.headerOk b = true → m.block = block → m.graph = graph → m.digestOk b = true → m.tablesOk m.slots = true → m.entriesOk = true →
      HasWord m p → ∃ site slot, validate b graph block = .error ⟨1, site, slot⟩


/-! ### Heads, predicates, and results given lane by lane -/

/-- The heads that DQ names have left (R204): what was the front of each input's buffer is its front no longer. -/
def Gone (s t : State) (w : SlotWord) : Prop :=
  ∀ n, n < 4 → w.dq.getLsbD n →
    if (bufFront s.cycle (s.hereCtx.entryBuf n)).isSome then bufFront s.cycle (((siteOf s t).ctx s.loc.ctx).entryBuf n) = none
    else ∀ j, j < 4 → routeIn s.hereCtx.route n = j + 1 → bufFront s.cycle ((siteOf s t).buf j) = none

/-- No head has left. -/
def Stay (s t : State) : Prop :=
  (siteOf s t).bufs = s.hereSite.bufs ∧ ((siteOf s t).ctx s.loc.ctx).entry = s.hereCtx.entry

/-- Predicate k after the firing. -/
def predAfter (s t : State) (k : Nat) : Bool := ((siteOf s t).ctx s.loc.ctx).preds.getLsbD k

/-- The sources with lanes of the word's lane type, of 32 bits, and of the format's element width. -/
def srcL (s : State) (w : SlotWord) : Ops := readOps s w (lwidth w)
def src (s : State) (w : SlotWord) : Ops := readOps s w 32
def srcF (s : State) (w : SlotWord) : Ops := readOps s w (fpWidth w)

/-- The lanes of width n of a result are those of a function of the lane number. -/
def Lanes (n : Nat) (r : Payload) (f : Nat → Nat) : Prop := ∀ k, k < 128 / n → lane r n k = f k % 2 ^ n

/-- A lane-wise floating-point result and its flags: a flag is set when some lane sets it (R230). -/
def FpLanes (n cnt : Nat) (r : Payload) (fl : BitVec 5) (f : Nat → Nat × BitVec 5) : Prop :=
  (∀ k, k < 128 / n → lane r n k = if k < cnt then (f k).1 % 2 ^ n else 0)
    ∧ ∀ b, b < 5 → (fl.getLsbD b = true ↔ ∃ k, k < cnt ∧ (f k).2.getLsbD b = true)

/-- The floating-point instructions that act lane by lane on elements of FMT: the word, the latency, the tag of the result, and an
element of the result with its flags from the elements of the three sources (R235 to R237). -/
def floatLane (i : Instr) : Option (SlotWord × Nat × Bool × (Nat → Nat → Nat → Nat × BitVec 5)) :=
  let sum := fun (w : SlotWord) (ts : Machine.Num → Machine.Num → Machine.Num → List Term) =>
    some (w, 4, true, fun a b c => fpSum (fpFmtOf w) (fpMode w) (satBit w)
      (ts (fpDecode (fpFmtOf w) a) (fpDecode (fpFmtOf w) b) (fpDecode (fpFmtOf w) c)))
  let one := fun (w : SlotWord) (lat : Nat) (g : FpFmt → Mode → Bool → Machine.Num → Machine.Num → Nat × BitVec 5) =>
    some (w, lat, true, fun a b (_ : Nat) => g (fpFmtOf w) (fpMode w) (satBit w) (fpDecode (fpFmtOf w) a) (fpDecode (fpFmtOf w) b))
  match i with
  | .fadd w => sum w fun a b _ => [⟨false, [a]⟩, ⟨false, [b]⟩]
  | .fsub w => sum w fun a b _ => [⟨false, [a]⟩, ⟨true, [b]⟩]
  | .fmul w => sum w fun a b _ => [⟨false, [a, b]⟩]
  | .fma w => sum w fun a b c => [⟨false, [a, b]⟩, ⟨false, [c]⟩]
  | .fnma w => sum w fun a b c => [⟨true, [a, b]⟩, ⟨false, [c]⟩]
  | .fms w => sum w fun a b c => [⟨false, [a, b]⟩, ⟨true, [c]⟩]
  | .fmin w => some (w, 2, true, fun a b _ => fpMinMax (fpFmtOf w) false a b)
  | .fmax w => some (w, 2, true, fun a b _ => fpMinMax (fpFmtOf w) true a b)
  | .fabs w => some (w, 1, true, fun a _ _ => (a % 2 ^ (fpWidth w - 1), 0))
  | .fneg w => some (w, 1, true, fun a _ _ => (a + 2 ^ (fpWidth w - 1), 0))
  | .fscale w => some (w, 2, true, fun a b _ => fpScale (fpFmtOf w) (fpMode w) (satBit w) (fpDecode (fpFmtOf w) a) (sext b (fpWidth w)))
  | .frnd w => one w 2 fun f m sat a _ => fpRint f m sat a
  | .frcp w => one w 8 fun f m sat a _ => fpDiv f m sat numOne a
  | .frsq w => one w 8 fun f m sat a _ => fpRsqrt f m sat a
  | .fsqrt w => one w 14 fun f m sat a _ => fpSqrt f m sat a
  | .fdiv w => one w 14 fun f m sat a b => fpDiv f m sat a b
  | .fexp2 w => one w 10 fun f m sat a _ => fpExp2 f m sat a
  | .flog2 w => one w 10 fun f m sat a _ => fpLog2 f m sat a
  | _ => none

/-- The floating-point compares (R237): the word, whether a quiet NaN sets NV as well, and the relation. -/
def floatCompare (i : Instr) : Option (SlotWord × Bool × (Machine.Num → Machine.Num → Prop)) :=
  match i with
  | .fcmpeq w => some (w, false, fun a b => a.isNaN = false ∧ b.isNaN = false ∧ numEq a b = true)
  | .fcmplt w => some (w, true, fun a b => numLt a b = true)
  | .fcmple w => some (w, true, fun a b => a.isNaN = false ∧ b.isNaN = false ∧ numLt b a = false)
  | .fcmpun w => some (w, false, fun a b => a.isNaN = true ∨ b.isNaN = true)
  | _ => none

/-- FCLASS' bit (R237), from the fields of the element. -/
def Class (f : FpFmt) (x bit : Nat) : Prop :=
  match fpDecode f x with
  | .nan sn => bit = if sn then 8 else 9
  | .inf neg => bit = if neg then 0 else 7
  | .fin neg 0 _ => bit = if neg then 3 else 4
  | .fin neg (_ + 1) _ => bit = if x / 2 ^ f.mbits % 2 ^ f.ebits = 0 then (if neg then 2 else 5) else (if neg then 1 else 6)


/-! ### Tiles and banks -/

/-- The firing's core after it. -/
def coreOf (s t : State) : Core := t.core s.loc.core

/-- The handle in SA (R169), and the tile entry it names. -/
def handle (s : State) (w : SlotWord) : Nat := (src s w).a.toNat % 2 ^ 16
def entryNo (s : State) (w : SlotWord) : Nat := handle s w % 4096
def tileHere (s : State) (w : SlotWord) : Tile := s.here.tile (entryNo s w)

/-- The checks of R46 met: generation, space, layout and state, FILLING being the thread's own; and no compaction moves the tile. -/
def NamesTile (s : State) (w : SlotWord) (layout : Option Nat) (st : TileState) : Prop :=
  residueFault s w = none ∧ (tileHere s w).state = st ∧ (tileHere s w).gen = handle s w / 4096 ∧ (tileHere s w).space = s.hereSpace
    ∧ (∀ l, layout = some l → l = (tileHere s w).layout) ∧ s.here.moving (entryNo s w) = false
    ∧ (st = .filling → (tileHere s w).owner = (src s w).tid)

/-- The tile instructions and the layout and state that each needs. -/
def tileNeeds (i : Instr) : Option (SlotWord × Option Nat × TileState) :=
  match i with
  | .seal w => some (w, none, .filling)
  | .release w => some (w, none, .ready)
  | .retain w => some (w, none, .ready)
  | .tinfo w => some (w, none, .ready)
  | .tld w => some (w, some (layoutOf w), .ready)
  | .tpln w => some (w, some (layoutOf w), .ready)
  | .tldw w => some (w, some (layoutOf w), .ready)
  | .tst w => some (w, some (layoutOf w), .filling)
  | .tzero w => some (w, none, .filling)
  | _ => none

/-- Byte k of what a tile holds from a logical offset on (R173). -/
def tileByte (c : Core) (t : Tile) (off k : Nat) : Byte := c.spByte (32 * t.base + physOff t.layout (off + k))

/-- A payload that holds sixteen bytes of a tile. -/
def HoldsTile (r : Payload) (c : Core) (t : Tile) (off : Nat) : Prop := ∀ k, k < 16 → r.extractLsb' (8 * k) 8 = tileByte c t off k

/-- What a firing has put at the end of its core's tile writes. -/
def Writes (s t : State) (x : TileWrite) : Prop := (coreOf s t).writes = s.here.writes ++ [x]

/-- What takes effect at the end of the firing cycle. -/
def Ends (s t : State) (e : EndOp) : Prop := (coreOf s t).endq = s.here.endq ++ [e]

/-- Everything of the machine but the firing's core, the dies and the number of the next free value is as it was. -/
def CoreOnly (s t : State) : Prop :=
  t = { s with cores := t.cores, dies := t.dies, freeNo := t.freeNo } ∧ ∀ k, k ≠ s.loc.core → t.core k = s.core k

/-- Bank b is the firing's thread's. -/
def HasBank (s : State) (w : SlotWord) : Prop :=
  residueFault s w = none ∧ lane (src s w).a 32 0 ≤ 191 ∧ (s.here.bank (lane (src s w).a 32 0)).holder = some (src s w).tid

/-- No chunk fired before this cycle is in flight on the bank that SA names. -/
def Drained (s : State) (w : SlotWord) : Prop :=
  ∀ k ∈ s.here.chunks, (k.bank = lane (src s w).a 32 0 ∨ k.bank + 1 = lane (src s w).a 32 0) → s.cycle ≤ k.fired


/-! ### Accesses to memory -/

/-- The number of the next access or area entry is not in use (an access takes it as its own). -/
def FreshNumber (s : State) : Prop :=
  (∀ a ∈ s.here.accesses, a.id ≠ s.here.nextId) ∧ ∀ f ∈ s.hereSite.flight, f.key ≠ s.here.nextId

/-- The thread of the firing, as its sources say, and its commit area. -/
def threadHere (s : State) (w : SlotWord) : Thread := s.here.thread (src s w).tid

/-- The checks of R97 pass, and n bytes at a virtual address lie at a physical address within one 16-byte word. -/
def Translates (s : State) (need : Need) (va n pa : Nat) (table : List RangeEntry) : Prop :=
  xlate s.here.rtab (s.xlateOn (dieOf s.loc.core)) s.hereSpace s.herePriv need va n = .ok [⟨pa, 0, n, none⟩] false table
    ∧ pa % 16 + n ≤ 16

/-- The copy that the firing's core has of the line of a physical address (R118). -/
def copyAt (s : State) (pa : Nat) : L1Line := s.here.l1line (pa / 128)

/-- No earlier load of the core waits for the line of a physical address (R127). -/
def NoEarlierLoad (s : State) (pa : Nat) : Prop :=
  ∀ b ∈ s.here.accesses, b.id < s.here.nextId → b.op.isLoad = true → (b.stage = .wait ∨ b.stage = .order) →
    ∀ p ∈ b.parts, p.got = none → p.pa / 128 ≠ pa / 128

/-- The copy can be read: held, whole, and not poisoned. -/
def Readable (x : L1Line) : Prop := x.st ≠ .i ∧ x.poison = 0 ∧ x.data.length = 128

/-- The n bytes at a physical address in a copy, as a little-endian number. -/
def copyNum (x : L1Line) (pa n : Nat) : Nat := leNat ((x.data.drop (pa % 128)).take n)

/-- The virtual address in SA (R136), and the word address of an atomic (R137). -/
def va (s : State) (w : SlotWord) : Nat := (src s w).a.toNat % 2 ^ 64
def wordVa (s : State) (w : SlotWord) : Nat := va s w / 4 * 4

/-- An access has been answered in the cycle in which it was fired: it is in progress no more, its value token can leave, and its ord
token can leave after it (R42, R135). -/
def AnsweredAtOnce (s t : State) (w : SlotWord) (tag : Fmt) (v : Payload) : Prop :=
  (coreOf s t).accesses = s.here.accesses ∧ Gone s t w
    ∧ (w.om = 0 → (siteOf s t).flight = s.hereSite.flight)
    ∧ (w.om ≠ 0 → ∃ f g, (siteOf s t).flight = s.hereSite.flight ++ [f, g]
        ∧ f.tok.val.bits = v ∧ f.tok.kind = w.ok ∧ f.tok.tag = tag ∧ f.om = w.om ∧ f.ready = true ∧ f.due = some s.cycle
        ∧ g.tok.kind = .ord ∧ g.om = w.om ∧ g.ready = false)

/-- An access without a value has been answered in the cycle in which it was fired: its ord token, of zeros, goes to the links of OM and to the
register given, if any. -/
def DoneAtOnce (s t : State) (w : SlotWord) (dr : Option (Fin 8)) : Prop :=
  (coreOf s t).accesses = s.here.accesses ∧ Gone s t w
    ∧ ((w.om = 0 ∧ dr = none) → (siteOf s t).flight = s.hereSite.flight)
    ∧ ((w.om ≠ 0 ∨ dr ≠ none) → ∃ g, (siteOf s t).flight = s.hereSite.flight ++ [g] ∧ g.tok.kind = .ord ∧ g.tok.val.bits = 0 ∧ g.om = w.om
        ∧ g.dr = dr ∧ g.ready = true ∧ g.due = some s.cycle)

/-- An access of a number and kind is in progress, and waits in a stage for so many packets or writes. -/
def Waits (s t : State) (op : MemOp) (stage : AccStage) (left : Nat) : Prop :=
  ∃ a ∈ (coreOf s t).accesses, a.id = s.here.nextId ∧ a.op = op ∧ a.stage = stage ∧ a.left = left

/-- What a core has sent towards the home of a line (R113, R125). -/
def Sends (s t : State) (p : Pkt) : Prop :=
  let ch := homeChan (sliceAt (dieOf s.loc.core) p.line)
  tblGet [] (t.chan ch).fifo (stopOf s.loc.core) = tblGet [] (s.chan ch).fifo (stopOf s.loc.core) ++ [p]

/-- The atomics (R151): the word, the tag of the result, and the new word from the old one and lanes 0 and 1 of SB. -/
def atomics (i : Instr) : Option (SlotWord × Fmt × (Nat → Nat → Nat → Nat)) :=
  let num := fun (w : SlotWord) (x : Nat) => if w.mod.toNat < 8 then sext x 32 else (x : Int)
  match i with
  | .aadd w => some (w, .raw, fun old v _ => (old + v) % 2 ^ 32)
  | .amin w => some (w, .raw, fun old v _ => if num w v < num w old then v else old)
  | .amax w => some (w, .raw, fun old v _ => if num w old < num w v then v else old)
  | .aand w => some (w, .raw, fun old v _ => old &&& v)
  | .aor w => some (w, .raw, fun old v _ => old ||| v)
  | .axor w => some (w, .raw, fun old v _ => old ^^^ v)
  | .axchg w => some (w, .raw, fun _ v _ => v)
  | .acas w => some (w, .raw, fun old v n => if old = v then n else old)
  | .afadd w => some (w, .f32, fun old v _ => (fpSum fpF32 .rne false [⟨false, [fpDecode fpF32 old]⟩, ⟨false, [fpDecode fpF32 v]⟩]).1)
  | _ => none

/-- The accesses that translate before anything else: the word, the kind of operation and of permission, the address and the bytes. -/
def translated (s : State) (i : Instr) : Option (SlotWord × MemOp × Need × Nat × Nat) :=
  match i with
  | .ld w => some (w, .ld, .read, va s w, lwidth w / 8)
  | .ldt w => some (w, .ldt, .read, va s w, 16)
  | .lda w => some (w, .lda, .read, va s w, 4)
  | .pref w => some (w, .pref, .read, va s w, 1)
  | .aadd w => some (w, .aadd, .atomic, wordVa s w, 4)
  | .amin w => some (w, .amin, .atomic, wordVa s w, 4)
  | .amax w => some (w, .amax, .atomic, wordVa s w, 4)
  | .aand w => some (w, .aand, .atomic, wordVa s w, 4)
  | .aor w => some (w, .aor, .atomic, wordVa s w, 4)
  | .axor w => some (w, .axor, .atomic, wordVa s w, 4)
  | .axchg w => some (w, .axchg, .atomic, wordVa s w, 4)
  | .acas w => some (w, .acas, .atomic, wordVa s w, 4)
  | .afadd w => some (w, .afadd, .atomic, wordVa s w, 4)
  | _ => none

/-- The entry that a store of n bytes at a physical address makes, and the virtual word address that it was made at (R139, R140). -/
def storeEntry (s : State) (pa at_ n data oper scope : Nat) (signed : Bool) : AreaEntry :=
  { oper, scope, signed, sent := false, mask := BitVec.ofNat 16 ((2 ^ n - 1) * 2 ^ (pa % 16)), pwa := pa / 16
    data := BitVec.ofNat 128 (data % 2 ^ (8 * n) * 2 ^ (8 * (pa % 16))), id := s.here.nextId
    node := ((s.here.ctx s.loc.ctx).nodeOf s.loc.site s.loc.slot).1, held := false, go := false, vas := [at_ / 16 * 16] }


/-! ### Commands, exits, and operations of variable latency -/

/-- The result of an operation whose latency varies is on its way, and not yet known. -/
def PendsVar (s t : State) (w : SlotWord) : Prop :=
  Gone s t w ∧ if w.om = 0 ∧ w.dr = none then (siteOf s t).flight = s.hereSite.flight
    else ∃ f, (siteOf s t).flight = s.hereSite.flight ++ [f] ∧ f.key = s.here.nextId ∧ f.om = w.om ∧ f.dr = w.dr ∧ f.ready = false ∧ f.due = none

/-- The result is known in the cycle of the firing, and can leave: a token of the kind given. -/
def AnsweredVar (s t : State) (w : SlotWord) (kind : Kind) (v : Payload) : Prop :=
  Gone s t w ∧ if w.om = 0 ∧ w.dr = none then (siteOf s t).flight = s.hereSite.flight
    else ∃ f, (siteOf s t).flight = s.hereSite.flight ++ [f] ∧ f.tok.val.bits = v ∧ f.tok.kind = kind ∧ f.tok.tag = .raw
      ∧ f.om = w.om ∧ f.dr = w.dr ∧ f.ready = true ∧ f.due = some s.cycle

/-- A status in lane 0 of a dat token (R103, R377). -/
def Status (s t : State) (w : SlotWord) (n : Nat) : Prop := AnsweredVar s t w .dat (ofLanes 32 [n])

/-- The state once a firing of variable latency has taken its heads and put its result, a dat token, on its way. -/
def begun (s : State) (w : SlotWord) : State := (fireVar s w (src s w) .dat).1

/-- That state for SYSRD, whose result has the kind that its word names. -/
def begunOk (s : State) (w : SlotWord) : State := (fireVar s w (src s w) w.ok).1

/-- The space in SA and no reserved bit (R103). -/
def NamesSpace (s : State) (w : SlotWord) (sp : Nat) : Prop :=
  residueFault s w = none ∧ lane (src s w).a 32 0 = sp ∧ sp < 4096

/-- The range instructions that act on the descriptor of one space's range, by their kind, with the argument in SC. -/
def rangeInstr (i : Instr) (s : State) : Option (SlotWord × Nat × Nat) :=
  match i with
  | .rsplit w => some (w, 0, 0)
  | .rmerge w => some (w, 1, 0)
  | .rdisc w => some (w, 2, 0)
  | .rmove w => some (w, 3, (src s w).c.toNat % 2 ^ 64)
  | .rwin w => some (w, 4, (src s w).c.toNat % 2 ^ 64)
  | _ => none

/-- The operation of variable latency that the next firing begins. -/
def opHere (s : State) : PendOp := ⟨s.here.nextId, s.loc.core, s.loc.site, s.loc.slot⟩

/-- The operation that such a firing asks for. -/
def rangeOp (s : State) (w : SlotWord) (kind sp arg : Nat) : RangeOp :=
  { op := opHere s, kind, space := sp, va := (src s w).b.toNat % 2 ^ 64, arg, scope := 0, tid := (src s w).tid }

/-- No earlier range instruction of the space waits, and none has an invalidation under way, so that the next one may begin (R104). -/
def MayBegin (s : State) (sp : Nat) : Prop :=
  (∀ q ∈ s.rangeq, (q.kind < 5 ∨ q.kind = 7) → q.space ≠ sp) ∧ ∀ v ∈ s.invals, v.op.isSome = true → v.space ≠ some sp

/-- A range instruction of a space may be performed at once: none of the space is before it, and no move of the very range that it acts on. -/
def FirstOf (s : State) (w : SlotWord) (kind sp arg : Nat) : Prop :=
  residueFault s w = none ∧ FreshNumber s ∧ lane (src s w).a 32 0 = sp ∧ sp < 4096 ∧ MayBegin s sp
    ∧ ∀ m ∈ s.moves, (rangeOp s w kind sp arg).meets m = false

/-- What it finds in the space's directory for the address in SB (R95, R104). -/
def foundRange (s : State) (w : SlotWord) (sp : Nat) : FindRes := (begun s w).findRange (dieOf s.loc.core) sp ((src s w).b.toNat % 2 ^ 64)

/-- The invalidation `v` of an interval of a space begins (R102): every core's table entries that match are gone, every walk of the space begins
anew, and it waits for every access translated through such an entry or within the interval, and for such entries of every commit area but
the issuing thread's. -/
def Invalidates (u t : State) (v : Inval) (core tid sp lo hi : Nat) : Prop :=
  t.invals = u.invals ++ [v] ∧ v.cores = allCores ∧ v.space = some sp ∧ v.lo = lo ∧ v.hi = hi
    ∧ ∀ k, k < 384 →
        let gone := (u.core k).rtab.filter fun e => e.matches (some sp) lo hi
        let through := fun pa => ∃ e ∈ gone, e.desc.covers pa = true
        (t.core k).rtab = ((u.core k).rtab.filter fun e => !e.matches (some sp) lo hi)
        ∧ (∀ x ∈ (t.die (dieOf k)).walks, x.space = sp → x.active = false)
        ∧ (∀ a ∈ (u.core k).accesses, a.stage ≠ .walk → ((a.va < hi ∧ lo < a.va + a.n) ∨ ∃ p ∈ a.parts, through p.pa) → (k, a.id) ∈ v.waitAcc)
        ∧ (∀ th ∈ (u.core k).threads, ¬ (k = core ∧ th.1 = tid) → ∀ e ∈ th.2.area, e.oper ≠ 8 →
            ((∃ x ∈ e.vas, x < hi ∧ lo < x + 16) ∨ through (16 * e.pwa)) → (k, e.id) ∈ v.waitEnt)

/-- The exits and what each does when its commit is complete (R319, R320). -/
def exits (i : Instr) (s : State) : Option (SlotWord × ExitAct) :=
  match i with
  | .exit w => some (w, .next (w.imm.extractLsb' 0 12).toNat)
  | .exit2 w => some (w, .next (if lane (src s w).a 32 0 = 0 then (w.imm.extractLsb' 12 12).toNat else (w.imm.extractLsb' 0 12).toNat))
  | .exits w => some (w, if (w.imm.extractLsb' 12 16).toNat = 0xFFFF then .next (w.imm.extractLsb' 0 12).toNat
      else .gated (w.imm.extractLsb' 0 12).toNat (w.imm.extractLsb' 12 16).toNat 0)
  | .done w => some (w, .done)
  | _ => none

/-- Whether an exit is DONE. -/
def isDone (i : Instr) : Bool :=
  match i with
  | .done _ => true
  | _ => false

/-- What follows an exit of a thread whose step of a resumption is `r` (R366): the stub's end, unless it is DONE. -/
def exitFollows (i : Instr) (r : ResumeStep) (act : ExitAct) : ExitAct := if isDone i = false ∧ r = .stub then .stubEnd else act

/-- The sync id of the gate that an exit asks for. -/
def gateOf (act : ExitAct) : Option Nat :=
  match act with
  | .gated _ k _ => some k
  | _ => none

/-- The engine commands: the word, whether it is a collective's, and whether it is SCAT's or GATH's. -/
def engineCommand (i : Instr) : Option (SlotWord × Bool × Option Bool) :=
  match i with
  | .copy w => some (w, false, none)
  | .gath w => some (w, false, some false)
  | .scat w => some (w, false, some true)
  | .xcol w => some (w, true, none)
  | _ => none

/-- The heads of i0 to i3 are there, of one thread, with good residues: they hold the four quarters of a message (R50). -/
def FourHeads (s : State) (w : SlotWord) (u : Nat) (a b c d : Payload) : Prop :=
  (src s w).heads.map (fun h => (h.1, h.2.val)) = [(0, mkVal a), (1, mkVal b), (2, mkVal c), (3, mkVal d)]
    ∧ (∀ h ∈ (src s w).heads, h.2.tid = u) ∧ (src s w).tid = u

/-- The 64 bytes of the message. -/
def message (a b c d : Payload) : Bytes := leBytes a.toNat 16 ++ leBytes b.toNat 16 ++ leBytes c.toNat 16 ++ leBytes d.toNat 16

/-- A space is frozen at a core, and on its way to every other (R376). -/
def Frozen (s t : State) (core space : Nat) : Prop :=
  space ∈ (t.core core).frozen
    ∧ (space ∉ s.frozen → space ∈ t.frozen ∧ ∀ k, k < 384 → k ≠ core → (⟨k, space⟩ : FreezeMsg) ∈ t.freezing)


/-! ### Events -/

/-- Nothing but the one core, and the number of the next free value, may differ. -/
def OnlyCore (k : Nat) (s t : State) : Prop :=
  t = { s with cores := t.cores, freeNo := t.freeNo } ∧ ∀ j, j ≠ k → t.core j = s.core j

/-- Nothing but the one die may differ. -/
def OnlyDie (d : Nat) (s t : State) : Prop := t = { s with dies := t.dies } ∧ ∀ j, j ≠ d → t.die j = s.die j

/-- The chunk at a place of a core's list completes now: it is due, and the first of its matrix tile (R259). -/
def ChunkDue (s : State) (core idx : Nat) (k : Chunk) : Prop :=
  s.endPhase = true ∧ (s.core core).chunks[idx]? = some k ∧ k.due ≤ s.cycle ∧ ∀ j ∈ (s.core core).chunks.take idx, j.site ≠ k.site


/-! ### Packets -/

/-- A packet is the last in the queue of a writer of a channel, and was not there before. -/
def Queued (s t : State) (chan writer : Nat) (r : Pkt) : Prop :=
  tblGet [] (t.chan chan).fifo writer = tblGet [] (s.chan chan).fifo writer ++ [r]

/-- A reply of a slice on its way to a core of its die. -/
def Replied (s t : State) (slice : Nat) (r : Pkt) : Prop := Queued s t (replyChan (slice / 32) (stopOf r.dst)) (slice % 32) r

/-- A packet joins the queue of a writer of a channel, among others that the step queues there. -/
def Joins (s t : State) (chan writer : Nat) (r : Pkt) : Prop :=
  ∃ ps, tblGet [] (t.chan chan).fifo writer = tblGet [] (s.chan chan).fifo writer ++ ps ∧ r ∈ ps

/-- A packet of a core joins those on their way to the slice of its line. -/
def JoinsHome (s t : State) (core : Nat) (r : Pkt) : Prop := Joins s t (homeChan (sliceAt (dieOf core) r.line)) (stopOf core) r

/-- A slice tells a core of its die, or another die's proxy, something of a line. -/
def Tells (s t : State) (slice : Nat) (r : Pkt) : Prop :=
  if 384 ≤ r.dst then let k := sliceAt (r.dst - 384) r.line
      ∃ ps, (t.slice k).inbox = (s.slice k).inbox ++ ps ∧ r ∈ ps
  else Joins s t (replyChan (slice / 32) (stopOf r.dst)) (slice % 32) r

/-- A packet of a core on its way to the slice of its line. -/
def SentHome (s t : State) (core : Nat) (r : Pkt) : Prop := Queued s t (homeChan (sliceAt (dieOf core) r.line)) (stopOf core) r

/-- The packet comes from a core of the slice's die. -/
def FromHere (slice : Nat) (p : Pkt) : Prop := p.src < 384 ∧ dieOf p.src = slice / 32

/-- The read of a slice's data meets no uncorrectable error (R130). -/
def GoodRead (at_ : SliceRead) : Prop := ∀ b, at_.ecc ≠ .burst b

/-- A line's entry at its home alone may differ among the lines, and main memory is as it was. -/
def OneLine (l : Nat) (s t : State) : Prop := t.mem = s.mem ∧ (∀ k, k ≠ l → t.line k = s.line k) ∧ t.proxies = s.proxies

/-- The packet at a place of a slice is an owner's for this home, and may be handled now. -/
def OwnersTurn (s : State) (slice idx : Nat) (p : Pkt) (kind : PktKind) : Prop :=
  (s.slice slice).inbox[idx]? = some p ∧ p.kind = kind ∧ homeSlice p.line = slice ∧ (s.line p.line).st.owns = true ∧ (s.line p.line).owner = p.src


/-! ### Engines -/

/-- The job's turn has come, and the checks that stand before its first byte pass; an RGET or RPUT has read its control block. -/
def JobRuns (s : State) (die : Nat) (at_ : JobTurn) (j : Job) : Prop :=
  (s.die die).jobs[at_.idx]? = some j ∧ j.move = none ∧ s.jobReady die at_.idx j = true ∧ (j.got = [] → s.tileChecks die j = .ok)
    ∧ ((j.opc = 0x28 ∨ j.opc = 0x29) → j.target.isSome = true)

/-- What a copy and a conversion read: region 0, from its first byte on. -/
def readsFirst (j : Job) : Piece := pieceOf 0 (msgRegion j.msg 0).len j.got.length

/-- What a conversion writes: region 1, the source's sub-blocks changed. -/
def writesConverted (f : Fmt → Bytes → Bytes) (s : State) (j : Job) : Except EngErr State :=
  s.regPut j 1 0 (subBlocks (f (msgEfmt j.msg)) (subBlock (msgEfmt j.msg)) j.got)

/-- The copy, gather and scatter events and RGET and RPUT: the job's turn, its opcode, what it reads next, and what it writes once it has read
all of it. -/
def jobBody (i : Instr) (s : State) : Option (Nat × JobTurn × Nat × (Job → Piece) × (State → Job → Except EngErr State)) :=
  match i with
  | .linear die at_ => some (die, at_, 1, readsFirst, fun s j => s.regPut j 1 0 j.got)
  | .toplanes die at_ => some (die, at_, 2, readsFirst, writesConverted toPlanes)
  | .fromplanes die at_ => some (die, at_, 3, readsFirst, writesConverted fromPlanes)
  | .gather die at_ => some (die, at_, 0x10, fun j => j.elementPiece false, fun s j => s.putElements j (j.elements false))
  | .scatter die at_ => some (die, at_, 0x11, fun j => j.elementPiece true, fun s j => s.putElements j (j.elements true))
  | .rget die at_ remote => some (die, at_, 0x28, s.remotePiece false, fun s j => s.remoteBody die remote false j)
  | .rput die at_ remote => some (die, at_, 0x29, s.remotePiece true, fun s j => s.remoteBody die remote true j)
  | _ => none

/-- The collective events: the job's turn and its opcode. -/
def collectiveOf (i : Instr) : Option (Nat × JobTurn × Nat) :=
  match i with
  | .allreduce die at_ => some (die, at_, 0x20)
  | .reduce die at_ => some (die, at_, 0x21)
  | .bcast die at_ => some (die, at_, 0x22)
  | .allgather die at_ => some (die, at_, 0x23)
  | .reducescatter die at_ => some (die, at_, 0x24)
  | _ => none

/-- The bytes of a region of a job that lies in a tile. -/
def regionTile (s : State) (j : Job) (i off n : Nat) : Bytes :=
  (List.range n).map fun k => tileByte (s.core j.core) ((s.core j.core).tile (msgRegion j.msg i).tileIdx) ((msgRegion j.msg i).start + off) k


/-! ### Registers, blocks, threads -/

/-- The PHY commands: the place of the write in the register queue, and the command. -/
def phyCommand (i : Instr) : Option (Nat × Nat) :=
  match i with
  | .readSweep idx => some (idx, 1)
  | .writeSweep idx => some (idx, 2)
  | .patternTest idx => some (idx, 3)
  | _ => none

/-- What the choice of a block leaves (R315). -/
def Chosen (s t : State) (core : Nat) (b : BlockRef) : Prop :=
  OnlyCore core s t ∧ (t.core core).active = some b ∧ (t.core core).chosenAt = s.cycle ∧ (t.core core).injectAt = s.cycle + 1
    ∧ (t.core core).selChoices = satAdd (s.core core).selChoices 1 32 ∧ (t.core core).threads = (s.core core).threads

/-- A thread's record of a fault (R359) that names its block and context. -/
def threadRec (s : State) (core n code : Nat) : FaultRec :=
  { FaultRec.zero with
    code, ctx := ((s.core core).thread n).ctx, block := ((s.core core).ctx ((s.core core).thread n).ctx).blk.block, space := s.partSpace core }

/-- The exit of a thread completes now (R320). -/
def ExitDue (s : State) (core n : Nat) (act : ExitAct) : Prop :=
  (s.core core).exitDue s.cycle n = true ∧ ∃ at_, ((s.core core).thread n).exiting = some (act, at_)


/-! ### Sessions -/

/-- A session that may issue a command, and whose turn it is: open, not frozen, with a port of its die up and no write of a command before it to
be performed, and the device is not in recovery. -/
def Serves (s : State) (n : Nat) (x : Session) : Prop :=
  s.session n = some x ∧ x.frozen = false ∧ x.kind ≠ .hello ∧ s.modl.recovery = false ∧ s.clotisWaits x.flow = false

/-- The last message sent, and that nothing was sent before it by this step. -/
def Answers (s t : State) (session code status : Nat) (body : Bytes) : Prop := t.modl.sent = s.modl.sent ++ [(Message.mk session code status body).bytes]

/-- The last message sent is the answer; others may stand before it. -/
def AnswersLast (t : State) (session code status : Nat) (body : Bytes) : Prop := t.modl.sent.getLast? = some (Message.mk session code status body).bytes

/-- Nothing but the control unit, and the number of the next free value, may differ. -/
def OnlyControl (s t : State) : Prop := t = { s with modl := t.modl, freeNo := t.freeNo }

/-- Whose turn an ordered flow's messages are after a piece: the next message's once the last piece is performed. -/
def NextMessage (u t : State) (die : Nat) (x : RmaPiece) : Prop :=
  if x.rod = true ∧ x.last = true then t.rmaMsg die x.flow = x.msg + 1 ∧ ∀ f, f ≠ x.flow → t.rmaMsg die f = u.rmaMsg die f
  else t.rmaNext = u.rmaNext

/-- The end of the virtual addresses. -/
def vaEnd : Nat := 2 ^ 64

/-! ### Main memory -/

/-- The events and instructions that may bring a line into a slice, which may give another up for it (R117), or that write a line back to
HBM or set HBM's contents. -/
def reachesHbm (i : Instr) : Bool :=
  match i with
  -- HBM itself, and the resets
  | .hbmReadComplete .. | .hbmWriteComplete .. | .pcInitComplete .. | .dieReset .. | .moduleReset .. => true
  -- packets at a slice
  | .getsPacket .. | .getx .. | .store .. | .redPacket .. | .proxyRequest .. | .wb .. => true
  -- the engines, the collectives and the ports
  | .linear .. | .toplanes .. | .fromplanes .. | .gather .. | .scatter .. | .rget .. | .rput .. | .allreduce .. | .reduce .. | .bcast ..
  | .allgather .. | .reducescatter .. | .collectiveInstanceFill .. | .remoteRmaRead .. | .remoteRmaWrite .. | .rmoveCopyComplete .. => true
  -- what the device reads and writes for itself
  | .walkInstall .. | .blockDemand .. | .vectorFetch .. | .saveImage .. | .resumption .. | .taskDispatch .. | .syncCacheFill ..
  | .traceRecordAppend .. => true
  -- the control unit
  | .admitGraph .. | .launch .. | .space .. | .trace .. => true
  -- the slot instructions whose own reads are of memory tables
  | .spawn .. | .freeze .. | .thaw .. | .rsplit .. | .rmerge .. | .rdisc .. | .rmove .. | .rwin .. | .rinv .. => true
  | _ => false

end Sys2Proof.Says

open Sys2Proof Sys2Proof.Machine Sys2Proof.Says

/-! ## Words -/

/-- Words of the manual's own listings, written out from R53 (EXIT2 of R319, SAFE of R367, ERET of R370, MMA of R257, FLUSH of R132, COPY
of R158, AXCHG of R151, SYSRD of R393), decode to their instructions. -/
def Obligations.WordsWrittenOutDecode : Prop :=
  (∃ w, decodeWord 0x000003A908020F3E0018000000003002 = .ok (.exit2 w) ∧ w.sa = .i 0 ∧ w.sb = .lit ∧ w.sc = .lit ∧ w.dr = none ∧ w.imm = 0x3002)
  ∧ (∃ w, decodeWord 0x0200002920020F3A0000120000000001 = .ok (.safe w) ∧ w.pm = 0x02 ∧ w.pv = 0 ∧ w.sq = .set ∧ w.ps = 1 ∧ w.imm = 1)
  ∧ (∃ w, decodeWord 0x0000002C58020E3A0008000000000000 = .ok (.eret w) ∧ w.sa = .i 0 ∧ w.dq = 1)
  ∧ (∃ w, decodeWord 0x0000002703630D221008000000000000 = .ok (.mma w) ∧ w.sa = .wa ∧ w.sb = .wb ∧ w.sc = .i 0 ∧ w.fmt = .e4m3 ∧ w.mod = 6)
  ∧ (∃ w, decodeWord 0x00000076904001220A88000000000000 = .ok (.flush w) ∧ w.mod = 4 ∧ w.sc = .i 0 ∧ w.ok = .ord)
  ∧ (∃ w, decodeWord 0x0000492800038E3A0078000000000000 = .ok (.copy w) ∧ w.dq = 15 ∧ w.cg3 = .kind .dat)
  ∧ (∃ w, decodeWord 0x0303007670B001221008000000000000 = .ok (.axchg w) ∧ w.pm = 3 ∧ w.pv = 3)
  ∧ (∃ w, decodeWord 0x0000002C00020E3A0808000000000000 = .ok (.sysrd w) ∧ w.sa = .i 0 ∧ w.om = 2)

/-- Every slot instruction, whatever its operands, is what the decoder reads from its own word: no bit of an encoding is dropped.

A word that decodes is the word of what it decodes to: no two words are one instruction. -/
def Obligations.WordsAndInstructionsAgree : Prop :=
  (∀ (i : Instr) (x : SiteWord), encode i = some x → decodeWord x = .ok i)
  ∧ (∀ (x : SiteWord) (i : Instr), decodeWord x = .ok i → encode i = some x)

/-- Reserved codes are refused: a bit of [40:32], a source selector from 24 up, a DR from 9 up, an OK of 6 or 7, or OP zero.

R206: a word with PU other than 0 is refused with ILLEGAL_WORD unless its instruction has latency 1 in the opcode map, or is CNT or CNT2. -/
def Obligations.WordsThatAreRefused : Prop :=
  (∀ x : SiteWord, (x.extractLsb' 32 9 ≠ 0 ∨ 24 ≤ (x.extractLsb' 66 6).toNat ∨ 24 ≤ (x.extractLsb' 72 6).toNat ∨ 24 ≤ (x.extractLsb' 78 6).toNat
       ∨ 9 ≤ (x.extractLsb' 62 4).toNat ∨ 6 ≤ (x.extractLsb' 55 3).toNat ∨ x.extractLsb' 91 9 = 0) → ∃ e, decodeWord x = .error e)
  ∧ (IllegalWord fun i w => w.pu ≠ .none ∧ i.latency ≠ .num 1 ∧ ∀ v, i ≠ .cnt v ∧ i ≠ .cnt2 v)

/-! ## Firings that compute a result -/

/-- R211: a firing whose sources all agree with their residues has its effect; one whose source does not has none but a SOFT_ERROR of
its thread. This states the second half for the instructions that compute. Such a firing is its site's in the cycle, no result of it is on
its way, memory is as it was, and so are the predicates and the d-registers. Without a thread (which faults nobody: the model's choice, log
18) nothing else changes but the core's count of such errors: no head goes. With one, its thread's heads and results go from every buffer as
R322 says, every other thread's stay, and its fault has code 0x32, the storage and number of the source in DETAIL, and the firing's place: it
is taken at once, or waits while a chunk of the thread is in flight. -/
def Obligations.BadResidueGivesNoResult : Prop :=
  ∀ (i : Instr) (w : SlotWord) (s : State) (p : Nat × Nat), computes i = some w → residueFault s w = some p →
    ∃ t, exec i s = .next t ∧ SameMemory s t ∧ (siteOf s t).fired = some s.cycle
      ∧ (∀ k, ((siteOf s t).ctx k).preds = (s.hereSite.ctx k).preds ∧ ((siteOf s t).ctx k).dreg = (s.hereSite.ctx k).dreg)
      ∧ ((firingTid s w = none ∨ firingTid s w = some noTid) →
          t = { s with cores := t.cores } ∧ (∀ k, k ≠ s.loc.core → t.core k = s.core k) ∧ (coreOf s t).threads = s.here.threads
            ∧ siteOf s t = { s.hereSite with fired := some s.cycle })
      ∧ ∀ u, firingTid s w = some u → u ≠ noTid →
          (siteOf s t).flight = (s.hereSite.flight.filter fun f => f.tid != u)
          ∧ (∀ j, (siteOf s t).buf j = (s.hereSite.buf j).filter fun e => e.tok.tid != u)
          ∧ ∃ r : FaultRec, r.code = 0x32 ∧ r.tid = u ∧ r.persist = (p.1 == 2) ∧ r.detail = p.1 * 2 ^ 60 + p.2 ∧ r.site = s.loc.site
            ∧ r.slot = s.loc.slot ∧ r.ctx = s.loc.ctx
            ∧ if s.here.chunks.any fun k => k.tid == u then ((coreOf s t).thread u).pending = some r
              else ∃ v, ((coreOf s v).thread u).pending = some r ∧ t = v.takeFault s.loc.core u r

/-- The frame of the instructions that compute: whatever such a firing answers, everything outside its own site is as it was, HBM
included, and in the site every register, counter, join and binding, every other context, and the boundary, wide and plane state. -/
def Obligations.ComputingFiringsTouchOnlyTheirSite : Prop :=
  ∀ (i : Instr) (w : SlotWord) (s t : State), computes i = some w → residueFault s w = none → exec i s = .next t →
    SiteOnly s t ∧ SiteKept s t ∧ SameMemory s t ∧ (siteOf s t).fired = some s.cycle
      ∧ (∀ n, n < 4 → ¬ w.dq.getLsbD n → ((siteOf s t).ctx s.loc.ctx).entryBuf n = s.hereCtx.entryBuf n)
      ∧ (∀ d, d < 4 → (∀ n, n < 4 → w.dq.getLsbD n → routeIn s.hereCtx.route n ≠ d + 1) → (siteOf s t).buf d = s.hereSite.buf d)

/-- R219, R220: every arithmetic instruction completes, and its result holds in every lane what the Effect column says; DOT4 is refused with
any type but .s8 and .n8.

R223: a compare completes, and a lane of its result is all ones where the relation holds of the sources' numbers, else zero. -/
def Obligations.ArithmeticAndCompareResults : Prop :=
  ((∀ (i : Instr) (w : SlotWord) (lat : Nat) (sat : Bool) (f : Nat → Payload → Payload → Payload → Nat → Int) (s : State),
       arithmetic i = some (w, lat, sat, f) → residueFault s w = none →
         ∃ t r, exec i s = .next t ∧ Leaves s t w lat w.ok .raw 0 r
           ∧ ∀ k, k < 128 / lwidth w → Put (ltype w) sat (f (ltype w) (readOps s w (lwidth w)).a (readOps s w (lwidth w)).b (readOps s w (lwidth w)).c k) r k)
     ∧ (∀ (w : SlotWord) (s : State), residueFault s w = none → (ltype w = 4 ∨ ltype w = 5) →
         ∃ t r, exec (.dot4 w) s = .next t ∧ Leaves s t w 3 w.ok .raw 0 r
           ∧ ∀ k, k < 4 → Put (ltype w - 4) (satBit w) (laneNum (ltype w - 4) (readOps s w (lwidth w)).c k
               + laneNum (ltype w) (readOps s w (lwidth w)).a (4 * k) * laneNum (ltype w) (readOps s w (lwidth w)).b (4 * k)
               + laneNum (ltype w) (readOps s w (lwidth w)).a (4 * k + 1) * laneNum (ltype w) (readOps s w (lwidth w)).b (4 * k + 1)
               + laneNum (ltype w) (readOps s w (lwidth w)).a (4 * k + 2) * laneNum (ltype w) (readOps s w (lwidth w)).b (4 * k + 2)
               + laneNum (ltype w) (readOps s w (lwidth w)).a (4 * k + 3) * laneNum (ltype w) (readOps s w (lwidth w)).b (4 * k + 3)) r k)
     ∧ IllegalWord (fun i _ => ∃ v, i = .dot4 v ∧ ltype v ≠ 4 ∧ ltype v ≠ 5))
  ∧ (∀ (i : Instr) (w : SlotWord) (rel : Int → Int → Bool) (s : State), compare i = some (w, rel) → residueFault s w = none →
       ∃ t r, exec i s = .next t ∧ Leaves s t w 1 w.ok .raw 0 r
         ∧ ∀ k, k < 128 / lwidth w → lane r (lwidth w) k =
             if rel (laneNum (ltype w) (readOps s w (lwidth w)).a k) (laneNum (ltype w) (readOps s w (lwidth w)).b k) then 2 ^ lwidth w - 1 else 0)

/-- R221, R222: the logic, shift, bit and field instructions complete, with the result that their row gives. -/
def Obligations.LogicAndShiftResults : Prop :=
  (∀ (i : Instr) (w : SlotWord) (f : Bool → Bool → Bool → Bool) (s : State), logic i = some (w, f) → residueFault s w = none →
    ∃ t r, exec i s = .next t ∧ Leaves s t w 1 w.ok .raw 0 r
      ∧ ∀ j, j < 128 → r.getLsbD j = f ((readOps s w (lwidth w)).a.getLsbD j) ((readOps s w (lwidth w)).b.getLsbD j) ((readOps s w (lwidth w)).c.getLsbD j))
  ∧ (∀ (i : Instr) (w : SlotWord) (f : Nat → Bool → Nat → Nat → Nat → Nat → Prop) (s : State), shifts i = some (w, f) → residueFault s w = none →
    ∃ t r, exec i s = .next t ∧ Leaves s t w 1 w.ok .raw 0 r
      ∧ ∀ k, k < 128 / lwidth w → f (lwidth w) (laneSigned (ltype w)) (lane (readOps s w (lwidth w)).a (lwidth w) k)
          (lane (readOps s w (lwidth w)).b (lwidth w) k) (lane (readOps s w (lwidth w)).c (lwidth w) k) (lane r (lwidth w) k))
  ∧ (∀ (w : SlotWord) (s : State), residueFault s w = none →
    ∃ t r, exec (.shl w) s = .next t ∧ Leaves s t w 1 w.ok .raw 0 r
      ∧ ∀ k, k < 128 / lwidth w → Put (ltype w) (satBit w)
          (laneNum (ltype w) (readOps s w (lwidth w)).a k * (2 ^ lane (readOps s w (lwidth w)).b (lwidth w) k : Nat)) r k)

/-! ## Moves, predicates, counters and joins -/

/-- R215, R218, R36: the moves complete one or two cycles later with the result of their row, tagged as the row says. -/
def Obligations.MoveResults : Prop :=
  ∀ (w : SlotWord) (s : State), residueFault s w = none →
    (∃ t, exec (.mov w) s = .next t ∧ Leaves s t w 1 w.ok w.fmt 0 (src s w).a)
    ∧ (∃ t r, exec (.movi w) s = .next t ∧ Leaves s t w 1 w.ok w.fmt 0 r ∧ Lanes 32 r fun k => if k = 0 then w.imm.toNat else 0)
    ∧ (∃ t r, exec (.sel w) s = .next t ∧ Leaves s t w 1 w.ok w.fmt 0 r
        ∧ Lanes (lwidth w) r fun k => if lane (srcL s w).a (lwidth w) k ≠ 0 then lane (srcL s w).b (lwidth w) k else lane (srcL s w).c (lwidth w) k)
    ∧ (∃ t, exec (.selk w) s = .next t ∧ Leaves s t w 1 w.ok w.fmt 0 (if (src s w).a.extractLsb' 0 32 ≠ 0 then (src s w).b else (src s w).c))
    ∧ (∃ t r, exec (.lane w) s = .next t ∧ Leaves s t w 1 w.ok w.fmt 0 r
        ∧ Lanes (lwidth w) r fun _ => lane (srcL s w).a (lwidth w) (lane (srcL s w).b (lwidth w) 0 % (128 / lwidth w)))
    ∧ (∃ t r, exec (.shuf w) s = .next t ∧ Leaves s t w 1 w.ok w.fmt 0 r
        ∧ Lanes (lwidth w) r fun k => lane (srcL s w).a (lwidth w) (lane (srcL s w).b (lwidth w) k % (128 / lwidth w)))
    ∧ (∃ t r, exec (.pack w) s = .next t ∧ Leaves s t w 2 w.ok .raw 0 r
        ∧ ∀ k, k < 2 * (128 / lwidth w) →
            let h := lwidth w / 2
            let v := if k < 128 / lwidth w then laneNum (ltype w) (srcL s w).a k else laneNum (ltype w) (srcL s w).b (k - 128 / lwidth w)
            if satBit w then
              if laneSigned (ltype w) then sext (lane r h k) h = max (-(2 ^ (h - 1) : Int)) (min (2 ^ (h - 1) - 1) v)
              else (lane r h k : Int) = max 0 (min (2 ^ h - 1) v)
            else ((2 : Int) ^ h) ∣ (lane r h k - v))
    ∧ (∃ t r, exec (.unpk w) s = .next t ∧ Leaves s t w 2 w.ok .raw 0 r
        ∧ ∀ k, k < 64 / lwidth w → ((2 : Int) ^ (2 * lwidth w)) ∣
            (lane r (2 * lwidth w) k - laneNum (ltype w) (srcL s w).a (lane (srcL s w).b (lwidth w) 0 % 2 * (64 / lwidth w) + k)))
    ∧ (∀ (n : Fin 4) (h : Token), w.sa = .i n → s.here.head s.cycle s.loc.site s.loc.ctx n.val = some h →
        (∃ t r, exec (.gets w) s = .next t ∧ Leaves s t w 1 w.ok .raw 0 r
          ∧ Lanes 32 r fun k => if k = 0 then h.tid else if k = 1 then h.kind.code else if k = 2 then h.tag.code else h.ctx)
        ∧ (∃ t, exec (.tagf w) s = .next t ∧ Leaves s t w 1 w.ok h.tag 0 h.val.bits))
    ∧ (∃ t, exec (.drop w) s = .next t ∧ Gone s t w ∧ (siteOf s t).flight = s.hereSite.flight)

/-- R204: the heads in DQ leave at a firing that computes, and R34: the predicates after it, where neither PLOG nor PSET wrote: SQ decides
its own, PU its own where SQ does not name it, and no other changes.

R217, R56: PLOG, PSET and PTEST write predicates as their rows say, and PTEST and MOV show the three codes of PU. -/
def Obligations.HeadsAndPredicates : Prop :=
  (∀ (i : Instr) (w : SlotWord) (s : State), computes i = some w → residueFault s w = none → i ≠ .pset w →
       ∃ t, exec i s = .next t ∧ Gone s t w
         ∧ (w.sq = .set → predAfter s t w.ps.toNat = true) ∧ (w.sq = .clr → predAfter s t w.ps.toNat = false)
         ∧ (w.sq = .tog → (w.pu = .none ∨ w.pd ≠ w.ps) → predAfter s t w.ps.toNat = !s.hereCtx.preds.getLsbD w.ps.toNat)
         ∧ ∀ k, k < 8 → (w.pu = .none ∨ w.pd.toNat ≠ k) → (w.sq = .none ∨ w.ps.toNat ≠ k) → predAfter s t k = s.hereCtx.preds.getLsbD k)
  ∧ ((∀ (w : SlotWord) (s : State), residueFault s w = none → w.pu = .lane0 → w.sq = .none →
       ∃ t, exec (.plog w) s = .next t ∧ predAfter s t w.pd.toNat = w.imm.getLsbD
         (2 * (s.hereCtx.preds.getLsbD (w.imm.extractLsb' 7 3).toNat).toNat + (s.hereCtx.preds.getLsbD (w.imm.extractLsb' 4 3).toNat).toNat))
     ∧ (∀ (w : SlotWord) (s : State), residueFault s w = none → w.pu = .none →
       ∃ t, exec (.pset w) s = .next t ∧ ∀ k, k < 8 → (w.sq = .none ∨ w.ps.toNat ≠ k) →
         predAfter s t k = if w.imm.getLsbD k then w.imm.getLsbD (8 + k) else s.hereCtx.preds.getLsbD k)
     ∧ (∀ (w : SlotWord) (s : State), residueFault s w = none → (w.sq = .none ∨ w.pd ≠ w.ps) →
       ∃ t, exec (.ptest w) s = .next t
         ∧ (w.pu = .lane0 → (predAfter s t w.pd.toNat = true ↔ lane (srcL s w).a (lwidth w) 0 ≠ 0))
         ∧ (w.pu = .any → (predAfter s t w.pd.toNat = true ↔ (srcL s w).a ≠ 0))
         ∧ (w.pu = .all → (predAfter s t w.pd.toNat = true ↔ ∀ k, k < 128 / lwidth w → lane (srcL s w).a (lwidth w) k ≠ 0))))

/-- The firings that an EMIT slot has left, this one included: its remaining count, or IMM[7:0]. -/
def Sys2Proof.Says.emitCount (s : State) (w : SlotWord) : Nat :=
  match s.hereCtx.emit.find? fun e => e.1 == s.loc.slot with
  | some (_, n, _) => n
  | none => (w.imm.extractLsb' 0 8).toNat

/-- R216: each firing of EMIT leaves one token holding SA; the heads in DQ leave, and the count is gone, on the last of them only.

R256: STEP puts two results on their way: the stepped value to its register at the end of this cycle, and the value from before the
step to its links a cycle later. -/
def Obligations.EmitAndStep : Prop :=
  (∀ (w : SlotWord) (s : State), residueFault s w = none →
       ∃ t, exec (.emit w) s = .next t ∧ Leaves s t w 1 w.ok w.fmt 0 (src s w).a
         ∧ if emitCount s w ≤ 1 then Gone s t w ∧ ∀ e ∈ ((siteOf s t).ctx s.loc.ctx).emit, e.1 ≠ s.loc.slot
           else Stay s t ∧ ((((siteOf s t).ctx s.loc.ctx).emit.find? fun e => e.1 == s.loc.slot).map fun e => e.2.1) = some (emitCount s w - 1))
  ∧ (∀ (w : SlotWord) (s : State), residueFault s w = none →
       ∃ t r, exec (.step w) s = .next t ∧ Gone s t w
         ∧ (siteOf s t).flight = s.hereSite.flight ++ { onItsWay s w s.cycle w.ok .raw 0 r with om := 0 }
             :: (if w.om = 0 then [] else [{ onItsWay s w (s.cycle + 1) w.ok .raw 0 (srcL s w).a with dr := none }])
         ∧ ∀ k, k < 128 / lwidth w →
             let v := laneNum (ltype w) (srcL s w).a k + laneNum (ltype w) (srcL s w).b k
             let e := laneNum (ltype w) (srcL s w).c k
             ((2 : Int) ^ lwidth w) ∣ (lane r (lwidth w) k - if w.sc ≠ .zero ∧ e ≤ v then v - e else v))

/-- The lanes of a counter's token. -/
def Sys2Proof.Says.quad (a b c d : Nat) : Payload := ofLanes 32 [a, b, c, d]

/-- R254: one firing of CNT or CNT2 in a pass (or starting one) emits a dat token with the indices in its lanes, an eor at a row's end, or
the eok that ends the pass and takes its head away; on a bnd head it emits nothing and takes the counts.

R348, R356: JOINK counts heads and emits the one that makes its count full, and its thread can no longer be restarted unseen; R144:
ORDJ emits one token when its heads leave. -/
def Obligations.PassesAndJoins : Prop :=
  (∀ (w : SlotWord) (s : State), residueFault s w = none →
       let k := s.hereCtx.cnt
       let n := if k.active then k.sn else k.n
       let m := if k.active then k.sm else k.m
       let j := if k.active then k.j else 0
       let i := if k.active then k.i else 0
       let l := fun p => lane (src s w).a 32 p
       let after := fun (t : State) => ((siteOf s t).ctx s.loc.ctx).cnt
       (isBound w = false →
         (∃ t, exec (.cnt w) s = .next t ∧
           if j < n then Leaves s t w 1 .dat .raw 0 (quad j (l 1) (l 2) (l 3)) ∧ Stay s t ∧ (after t).active = true ∧ (after t).j = j + 1
           else Leaves s t w 1 .eok .raw 0 (quad n (l 1) (l 2) (l 3)) ∧ Gone s t w ∧ (after t).active = false)
         ∧ (∃ t, exec (.cnt2 w) s = .next t ∧
           if i < m ∧ j < n then Leaves s t w 1 .dat .raw 0 (quad (i * n + j) j i (l 3)) ∧ Stay s t ∧ (after t).j = j + 1 ∧ (after t).i = i
           else if i < m then Leaves s t w 1 .eor .raw 0 (quad i 0 i (l 3)) ∧ Stay s t ∧ (after t).j = 0 ∧ (after t).i = i + 1
           else Leaves s t w 1 .eok .raw 0 (quad (n * m) 0 m (l 3)) ∧ Gone s t w ∧ (after t).active = false))
       ∧ (isBound w = true →
         (∃ t, exec (.cnt w) s = .next t ∧ Gone s t w ∧ (w.dr = none → (siteOf s t).flight = s.hereSite.flight)
           ∧ if k.active then (after t).sn = k.sn ∧ (after t).n = k.n ∧ (after t).pend = true ∧ (after t).pn = l 0 else (after t).n = l 0 ∧ (after t).m = k.m)
         ∧ (∃ t, exec (.cnt2 w) s = .next t ∧ Gone s t w ∧ (w.dr = none → (siteOf s t).flight = s.hereSite.flight)
           ∧ if k.active then (after t).sn = k.sn ∧ (after t).sm = k.sm ∧ (after t).pn = l 0 ∧ (after t).pm = l 1 ∧ (after t).pend = true
             else (after t).n = l 0 ∧ (after t).m = l 1)))
  ∧ ((∀ (w : SlotWord) (s : State) (u : Nat), residueFault s w = none → firingTid s w = some u →
       let n := (tblGet (⟨0, 0⟩ : Join) s.hereCtx.join 0).count + 1
       ∃ t, exec (.joink w) s = .next t ∧ Gone s t w ∧ ((t.core s.loc.core).thread u).irrev = true
         ∧ if n = (w.imm.extractLsb' 0 16).toNat then Leaves s t w 1 w.ok .raw 0 (src s w).a
               ∧ (tblGet (⟨0, 0⟩ : Join) ((siteOf s t).ctx s.loc.ctx).join 0).count = 0
           else (w.dr = none → (siteOf s t).flight = s.hereSite.flight) ∧ tblGet (⟨0, 0⟩ : Join) ((siteOf s t).ctx s.loc.ctx).join 0 = ⟨n, u⟩)
     ∧ (∀ (w : SlotWord) (s : State), residueFault s w = none →
       ∃ t, exec (.ordj w) s = .next t ∧ Gone s t w ∧ Leaves s t w 1 w.ok .raw 0 0))

/-! ## Floating point -/

/-- R235 to R237: every lane-wise floating-point instruction completes with its latency; an element of its result, and the flags it sets,
are those of its row's function of the sources' elements. -/
def Obligations.FloatLaneResults : Prop :=
  (∀ (i : Instr) (w : SlotWord) (lat : Nat) (tagged : Bool) (f : Nat → Nat → Nat → Nat × BitVec 5) (s : State),
    floatLane i = some (w, lat, tagged, f) → residueFault s w = none →
      ∃ t r fl, exec i s = .next t ∧ Leaves s t w lat w.ok (if tagged then w.fmt else .raw) fl r
        ∧ FpLanes (fpWidth w) (128 / fpWidth w) r fl fun k =>
            f (lane (srcF s w).a (fpWidth w) k) (lane (srcF s w).b (fpWidth w) k) (lane (srcF s w).c (fpWidth w) k))
  ∧ (∀ (i : Instr) (w : SlotWord) (anyNaN : Bool) (rel : Machine.Num → Machine.Num → Prop) (s : State),
    floatCompare i = some (w, anyNaN, rel) → residueFault s w = none →
      ∃ t r fl, exec i s = .next t ∧ Leaves s t w 2 w.ok .raw fl r
        ∧ (∀ k, k < 128 / fpWidth w →
            let a := fpDecode (fpFmtOf w) (lane (srcF s w).a (fpWidth w) k)
            let b := fpDecode (fpFmtOf w) (lane (srcF s w).b (fpWidth w) k)
            (rel a b → lane r (fpWidth w) k = 2 ^ fpWidth w - 1) ∧ (¬ rel a b → lane r (fpWidth w) k = 0))
        ∧ (fl = flagNV ∨ fl = 0)
        ∧ (fl = flagNV ↔ ∃ k, k < 128 / fpWidth w ∧
            let a := fpDecode (fpFmtOf w) (lane (srcF s w).a (fpWidth w) k)
            let b := fpDecode (fpFmtOf w) (lane (srcF s w).b (fpWidth w) k)
            (a.isSNaN = true ∨ b.isSNaN = true ∨ (anyNaN = true ∧ (a.isNaN = true ∨ b.isNaN = true)))))
  ∧ (∀ (w : SlotWord) (s : State), residueFault s w = none →
      ∃ t r, exec (.fclass w) s = .next t ∧ Leaves s t w 1 w.ok .raw 0 r
        ∧ ∀ k, k < 128 / fpWidth w → ∃ b, Class (fpFmtOf w) (lane (srcF s w).a (fpWidth w) k) b ∧ lane r (fpWidth w) k = 2 ^ b % 2 ^ fpWidth w)

/-- R225, R230, R236: what a sum of two numbers is where a special number or a zero is among them: a NaN gives the canonical NaN, NV if one
signals; infinities of opposite signs give it with NV; one infinity stands; equal zeros keep their sign, and others sum to −0 only when
rounding down (the sign of a sum of zeros: log 154).

R228: rounding m × 2^e to a multiple of 2^q leaves an exact multiple alone; otherwise it takes a neighbour: .rne the nearer, and of two
equally near the even one, .rtz the one nearer zero, .rup and .rdn the greater and the lesser of the signed number. -/
def Obligations.SpecialSumsAndRounding : Prop :=
  (∀ (f : FpFmt) (mode : Mode) (sat : Bool) (a b : Machine.Num),
       let r := fpSum f mode sat [⟨false, [a]⟩, ⟨false, [b]⟩]
       ((a.isNaN = true ∨ b.isNaN = true) → r = (fpNaN f, if a.isSNaN = true ∨ b.isSNaN = true then flagNV else 0))
       ∧ (∀ p q, a = .inf p → b = .inf q → r = if p = q then (fpInf f p, 0) else (fpNaN f, flagNV))
       ∧ (∀ p q m e, a = .inf p → b = .fin q m e → r = (fpInf f p, 0))
       ∧ (∀ p q d e, a = .fin p 0 d → b = .fin q 0 e → r = (fpSign f (if p = q then p else mode == .rdn), 0))
       ∧ (∀ p m e, 0 < m → a = .fin p m e → b = .fin (!p) m e → r = (fpSign f (mode == .rdn), 0)))
  ∧ (∀ (mode : Mode) (neg : Bool) (m : Nat) (e q : Int),
       (q ≤ e → roundTo mode neg m e false q = (m * 2 ^ (e - q).toNat, false))
       ∧ (e < q → let d := 2 ^ (q - e).toNat
           let r := roundTo mode neg m e false q
           (r.2 = true ↔ ¬ d ∣ m) ∧ (r.1 * d < m + d ∧ m < r.1 * d + d)
           ∧ (mode = .rtz → r.1 * d ≤ m) ∧ (mode = .rup → if neg then r.1 * d ≤ m else m ≤ r.1 * d)
           ∧ (mode = .rdn → if neg then m ≤ r.1 * d else r.1 * d ≤ m)
           ∧ (mode = .rne → 2 * (r.1 * d) ≤ 2 * m + d ∧ 2 * m ≤ 2 * (r.1 * d) + d
               ∧ ((2 * (r.1 * d) = 2 * m + d ∨ 2 * m = 2 * (r.1 * d) + d) → r.1 % 2 = 0))))

/-- R238: FSUM, FDOT and FMAXA complete with one element: the sum, rounded once, of every element of the written sources; the sum of the
products of SA's and SB's elements and lane 0 of SC; and the greatest magnitude. That an FSUM or FMAXA whose sources are all unwritten gives
+0 and no flag, and that a sum of terms that are all +0 is +0 under .rdn too, is the model's choice (logs 13 and 154). -/
def Obligations.ReductionResults : Prop :=
  ∀ (w : SlotWord) (s : State), residueFault s w = none →
    let f := fpFmtOf w
    let n := fpWidth w
    let els := fun (x : Src) (p : Payload) => if x = .zero then [] else (List.range (128 / n)).map fun k => lane p n k
    let all := els w.sa (srcF s w).a ++ els w.sb (srcF s w).b ++ els w.sc (srcF s w).c
    (∃ t r fl, exec (.fsum w) s = .next t ∧ Leaves s t w 6 w.ok w.fmt fl r
        ∧ FpLanes n 1 r fl fun _ => fpSum f (fpMode w) (satBit w) (all.map fun x => ⟨false, [fpDecode f x]⟩))
    ∧ (w.sa ≠ .zero → w.sb ≠ .zero →
        ∃ t r fl, exec (.fdot w) s = .next t ∧ Leaves s t w 6 w.ok .f32 fl r
          ∧ FpLanes 32 1 r fl fun _ => fpSum fpF32 (fpMode w) (satBit w)
              (((List.range (128 / n)).map fun k => ⟨false, [fpDecode f (lane (srcF s w).a n k), fpDecode f (lane (srcF s w).b n k)]⟩)
                ++ if w.sc = .zero then [] else [⟨false, [fpDecode fpF32 (lane (srcF s w).c 32 0)]⟩]) true)
    ∧ (∃ t r fl, exec (.fmaxa w) s = .next t ∧ Leaves s t w 2 w.ok w.fmt fl r
        ∧ (∀ k, 0 < k → k < 128 / n → lane r n k = 0)
        ∧ ((∀ x ∈ all, (fpDecode f x).isNaN = false) → fl = 0 ∧ (∀ x ∈ all, x % 2 ^ (n - 1) ≤ lane r n 0)
            ∧ (lane r n 0 = 0 ∨ ∃ x ∈ all, lane r n 0 = x % 2 ^ (n - 1)))
        ∧ ((∃ x ∈ all, (fpDecode f x).isNaN = true) → lane r n 0 = fpNaN f))

/-- R239, R240: CVT, FTOI and ITOF complete, whatever their operands. CVT's result is the head's elements converted in the order of q, where q is
in the range that the rule gives it, and NaN with NV where the head's tag is not one of the four floating formats; a flag is set when some
converted element sets it. FTOI's is the number rounded to an integer in the mode, or the nearest number of its type with NV where that is
out of range, 0 with NV for a NaN, and NX for a number in range that is no integer; ITOF's is the number rounded to the format. -/
def Obligations.ConversionResults : Prop :=
  (∀ (w : SlotWord) (s : State), residueFault s w = none → ∃ t v fl, exec (.cvt w) s = .next t ∧ Leaves s t w 2 w.ok w.fmt fl v)
  ∧ (∀ (w : SlotWord) (s : State) (n : Fin 4) (h : Token), residueFault s w = none → w.sa = .i n →
      s.here.head s.cycle s.loc.site s.loc.ctx n.val = some h →
      ((h.tag = .f32 ∨ h.tag = .bf16 ∨ h.tag = .e4m3 ∨ h.tag = .e5m2) →
        let fs := fpOf h.tag
        let ns := 128 / fs.width
        let nd := 128 / fpWidth w
        let q := (w.imm.extractLsb' 0 2).toNat
        let el := fun k => fpConv (fpFmtOf w) (fpMode w) (satBit w) (fpDecode fs (lane h.val.bits fs.width k))
        let first := if ns ≤ nd then 0 else q * nd
        (if ns < nd then q < nd / ns else if ns = nd then q = 0 else q < ns / nd) →
          ∃ t r fl, exec (.cvt w) s = .next t ∧ Leaves s t w 2 w.ok w.fmt fl r
            ∧ (∀ k, k < nd → lane r (fpWidth w) k =
                if ns ≤ nd then (if q * ns ≤ k ∧ k < q * ns + ns then (el (k - q * ns)).1 % 2 ^ fpWidth w else 0) else (el (q * nd + k)).1 % 2 ^ fpWidth w)
            ∧ ∀ b, b < 5 → (fl.getLsbD b = true ↔ ∃ k, first ≤ k ∧ k < first + min ns nd ∧ (el k).2.getLsbD b = true))
      ∧ ((h.tag ≠ .f32 ∧ h.tag ≠ .bf16 ∧ h.tag ≠ .e4m3 ∧ h.tag ≠ .e5m2) →
          ∃ t, exec (.cvt w) s = .next t ∧ Leaves s t w 2 w.ok w.fmt flagNV (fillLanes (fpWidth w) (fpNaN (fpFmtOf w)))))
  ∧ (∀ (w : SlotWord) (s : State), residueFault s w = none →
      ∃ t r fl, exec (.ftoi w) s = .next t ∧ Leaves s t w 2 w.ok .raw fl r
        ∧ FpLanes (tWidth w) (min (128 / fpWidth w) (128 / tWidth w)) r fl fun k =>
            ftoiLane (fpFmtOf w) (tMode w) (tWidth w) (tSigned w) (lane (srcF s w).a (fpWidth w) k))
  ∧ (∀ (w : SlotWord) (s : State), residueFault s w = none →
      ∃ t r fl, exec (.itof w) s = .next t ∧ Leaves s t w 2 w.ok w.fmt fl r
        ∧ FpLanes (fpWidth w) (min (128 / fpWidth w) (128 / tWidth w)) r fl fun k =>
            let x := lane (readOps s w (tWidth w)).a (tWidth w) k
            itofLane (fpFmtOf w) (tMode w) (if tSigned w then sext x (tWidth w) else (x : Int)))
  ∧ (∀ (f : FpFmt) (mode : Mode) (n x : Nat) (signed : Bool),
      let lo : Int := if signed then -(2 ^ (n - 1) : Int) else 0
      let hi : Int := if signed then 2 ^ (n - 1) - 1 else 2 ^ n - 1
      let y := ftoiLane f mode n signed x
      ((fpDecode f x).isNaN = true → y = (0, flagNV))
      ∧ (∀ neg, fpDecode f x = .inf neg → ((2 : Int) ^ n ∣ (y.1 - if neg then lo else hi)) ∧ y.2 = flagNV)
      ∧ (∀ neg m e, fpDecode f x = .fin neg m e →
          let r := roundTo mode neg m e false 0
          let v : Int := if neg then -(r.1 : Int) else r.1
          ((2 : Int) ^ n ∣ (y.1 - max lo (min hi v))) ∧ y.2 = if v < lo ∨ hi < v then flagNV else if r.2 = true then flagNX else 0))
  ∧ (∀ (f : FpFmt) (mode : Mode) (v : Int),
      itofLane f mode 0 = (0, 0) ∧ (v ≠ 0 → itofLane f mode v = fpRound f mode false false (decide (v < 0)) v.natAbs 0 false))

/-- R241, R242, R234: SXPK puts the scale on its way for the sixth cycle and the block's fields for the seventh; SXUP unpacks a quarter of a
block by the scale latched for its thread, or gives NaN with NV; SXEX shows the latch. -/
def Obligations.SharedExponentBlocks : Prop :=
  (∀ (w : SlotWord) (s : State) (u : Nat) (a b c d : Payload),
    let heads := (readOps s w 32).heads
    heads.map (fun h => (h.1, h.2.val)) = [(0, mkVal a), (1, mkVal b), (2, mkVal c), (3, mkVal d)] → (∀ h ∈ heads, h.2.tid = u) →
    let q := sxPack (sxBits w.fmt) (fpMode w) (satBit w)
      ((List.range 16).map fun k => fpDecode fpF32 (lane (if k < 4 then a else if k < 8 then b else if k < 12 then c else d) 32 (k % 4)))
    ∃ t, exec (.sxpk w) s = .next t ∧ ∃ f g, (siteOf s t).flight = s.hereSite.flight ++ [f, g]
      ∧ f.due = some (s.cycle + 6) ∧ f.tok.kind = .scl ∧ f.tok.tag = w.fmt ∧ f.tok.val.bits = BitVec.ofNat 128 (q.e + 2 ^ 8 * q.d) ∧ f.flags = q.flags
      ∧ g.due = some (s.cycle + 7) ∧ g.tok.kind = w.ok ∧ g.tok.tag = w.fmt ∧ g.tok.val.bits = sxDat (sxBits w.fmt) q.fields
      ∧ f.tid = u ∧ g.tid = u ∧ f.om = w.om ∧ g.om = w.om)
  ∧ (∀ (w : SlotWord) (s : State) (n : Fin 4) (u : Nat), residueFault s w = none → w.sa = .i n → firingTid s w = some u →
    let latch := (s.hereCtx.latch.find? fun l => l.1 == n.val).map (·.2)
    let q := (w.imm.extractLsb' 0 2).toNat
    (∀ l, latch = some l → l.tid = u →
      (∃ t r, exec (.sxup w) s = .next t ∧ Leaves s t w 2 w.ok .f32 0 r ∧ Lanes 32 r fun k =>
          (fpConv fpF32 .rne false (sxDecode (sxBits w.fmt) l.e l.d (4 * q + k) (sxField (sxBits w.fmt) (src s w).a (4 * q + k)))).1)
      ∧ (∃ t, exec (.sxex w) s = .next t ∧ Leaves s t w 2 w.ok .raw 0 (ofLanes 32 [l.e, l.d, 1])))
    ∧ ((∀ l, latch = some l → l.tid ≠ u) →
      (∃ t, exec (.sxup w) s = .next t ∧ Leaves s t w 2 w.ok .f32 flagNV (fillLanes 32 (fpNaN fpF32)))
      ∧ (∃ t, exec (.sxex w) s = .next t ∧ Leaves s t w 2 w.ok .raw 0 0)))

/-! ## Tiles and banks -/

/-- R46: an instruction whose handle names no tile (an EMPTY entry, another generation or another space) takes TILE_STATE (0x20).

R187, R185: SEAL, RELEASE and RETAIN complete with the handle as their result, and what they do to the tile is done at the end of the
cycle. -/
def Obligations.HandlesAndTheirCounts : Prop :=
  (∀ (i : Instr) (w : SlotWord) (ly : Option Nat) (st : TileState) (s : State), tileNeeds i = some (w, ly, st) → residueFault s w = none →
       ((tileHere s w).state = .empty ∨ (tileHere s w).gen ≠ handle s w / 4096 ∨ (tileHere s w).space ≠ s.hereSpace) →
         exec i s = .next (slotFault s w 0x20 (handle s w)))
  ∧ (∀ (w : SlotWord) (s : State),
       let result := if w.ok = .ord then (0 : Payload) else fillLanes 32 (handle s w)
       let n := lane (src s w).b 32 0
       (NamesTile s w none .filling → 1 ≤ n → n ≤ 255 →
         ∃ t, exec (.seal w) s = .next t ∧ Leaves s t w 2 w.ok .raw 0 result ∧ Ends s t (.seal (entryNo s w) n) ∧ CoreOnly s t)
       ∧ (NamesTile s w none .filling → (n = 0 ∨ 255 < n) → exec (.seal w) s = .next (slotFault s w 0x20 (handle s w)))
       ∧ (NamesTile s w none .ready →
         ∃ t, exec (.release w) s = .next t ∧ Leaves s t w 2 w.ok .raw 0 result ∧ Ends s t (.release (entryNo s w)) ∧ CoreOnly s t)
       ∧ (NamesTile s w none .ready → (tileHere s w).cons ≠ 255 →
         ∃ t, exec (.retain w) s = .next t ∧ Leaves s t w 2 w.ok .raw 0 result ∧ Ends s t (.retain (entryNo s w)) ∧ CoreOnly s t))

/-- R171: at the end of the cycle a sealed tile is READY with its count; a release takes one from the count, and the last one empties the
tile, its generation one higher, or drains it while a write-out is attached; a retain adds one. Other tiles stay.

R263, R259: what a bank holds after the end of the cycle of an ACCWR or ACCZ. -/
def Obligations.TileAndBankStateChanges : Prop :=
  (∀ (c : Core) (now i n k : Nat), k ≠ i →
       let t := c.tile i
       ((c.endTile now (.seal i n)).tile k = c.tile k ∧ (c.endTile now (.release i)).tile k = c.tile k ∧ (c.endTile now (.retain i)).tile k = c.tile k)
       ∧ (t.state = .filling → (c.endTile now (.seal i n)).tile i = { t with state := .ready, cons := n })
       ∧ (t.state = .ready → 1 < t.cons → (c.endTile now (.release i)).tile i = { t with cons := t.cons - 1 })
       ∧ (t.state = .ready → t.cons ≤ 1 → t.wout = true → (c.endTile now (.release i)).tile i = { t with state := .draining, cons := 0 })
       ∧ (t.state = .ready → t.cons ≤ 1 → t.wout = false →
           ((c.endTile now (.release i)).tile i).state = .empty ∧ ((c.endTile now (.release i)).tile i).gen = (t.gen + 1) % 16)
       ∧ (t.state = .ready → t.cons < 255 → (c.endTile now (.retain i)).tile i = { t with cons := t.cons + 1 }))
  ∧ (∀ (c : Core) (now b k n : Nat) (v : Payload),
       ((c.endTile now (.word b n v)).bank b).word k = (if k = n then v else (c.bank b).word k)
       ∧ ((c.endTile now (.zero b)).bank b).word k = 0
       ∧ (k ≠ b → (c.endTile now (.word b n v)).bank k = c.bank k ∧ (c.endTile now (.zero b)).bank k = c.bank k))

/-- R188, R191, R190: TLD and TPLN complete six cycles later with the tile's bytes at their offset, and hold the tile until then; TINFO
shows the entry. The offset is rounded down to its unit before it is held against the tile's bounds (the model's reading, log 108).

R249, R250, R192: TLDW sends a beat of 128 bytes of its tile to the matrix tiles bound to its element, or to its mirror. POOL's result
leaves two cycles later; at the end of its cycle, whatever else the cycle did, it is given the size, the free granules, the longest free run
and the waiting requests of its pool as they stand then. -/
def Obligations.TileReadsBeatsAndPools : Prop :=
  (∀ (w : SlotWord) (s : State),
       let t := tileHere s w
       let off := lane (src s w).b 32 0 / 16 * 16
       (NamesTile s w (some (layoutOf w)) .ready → off + 16 ≤ 32 * t.size →
         ∃ u r, exec (.tld w) s = .next u ∧ Leaves s u w 6 w.ok w.fmt 0 r ∧ HoldsTile r s.here t off ∧ s.cycle + 6 ≤ ((coreOf s u).tile (entryNo s w)).pinTo)
       ∧ (NamesTile s w (some (layoutOf w)) .ready → 32 * t.size < off + 16 → exec (.tld w) s = .next (slotFault s w 0x20 (handle s w)))
       ∧ (∀ slab, NamesTile s w (some (layoutOf w)) .ready → slabOff w.fmt (lane (src s w).b 32 1) = some slab → lane (src s w).b 32 2 ≤ 7 →
         let at_ := lane (src s w).b 32 0 * subBlock w.fmt + slab + 16 * lane (src s w).b 32 2
         at_ + 16 ≤ 32 * t.size →
           ∃ u r, exec (.tpln w) s = .next u ∧ Leaves s u w 6 w.ok w.fmt 0 r ∧ HoldsTile r s.here t at_)
       ∧ (NamesTile s w none .ready →
         ∃ u r, exec (.tinfo w) s = .next u ∧ Leaves s u w 2 w.ok .raw 0 r
           ∧ Lanes 32 r fun k => if k = 0 then handle s w else if k = 1 then t.size else if k = 2 then t.base
               else 2 + t.layout * 2 ^ 4 + t.cons * 2 ^ 8 + t.pool * 2 ^ 16 + t.wout.toNat * 2 ^ 20)
       ∧ ((Instr.tinfo w).opcode = some (0x0A9, w) ∧ (Instr.tinfo w).latency = .num 2
         ∧ ((∃ site prv, (Instr.tinfo w).wfAt site prv = true) → w.mod = 0)))
  ∧ ((∀ (w : SlotWord) (s : State) (ds : List Nat), NamesTile s w (some (layoutOf w)) .ready →
       s.here.tldwDests s.cycle s.loc.ctx s.loc.site = some ds → lane (src s w).b 32 0 / 128 * 128 + 128 ≤ 32 * (tileHere s w).size →
       ∃ u x, exec (.tldw w) s = .next u ∧ Leaves s u w 6 w.ok .raw 0 0 ∧ (coreOf s u).wide = s.here.wide ++ [x]
         ∧ x.due = s.cycle + 6 ∧ x.src = s.loc.site ∧ x.dests = ds ∧ x.beat.ctx = s.loc.ctx ∧ x.beat.tid = (src s w).tid
         ∧ x.beat.data = (List.range 128).map fun k => tileByte s.here (tileHere s w) (lane (src s w).b 32 0 / 128 * 128) k)
     ∧ (∀ (w : SlotWord) (s : State), residueFault s w = none →
       let k := (w.imm.extractLsb' 0 4).toNat
       ∃ u, exec (.pool w) s = .next u ∧ Leaves s u w 2 w.ok .raw 0 0 ∧ Ends s u (.pool s.loc.site s.loc.slot k)
         ∧ ∀ v : State, v.cycle = s.cycle → (v.core s.loc.core).site s.loc.site = siteOf s u → (w.om ≠ 0 ∨ w.dr ≠ none) →
             let x := siteOf s (v.endReport s.loc.core (.pool s.loc.site s.loc.slot k))
             onItsWay s w (s.cycle + 2) w.ok .raw 0 ((v.core s.loc.core).poolResult (s.cycle + 1) k) ∈ x.flight
               ∧ x.flight.length = s.hereSite.flight.length + 1)
     ∧ (∀ (c : Core) (now k : Nat), Lanes 32 (c.poolResult now k) fun n =>
         if n = 0 then (c.pool k).size else if n = 1 then c.freeCount now k else if n = 2 then longestRun (c.freeMap now k) 0 0
         else (c.waiting.filter fun r => r.pool == k).length))

/-- R184, R188, R189: TST, TSTW and TZERO put a write of the tile on its way: sixteen bytes of SC, the beat at the front of the wide
buffer, or zeros throughout. What their token holds no rule states (log 19), and that the offset is rounded down to its unit before it is
held against the tile's bounds is the model's reading (log 108). -/
def Obligations.TileWritesStart : Prop :=
  ∀ (w : SlotWord) (s : State),
    let t := tileHere s w
    let off := fun n => lane (src s w).b 32 0 / n * n
    (NamesTile s w (some (layoutOf w)) .filling → off 16 + 16 ≤ 32 * t.size →
      ∃ u v, exec (.tst w) s = .next u ∧ Leaves s u w 6 w.ok .raw 0 v
        ∧ Writes s u ⟨s.cycle + 6, entryNo s w, off 16, leBytes (src s w).c.toNat 16, (src s w).tid⟩)
    ∧ (∀ b, NamesTile s w (some (layoutOf w)) .filling → frontBeat s w = some b → off 128 + 128 ≤ 32 * t.size →
      ∃ u v, exec (.tstw w) s = .next u ∧ Leaves s u w 6 w.ok .raw 0 v
        ∧ Writes s u ⟨s.cycle + 6, entryNo s w, off 128, b.data, (src s w).tid⟩
        ∧ (siteOf s u).wb = wideTake s.cycle 1 s.hereSite.wb)
    ∧ (NamesTile s w none .filling →
      ∃ u, exec (.tzero w) s = .next u ∧ Leaves s u w 6 w.ok .raw 0 0
        ∧ Writes s u ⟨s.cycle + 6 + (t.size + 31) / 32, entryNo s w, 0, List.replicate (32 * t.size) 0, (src s w).tid⟩)

/-- R178, R179, R193: ALLOC and ACCA complete with the handle or the banks that they were granted, and the grant is used up; without one
they join the waiting list of their pool, and a size that the pool can never give is ALLOC_OVERSIZE (0x23). An ALLOC whose safe point's commit
cannot be complete at once begins it and joins the list when it is (the model's reading, log 121). ACCF gives the banks of its
allocation back, to be granted from the next cycle on, once no chunk is in flight on them; of banks that are not its own it is ACC_HELD
(0x24). -/
def Obligations.Allocations : Prop :=
  ∀ (w : SlotWord) (s : State), residueFault s w = none →
    let u := (src s w).tid
    (∀ g, heldGrant s u false = some g →
      ∃ t, exec (.alloc w) s = .next t ∧ Leaves s t w 4 w.ok .raw 0 (fillLanes 32 ((s.here.tile g.num).gen * 4096 + g.num))
        ∧ (coreOf s t).grants = s.here.grants.erase g ∧ (coreOf s t).tiles = s.here.tiles)
    ∧ (heldGrant s u false = none → hasReq s u = false → allocOk s w (src s w) = false → exec (.alloc w) s = .next (slotFault s w 0x23 0))
    ∧ (heldGrant s u false = none → hasReq s u = false → allocOk s w (src s w) = true → s.commitWaits s.loc.core u = true →
      exec (.alloc w) s = .next (s.commit s.loc.core u))
    ∧ (heldGrant s u false = none → hasReq s u = false → allocOk s w (src s w) = true → s.commitWaits s.loc.core u = false →
      ∃ t, exec (.alloc w) s = .next t ∧ SameMemory s t
        ∧ ∃ q ∈ (coreOf s t).waiting, q.tid = u ∧ q.kind = .alloc s.loc.site s.loc.ctx s.loc.slot (layoutOf w)
            ∧ q.pool = (w.imm.extractLsb' 0 4).toNat ∧ q.size = allocSize w (src s w))
    ∧ (∀ g, heldGrant s u true = some g →
      ∃ t, exec (.acca w) s = .next t ∧ Leaves s t w 4 w.ok .raw 0 (ofLanes 32 [g.num, (s.here.bank g.num).count, 0, 0])
        ∧ (coreOf s t).grants = s.here.grants.erase g ∧ (coreOf s t).banks = s.here.banks)
    ∧ (heldGrant s u true = none → hasReq s u = false →
      let m := lane (src s w).b 32 0
      (1 ≤ m → m ≤ 192 → ∃ t, exec (.acca w) s = .next t ∧ SameMemory s t
          ∧ ∃ q ∈ (coreOf s t).waiting, q.tid = u ∧ q.kind = .acca s.loc.site s.loc.ctx s.loc.slot ∧ q.size = m)
      ∧ ((m = 0 ∨ 192 < m) → exec (.acca w) s = .next (slotFault s w 0x23 0)))
    ∧ (let b := lane (src s w).a 32 0
      ((s.here.bank b).holder = some u → (s.here.bank b).first = b →
        (∀ k ∈ s.here.chunks, ∀ j, j < (s.here.bank b).count → (k.bank = b + j ∨ k.bank + 1 = b + j) → s.cycle ≤ k.fired) →
        ∃ t v, exec (.accf w) s = .next t ∧ Leaves s t w 2 w.ok .raw 0 v
          ∧ ∀ j, j < (s.here.bank b).count → ((coreOf s t).bank (b + j)).holder = none ∧ ((coreOf s t).bank (b + j)).grantFrom = s.cycle + 1)
      ∧ (((s.here.bank b).holder ≠ some u ∨ (s.here.bank b).first ≠ b) → exec (.accf w) s = .next (slotFault s w 0x24 0)))

/-- R257 to R259: an MMA or MMAZ whose checks and waits are all met completes: its token leaves forty cycles later, the B chunk's beats
leave the wide buffer, the plane array is busy for 8 cycles a plane of A, and a chunk is in flight whose 1,024 sums are the rounded
products of A's rows and B's columns. -/
def Obligations.MatrixMultiplies : Prop :=
  ∀ (w : SlotWord) (s : State) (beats : List Beat) (zero : Bool), residueFault s w = none →
    let o := src s w
    let h := (o.c.extractLsb' 32 16).toNat
    let b := lane o.c 32 2
    let a := s.here.tile (h % 4096)
    let size := subBlock (aFmt w)
    tileUse s h (some 2) false o.tid = .ok → (lane o.c 32 0 + 1) * size ≤ 32 * a.size → b ≤ 190 →
    (s.here.bank b).holder = some o.tid → (s.here.bank (b + 1)).holder = some o.tid → chunkBeats s w o.tid = some beats → s.hereSite.busy ≤ s.cycle →
    (∀ k ∈ s.here.chunks, k.site ≠ s.loc.site → k.bank ≠ b ∧ k.bank + 1 ≠ b ∧ k.bank ≠ b + 1) →
    (s.here.bank b).journal.isSome = true → (s.here.bank (b + 1)).journal.isSome = true →
    ((∃ l, s.hereSite.lastMma = some l ∧ s.cycle ≤ l + 256) ∨ (s.die (dieOf s.loc.core)).granted.any (sameStart (startReq s o.tid)) = true) →
      ∃ t k, exec (if zero then .mmaz w else .mma w) s = .next t ∧ Leaves s t w 40 w.ok .raw 0 o.c
        ∧ (siteOf s t).wb = wideTake s.cycle beats.length s.hereSite.wb ∧ (siteOf s t).busy = s.cycle + 8 * planes (aFmt w)
        ∧ (siteOf s t).lastMma = some s.cycle ∧ (coreOf s t).chunks = s.here.chunks ++ [k]
        ∧ k.site = s.loc.site ∧ k.fired = s.cycle ∧ k.due = s.cycle + 8 * planes (aFmt w) + 8 ∧ k.bank = b ∧ k.zero = zero ∧ k.tile = h % 4096
        ∧ k.tid = o.tid
        ∧ let asub := leNat ((List.range size).map fun n => tileByte s.here a (lane o.c 32 0 * size) n)
          let bsub := leNat (beats.flatMap (·.data))
          ∀ x y, x < 32 → y < 32 → k.q[32 * x + y]? = some (BitVec.ofNat 32
            (chunkRound ((List.range 32).map fun n => planeElem (aFmt w) asub x n) ((List.range 32).map fun n => packedElem w.fmt bsub y n)).1)

/-- R252: MTCFG completes with IMM in lane 0, and the first one of a context binds its matrix tile from the next cycle on.

R263, R265: the accesses to an accumulator bank complete for its holder, once drained where the row says so and journaled where they
write, and are ACC_HELD (0x24) for any other thread. ACCCV to an SX format leaves two tokens, the scale first, as SXPK does, and writes no
register (the model's choice, log 124). -/
def Obligations.MatrixTilesAndBanks : Prop :=
  (∀ (w : SlotWord) (s : State), residueFault s w = none →
       ∃ t, exec (.mtcfg w) s = .next t ∧ Leaves s t w 2 w.ok .raw 0 (ofLanes 32 [w.imm.toNat])
         ∧ ((siteOf s t).ctx s.loc.ctx).mtsrc = (match s.hereCtx.mtsrc with
           | some b => some b
           | none => some ((w.imm.extractLsb' 0 4).toNat, s.cycle + 1)))
  ∧ (∀ (w : SlotWord) (s : State),
       let o := src s w
       let b := lane o.a 32 0
       let word := ((s.here.bank b).word (lane o.a 32 1 % 128))
       (residueFault s w = none → ¬ (b ≤ 191 ∧ (s.here.bank b).holder = some o.tid) → ∀ i,
           (i = .accrd w ∨ i = .accrdn w ∨ i = .accwr w ∨ i = .accz w ∨ i = .acccv w) → exec i s = .next (slotFault s w 0x24 0))
       ∧ (HasBank s w → ∃ t, exec (.accrdn w) s = .next t ∧ Leaves s t w 8 w.ok .f32 0 word ∧ SiteOnly s t)
       ∧ (HasBank s w → Drained s w → ∃ t, exec (.accrd w) s = .next t ∧ Leaves s t w 8 w.ok .f32 0 word ∧ SiteOnly s t)
       ∧ (HasBank s w → Drained s w → (s.here.bank b).journal.isSome = true →
           ∃ t, exec (.accwr w) s = .next t ∧ Leaves s t w 8 w.ok .raw 0 o.a ∧ Ends s t (.word b (lane o.a 32 1 % 128) o.b))
       ∧ (HasBank s w → Drained s w → (s.here.bank b).journal.isSome = true →
           ∃ t, exec (.accz w) s = .next t ∧ Leaves s t w 4 w.ok .raw 0 o.a ∧ Ends s t (.zero b))
       ∧ (HasBank s w → Drained s w → (w.fmt = .bf16 ∨ w.fmt = .e4m3 ∨ w.fmt = .e5m2) →
           let n := 128 / fpWidth w
           let e := lane o.a 32 1 % 512 / n * n
           ∃ t r fl, exec (.acccv w) s = .next t ∧ Leaves s t w 10 w.ok w.fmt fl r
             ∧ FpLanes (fpWidth w) n r fl fun k => fpConv (fpFmtOf w) (fpMode w) (satBit w) (fpDecode fpF32 ((s.here.bank b).elem (e + k))))
       ∧ (HasBank s w → Drained s w → (w.fmt = .sx7 ∨ w.fmt = .sx4 ∨ w.fmt = .sx2) →
           let e := lane o.a 32 1 % 512 / 16 * 16
           let p := sxPack (sxBits w.fmt) (fpMode w) (satBit w) ((List.range 16).map fun k => fpDecode fpF32 ((s.here.bank b).elem (e + k)))
           ∃ t f g, exec (.acccv w) s = .next t ∧ (siteOf s t).flight = s.hereSite.flight ++ [f, g]
             ∧ f.due = some (s.cycle + 10) ∧ f.tok.kind = .scl ∧ f.tok.val.bits = BitVec.ofNat 128 (p.e + 2 ^ 8 * p.d) ∧ f.flags = p.flags
             ∧ g.due = some (s.cycle + 11) ∧ g.tok.kind = w.ok ∧ g.tok.val.bits = sxDat (sxBits w.fmt) p.fields))

/-! ## Memory elements -/

/-- R97, R95: an access whose range is in no entry of the core's table begins, and asks the walkers of its die for the range.

R97, R98: an access that fails a check takes its code, with the failing address in its record; but a PREF that would fault is dropped
(R149), and so is an access that no thread fired, which faults nobody (the model's choice, log 18).

R127, R149: a load or PREF of a line that the core does not hold asks the line's home for it and waits; a load does so once no earlier load of
the core waits for the line. -/
def Obligations.AccessChecksAndMisses : Prop :=
  (∀ (i : Instr) (w : SlotWord) (op : MemOp) (need : Need) (a n m : Nat) (s : State), translated s i = some (w, op, need, a, n) →
       residueFault s w = none → FreshNumber s →
       xlate s.here.rtab (s.xlateOn (dieOf s.loc.core)) s.hereSpace s.herePriv need a n = .miss m →
         ∃ t, exec i s = .next t ∧ Gone s t w ∧ SameMemory s t
           ∧ (∃ x ∈ (coreOf s t).accesses, x.id = s.here.nextId ∧ x.op = op ∧ x.va = a ∧ x.n = n ∧ x.tid = (src s w).tid ∧ x.stage = .walk)
           ∧ ∃ k ∈ (t.die (dieOf s.loc.core)).walks, k.core = s.loc.core ∧ k.space = s.hereSpace ∧ k.va = m ∧ WalkFor.access s.here.nextId ∈ k.who)
  ∧ (∀ (i : Instr) (w : SlotWord) (op : MemOp) (need : Need) (a n code bad detail : Nat) (s : State), translated s i = some (w, op, need, a, n) →
       residueFault s w = none → FreshNumber s →
       xlate s.here.rtab (s.xlateOn (dieOf s.loc.core)) s.hereSpace s.herePriv need a n = .fail code bad detail →
         ((op = .pref ∨ (src s w).tid = noTid) → ∃ t, exec i s = .next t ∧ (coreOf s t).accesses = s.here.accesses ∧ Gone s t w
             ∧ (siteOf s t).flight = s.hereSite.flight ∧ (coreOf s t).threads = s.here.threads)
         ∧ (op ≠ .pref → (src s w).tid ≠ noTid → ∃ (u : State) (r : FaultRec), exec i s = .next (u.raiseFault s.loc.core (src s w).tid r)
             ∧ r.code = code ∧ r.addr = bad ∧ r.detail = detail ∧ r.site = s.loc.site ∧ r.slot = s.loc.slot ∧ r.ctx = s.loc.ctx))
  ∧ (∀ (i : Instr) (w : SlotWord) (op : MemOp) (a n pa : Nat) (table : List RangeEntry) (s : State), translated s i = some (w, op, .read, a, n) →
       residueFault s w = none → FreshNumber s → (threadHere s w).area = [] → 0 < n → Translates s .read a n pa table → (copyAt s pa).st = .i →
       (op ≠ .pref → NoEarlierLoad s pa) →
         ∃ t, exec i s = .next t ∧ SameMemory s t ∧ Sends s t { Pkt.mk0 .gets (pa / 128) s.loc.core 0 with id := s.here.nextId, tid := (src s w).tid }
           ∧ ∃ x ∈ (coreOf s t).accesses, x.id = s.here.nextId ∧ x.op = op ∧ x.stage = .wait)

/-- R146: a load whose line the core holds, and that no earlier load of the core waits for, is answered with its bytes, read little-endian: LD's
widened to lane 0 by its type, LDA's in lane 0, LDT's all sixteen.

R151 to R153, R129, R166: an atomic on a word of a line that its core owns is performed in one step: the word takes its new value, the line
is M, and the old word is the result; an ACAS whose old word is not lane 0 of SB leaves the word as it was, and the line is M all the same. -/
def Obligations.HeldLinesAnswer : Prop :=
  (∀ (w : SlotWord) (s : State) (pa : Nat) (table : List RangeEntry), residueFault s w = none → FreshNumber s → Readable (copyAt s pa) →
       (threadHere s w).area = [] → w.ok ≠ .ord → NoEarlierLoad s pa →
       let x := copyAt s pa
       let n := lwidth w / 8
       (Translates s .read (va s w) n pa table → ∃ t r, exec (.ld w) s = .next t ∧ AnsweredAtOnce s t w w.fmt r ∧ SameMemory s t
           ∧ Lanes 32 r fun k => if k ≠ 0 then 0 else
               if laneSigned (ltype w) then (sext (copyNum x pa n) (8 * n) % 2 ^ 32).toNat else copyNum x pa n)
       ∧ (Translates s .read (va s w) 16 pa table →
           ∃ t, exec (.ldt w) s = .next t ∧ AnsweredAtOnce s t w w.fmt (BitVec.ofNat 128 (copyNum x pa 16)) ∧ SameMemory s t)
       ∧ (Translates s .read (va s w) 4 pa table →
           ∃ t, exec (.lda w) s = .next t ∧ AnsweredAtOnce s t w .raw (ofLanes 32 [copyNum x pa 4]) ∧ SameMemory s t))
  ∧ (∀ (i : Instr) (w : SlotWord) (tag : Fmt) (f : Nat → Nat → Nat → Nat) (s : State) (pa : Nat) (table : List RangeEntry),
       atomics i = some (w, tag, f) → residueFault s w = none → FreshNumber s → (threadHere s w).area = [] → w.ok ≠ .ord →
       Translates s .atomic (wordVa s w) 4 pa table → Readable (copyAt s pa) → ((copyAt s pa).st = .e ∨ (copyAt s pa).st = .m) →
         let x := copyAt s pa
         let old := copyNum x pa 4
         ∃ t, exec i s = .next t ∧ AnsweredAtOnce s t w tag (ofLanes 32 [old]) ∧ SameMemory s t
           ∧ (coreOf s t).l1line (pa / 128) =
               { x with st := .m, data := putSlice x.data (pa % 128) (leBytes (f old (lane (src s w).b 32 0) (lane (src s w).b 32 1)) 4) })

/-- R149, R150, R132: a PREF of a held line, a FENCE with nothing to commit, and a FLUSH or INVL of no bytes, complete at once and change no
copy. A FENCE that names a d-register writes zeros there (the model's reading, log 148).

R132: FLUSH and INVL of scope .thr or .core on a line of the core: a dirty copy goes home with a WB that the access waits for, FLUSH keeping a
shared copy and INVL none; a clean copy stays at a FLUSH and is dropped at an INVL, with an EVN where it was E, and the access is done at
once, but for an EVN beside a dirty copy of the die's proxy, which it waits for; so is one of a line that the core does not hold.

FLUSH and INVL of scope .die, .dev or .sys on a line that no proxy has: every core of the scope with a dirty copy sends its WB home, all of
which the access waits for; FLUSH leaves those copies shared, INVL drops every copy, an E one with an EVN. With no dirty copy a FLUSH.sys of a
dirty line has the home write it to HBM and waits for that, and any other is done at once. While a WB or EVN of the line is on its way home
such an access waits for it first (the model's reading, log 150). -/
def Obligations.PrefetchFlushInvalidate : Prop :=
  (∀ (w : SlotWord) (s : State) (pa : Nat) (table : List RangeEntry), residueFault s w = none → FreshNumber s →
       (Translates s .read (va s w) 1 pa table → (copyAt s pa).st ≠ .i →
         ∃ t, exec (.pref w) s = .next t ∧ (coreOf s t).accesses = s.here.accesses ∧ (siteOf s t).flight = s.hereSite.flight
           ∧ Gone s t w ∧ (coreOf s t).l1 = s.here.l1)
       ∧ ((threadHere s w).area = [] → ∃ t, exec (.fence w) s = .next t ∧ DoneAtOnce s t w w.dr ∧ (coreOf s t).l1 = s.here.l1 ∧ t.chans = s.chans)
       ∧ (lane (src s w).b 32 0 = 0 → ∀ i, (i = .flush w ∨ i = .invl w) →
           ∃ t, exec i s = .next t ∧ DoneAtOnce s t w none ∧ (coreOf s t).l1 = s.here.l1 ∧ t.chans = s.chans))
  ∧ (∀ (w : SlotWord) (s : State) (pa n : Nat) (table : List RangeEntry), residueFault s w = none → FreshNumber s → scopeOf w < 2 →
       n = lane (src s w).b 32 0 → 0 < n → n ≤ 128 - va s w % 128 →
       flushCheck s.here.rtab (s.xlateOn (dieOf s.loc.core)) s.hereSpace s.herePriv (va s w) n (n / 128 + 2) [] = .ok [⟨pa, 0, n, none⟩] false table →
       let x := copyAt s pa
       let die := dieOf s.loc.core
       (x.st = .s → (∃ t, exec (.flush w) s = .next t ∧ DoneAtOnce s t w none ∧ (coreOf s t).l1line (pa / 128) = x)
         ∧ (∃ t, exec (.invl w) s = .next t ∧ DoneAtOnce s t w none ∧ ((coreOf s t).l1line (pa / 128)).st = .i))
       ∧ (x.st = .e → (∃ t, exec (.flush w) s = .next t ∧ DoneAtOnce s t w none ∧ (coreOf s t).l1line (pa / 128) = x)
         ∧ (∃ t p, exec (.invl w) s = .next t ∧ ((coreOf s t).l1line (pa / 128)).st = .i ∧ Sends s t p ∧ p.kind = .evn ∧ p.line = pa / 128
           ∧ if die ≠ lineDie (pa / 128) ∧ (s.proxy die (pa / 128)).dirty = true then p.id = s.here.nextId ∧ Waits s t .invl .wait 1
             else p.id = 0 ∧ DoneAtOnce s t w none))
       ∧ (x.st = .i → ∀ i, (i = .flush w ∨ i = .invl w) → ∃ t, exec i s = .next t ∧ DoneAtOnce s t w none ∧ t.chans = s.chans)
       ∧ ((x.st = .m ∨ x.st = .o) →
         (∃ t, exec (.flush w) s = .next t ∧ ((coreOf s t).l1line (pa / 128)) = { x with st := .s }
           ∧ (∃ p, Sends s t p ∧ p.kind = .wb ∧ p.line = pa / 128 ∧ p.lineData = x.data ∧ p.poison = x.poison ∧ p.keep = true)
           ∧ Waits s t .flush .wait 1)
         ∧ (∃ t, exec (.invl w) s = .next t ∧ ((coreOf s t).l1line (pa / 128)).st = .i
           ∧ (∃ p, Sends s t p ∧ p.kind = .wb ∧ p.line = pa / 128 ∧ p.lineData = x.data ∧ p.poison = x.poison ∧ p.keep = false)
           ∧ Waits s t .invl .wait 1)))
  ∧ (∀ (w : SlotWord) (s : State) (pa n : Nat) (table : List RangeEntry), residueFault s w = none → FreshNumber s → 2 ≤ scopeOf w →
       n = lane (src s w).b 32 0 → 0 < n → n ≤ 128 - va s w % 128 →
       flushCheck s.here.rtab (s.xlateOn (dieOf s.loc.core)) s.hereSpace s.herePriv (va s w) n (n / 128 + 2) [] = .ok [⟨pa, 0, n, none⟩] false table →
       let l := pa / 128
       let holders := holdersOf s.loc.core (scopeOf w)
       let copy := fun (u : State) (k : Nat) => (u.core k).l1line l
       let dirty := holders.filter fun k => (copy s k).st.dirty
       (s.comesHome l = true →
         (∃ t, exec (.flush w) s = .next t ∧ t.chans = s.chans ∧ Waits s t .flush .order 0 ∧ ∀ k, copy t k = copy s k)
         ∧ (∃ t, exec (.invl w) s = .next t ∧ t.chans = s.chans ∧ Waits s t .invl .order 0 ∧ ∀ k, copy t k = copy s k))
       ∧ (s.comesHome l = false → (∀ d, tblHas s.proxies (4 * l + d) = false) →
         (∃ t, exec (.flush w) s = .next t ∧ (∀ k, copy t k = if k ∈ dirty then { copy s k with st := .s } else copy s k)
           ∧ (∀ k ∈ dirty, ∃ p, JoinsHome s t k p ∧ p.kind = .wb ∧ p.line = l ∧ p.lineData = (copy s k).data ∧ p.poison = (copy s k).poison
               ∧ p.keep = true ∧ p.scope = scopeOf w ∧ p.id = s.here.nextId ∧ p.addr = s.loc.core)
           ∧ if dirty = [] then t.chans = s.chans
               ∧ (let y := s.line l
                  if scopeOf w = 4 ∧ y.dirty = true ∧ y.data.isSome = true ∧ y.poison = 0 ∧ ((s.die (lineDie l)).boot && bootWindow l) = false then
                    Waits s t .flush .wait 1 ∧ (t.line l).hbmWrite = y.hbmWrite ++ [(s.loc.core, s.here.nextId)]
                  else DoneAtOnce s t w none ∧ t.lines = s.lines)
             else Waits s t .flush .wait dirty.length)
         ∧ (∃ t, exec (.invl w) s = .next t ∧ (∀ k ∈ holders, (copy t k).st = .i) ∧ (∀ k, k ∉ holders → copy t k = copy s k)
           ∧ (∀ k ∈ dirty, ∃ p, JoinsHome s t k p ∧ p.kind = .wb ∧ p.line = l ∧ p.lineData = (copy s k).data ∧ p.poison = (copy s k).poison
               ∧ p.keep = false ∧ p.id = s.here.nextId ∧ p.addr = s.loc.core)
           ∧ (∀ k ∈ holders, (copy s k).st = .e → ∃ p, JoinsHome s t k p ∧ p.kind = .evn ∧ p.line = l ∧ p.id = 0)
           ∧ if dirty = [] then DoneAtOnce s t w none else Waits s t .invl .wait dirty.length)))

/-- R140, R154: ST, STT and RED complete two cycles later, their bytes entered in their thread's commit area: no line and no memory
changes. A RED carries its operation and type, and always appends an entry, to a word that the area holds already too; a store to a word that
the area does not hold appends one.

R140: a word stored to again before it is sent is merged: the bytes of the new store replace those of the old, and the mask grows.

R147, R271: an STL of a thread whose area is empty has its commit complete at once: its own entry enters after it, is sent to the word's home,
and the STL waits for its acknowledgement; that it enters only after its commit is the model's reading (log 137). -/
def Obligations.StoresCommit : Prop :=
  (∀ (w : SlotWord) (s : State) (pa : Nat) (table : List RangeEntry), residueFault s w = none →
       let th := threadHere s w
       let o := src s w
       let n := lwidth w / 8
       th.standing < th.cap →
       let newWord := ∀ e ∈ th.area, e.pwa ≠ pa / 16
       (newWord → Translates s .write (va s w) n pa table → ∃ t, exec (.st w) s = .next t ∧ Leaves s t w 2 w.ok .raw 0 0 ∧ SameMemory s t
           ∧ ((coreOf s t).thread o.tid).area = th.area ++ [storeEntry s pa (va s w) n o.b.toNat 0 0 false] ∧ t.lines = s.lines ∧ (coreOf s t).l1 = s.here.l1)
       ∧ (newWord → Translates s .write (va s w) 16 pa table → ∃ t, exec (.stt w) s = .next t ∧ Leaves s t w 2 w.ok .raw 0 0 ∧ SameMemory s t
           ∧ ((coreOf s t).thread o.tid).area = th.area ++ [storeEntry s pa (va s w) 16 o.b.toNat 0 0 false] ∧ t.lines = s.lines ∧ (coreOf s t).l1 = s.here.l1)
       ∧ (Translates s .atomic (wordVa s w) 4 pa table → ∃ t, exec (.red w) s = .next t ∧ Leaves s t w 2 w.ok .raw 0 0 ∧ SameMemory s t
           ∧ ((coreOf s t).thread o.tid).area = th.area ++
               [storeEntry s pa (wordVa s w) 4 o.b.toNat ((w.imm.extractLsb' 0 3).toNat + 1) (scopeOf w) (decide (w.mod.toNat < 8))]
           ∧ t.lines = s.lines ∧ (coreOf s t).l1 = s.here.l1))
  ∧ (∀ (area : List AreaEntry) (m e : AreaEntry), m.oper = 0 → m.sent = false → m.held = false → e.pwa = m.pwa → (∀ x ∈ area, x.id ≠ m.id) →
       ∃ m', enterWord (area ++ [m]) e = area ++ [m'] ∧ m'.mask = m.mask ||| e.mask ∧ m'.pwa = m.pwa ∧ m'.id = m.id
         ∧ ∀ k, k < 16 → m'.data.extractLsb' (8 * k) 8 = if e.mask.getLsbD k then e.data.extractLsb' (8 * k) 8 else m.data.extractLsb' (8 * k) 8)
  ∧ (∀ (w : SlotWord) (s : State) (pa : Nat) (table : List RangeEntry), residueFault s w = none → FreshNumber s →
       let th := threadHere s w
       let o := src s w
       th.area = [] → 0 < th.cap → Translates s .write (va s w) 4 pa table → (copyAt s pa).st = .i →
         ∃ t e, exec (.stl w) s = .next t ∧ Gone s t w ∧ SameMemory s t
           ∧ e = storeEntry s pa (va s w) 4 o.b.toNat 0 (scopeOf w) false
           ∧ ((coreOf s t).thread o.tid).area = [{ e with sent := true, go := true, id := s.here.nextId + 2 }]
           ∧ (∃ p, Sends s t p ∧ p.kind = .store ∧ p.line = pa / 128 ∧ p.word = pa / 16 % 8 ∧ p.mask = e.mask ∧ p.data = e.data ∧ p.scope = scopeOf w
               ∧ p.id = s.here.nextId + 2)
           ∧ ∃ a ∈ (coreOf s t).accesses, a.op = .stl ∧ a.tid = o.tid ∧ a.stage = .wait)

/-! ## Engines, tasks and joins across the device -/

/-- R50, R158: an engine command completes while its engine's queue has room: the message of its four heads is sent, as a job of its thread with
the privilege of its block, and enters the queue at the end of the cycle; and the thread can no longer be restarted unseen (R356). The job knows
GATH's message from SCAT's. ENGQ's result leaves four cycles later; at the end of its cycle, whatever else the cycle did, it is given the
room in the core's three queues, less the messages that are on their way, and the jobs that the die still has room for. -/
def Obligations.EngineCommandsQueueTheirMessage : Prop :=
  (∀ (i : Instr) (w : SlotWord) (coll : Bool) (scat : Option Bool) (s : State) (u : Nat) (a b c d : Payload),
    engineCommand i = some (w, coll, scat) → FourHeads s w u a b c d →
    let q := portQueue s coll
    0 < s.queueRoom q →
      ∃ t j, exec i s = .next t ∧ Gone s t w ∧ Ends s t (.send j) ∧ t.jobQueue q = s.jobQueue q ∧ (siteOf s t).flight = s.hereSite.flight
        ∧ j.msg = message a b c d ∧ j.core = s.loc.core ∧ j.space = s.hereSpace ∧ j.priv = s.herePriv ∧ j.tid = u ∧ j.queue = q ∧ j.scat = scat
        ∧ ((coreOf s t).thread u).irrev = true)
  ∧ (∀ (s : State) (j : Job), (s.endSend (.send j)).jobQueue j.queue = s.jobQueue j.queue ++ [j])
  ∧ (∀ (w : SlotWord) (s : State), residueFault s w = none →
    ∃ t, exec (.engq w) s = .next t ∧ Leaves s t w 4 w.ok .raw 0 0 ∧ Ends s t (.engines s.loc.site s.loc.slot 0)
      ∧ ∀ v : State, v.cycle = s.cycle → (v.core s.loc.core).site s.loc.site = siteOf s t → (w.om ≠ 0 ∨ w.dr ≠ none) →
          let x := siteOf s (v.endReport s.loc.core (.engines s.loc.site s.loc.slot 0))
          onItsWay s w (s.cycle + 4) w.ok .raw 0 (v.engines s.loc.core) ∈ x.flight ∧ x.flight.length = s.hereSite.flight.length + 1)
  ∧ (∀ (s : State) (core : Nat), Lanes 32 (s.engines core) fun k =>
      if k < 3 then 16 - ((s.jobQueue (4 * core + k)).length + s.sending (4 * core + k)) else 256 - (s.die (dieOf core)).jobs.length)

/-- R341: a SPAWN whose record breaks the rules of R330 or R331 reports BADREC, one that finds no free slot FULL, and neither makes a task;
otherwise it reports the handle of its new task, which waits while it has dependencies; and a block without privilege that names another
space or a level of 56 or more takes PRIV (0x40).

R342, R344, R346: TASKD sends its decrement to the home of its handle, SYNCA an arrival and SYNCI an initialisation to the home of
their sync id, in the order of their sending; only TASKD leaves a token, which holds zeros. The sync id 0xFFFF, which no accepted word has,
is no entry's, and an arrival there goes nowhere (the model's reading, log 143). -/
def Obligations.SpawnsAndCommands : Prop :=
  (∀ (w : SlotWord) (s : State) (u : Nat) (a b c d : Payload), FourHeads s w u a b c d →
       let r := fourHeads (src s w)
       let die := dieOf s.loc.core
       let allowed := s.herePriv = true ∨ (recSpace r = s.hereSpace ∧ recPrio r < 56)
       r = message a b c d
       ∧ (allowed → recordOk r = false →
           ∃ t, exec (.spawn w) s = .next t ∧ Leaves s t w 8 w.ok .raw 0 (ofLanes 32 [0, 2]) ∧ t.dies = s.dies ∧ ((coreOf s t).thread u).irrev = true)
       ∧ (∀ l, allowed → recordOk r = true → s.readLists (s.hereActor (recSpace r)) r = .lists l s → (∀ h ∈ l.succ, bit h 31 = false) →
           (s.freeSlot die = none → ∃ t, exec (.spawn w) s = .next t ∧ Leaves s t w 8 w.ok .raw 0 (ofLanes 32 [0, 1]) ∧ t.dies = s.dies)
           ∧ (∀ k, s.freeSlot die = some k → recDeps r ≠ 0 →
               ∃ t, exec (.spawn w) s = .next t
                 ∧ Leaves s t w 8 w.ok .raw 0 (ofLanes 32 [(s.task die k).gen * 2 ^ 27 + die * 2 ^ 12 + k, 0])
                 ∧ (t.task die k).st = .waiting ∧ (t.task die k).record = r ∧ (t.task die k).deps = recDeps r ∧ (t.task die k).succ = l.succ))
       ∧ (¬ allowed → exec (.spawn w) s = .next (slotFault s w 0x40 0)))
  ∧ (∀ (w : SlotWord) (s : State), residueFault s w = none →
       let o := src s w
       let h := lane o.a 32 0
       let k := (w.imm.extractLsb' 0 16).toNat
       let die := k / 2 ^ 14 % 4
       (∃ t, exec (.taskd w) s = .next t ∧ Leaves s t w 8 w.ok .raw 0 0
           ∧ (t.die (h / 2 ^ 12 % 4)).decq = (s.die (h / 2 ^ 12 % 4)).decq
               ++ [⟨h, lane o.b 32 0, if s.herePriv then none else some s.hereSpace, s.loc.core, o.tid⟩])
       ∧ (∃ t, exec (.synca w) s = .next t ∧ Gone s t w ∧ (siteOf s t).flight = s.hereSite.flight
           ∧ (t.die die).syncq = (s.die die).syncq ++
               if k = 0xFFFF then [] else [.arrive (k % 2 ^ 14) (some s.hereSpace) s.loc.core o.tid])
       ∧ (∃ t, exec (.synci w) s = .next t ∧ Gone s t w ∧ (siteOf s t).flight = s.hereSite.flight
           ∧ (t.die die).syncq = (s.die die).syncq ++
               [.init (k % 2 ^ 14) (lane o.c 32 0) (lane o.c 32 1) (lane o.c 32 2 % 4096) s.herePriv s.hereSpace s.loc.core o.tid]))

/-! ## Exits, safe points and handlers -/

/-- R367, R364: a SAFE whose core neither wants its threads parked nor has a TIMER for it passes its safe point: the resume point is the
block and k, the head is the resume token, the count starts again and IRREV is clear, and then the word's own effects follow. (A thread with
an empty commit area is meant; with entries that its commit cannot send at once the safe point waits, log 121.)

R320: an exit of a thread that holds no bank completes: its heads leave, and what follows is noted; one that holds a bank takes ACC_HELD
(0x24). What the exit does at the end of its firing cycle (that it comes then is the model's reading, log 138), where nothing but staged live-outs stands in the thread's commit area: the
thread's other tokens of the context are gone from every site, a result in flight among them, which goes to no link; and the staged
live-outs stand in their slots, or, at a DONE, are discarded. An EXITS asks for its gate then; one whose sync id is 0xFFFF, none, waits for no
gate (log 143). -/
def Obligations.SafePointsAndExits : Prop :=
  (∀ (w : SlotWord) (s : State) (n : Fin 4) (d : SafeDesc), residueFault s w = none →
       let u := (src s w).tid
       let k := (w.imm.extractLsb' 0 8).toNat
       w.sa = .i n → (s.here.ctx s.loc.ctx).safe k = some d → (s.here.thread u).handler = false → (s.here.thread u).area = [] →
         (s.here.wantsPark = false → s.here.takesTimer u = false →
           ∃ t, exec (.safe w) s = .next t ∧ Gone s t w
             ∧ ((coreOf s t).thread u).resume = ⟨(s.here.ctx s.loc.ctx).blk, some d.k⟩
             ∧ ((coreOf s t).thread u).token = slotOf (s.here.head s.cycle s.loc.site s.loc.ctx n.val)
             ∧ ((coreOf s t).thread u).safeAt = s.cycle ∧ ((coreOf s t).thread u).irrev = false)
         ∧ (s.here.wantsPark = true →
           ∃ t, exec (.safe w) s = .next t ∧ Stay s t ∧ ((coreOf s t).thread u).parkAt = some s.cycle
             ∧ ((coreOf s t).thread u).resume = ⟨(s.here.ctx s.loc.ctx).blk, some d.k⟩))
  ∧ (∀ (i : Instr) (w : SlotWord) (act : ExitAct) (s : State), exits i s = some (w, act) → residueFault s w = none →
       let u := (src s w).tid
       let next := exitFollows i (s.here.thread u).rstep act
       (s.here.holdsBanks u = true → exec i s = .next (slotFault s w 0x24 0))
       ∧ (s.here.holdsBanks u = false →
         ∃ t, exec i s = .next t ∧ SameMemory s t ∧ Gone s t w ∧ ((coreOf s t).thread u).exiting = some (next, s.cycle)
           ∧ Ends s t (.exit u s.loc.ctx (isDone i) (gateOf next))))
  ∧ (∀ (s : State) (core u ctx : Nat) (done : Bool) (gate : Option Nat),
       let th := (s.core core).thread u
       let t := s.endReport core (.exit u ctx done gate)
       let b := (t.core core).thread u
       th.exiting.isSome = true → (∀ e ∈ th.area, e.oper = 8) →
         SameMemory s t ∧ b.exiting = th.exiting ∧ b.area = []
         ∧ (∀ k, ∀ f ∈ ((t.core core).site k).flight, f.tid = u → f.ctx = ctx → f.om = 0)
         ∧ (∀ k d, ∀ e ∈ ((t.core core).site k).buf d, ¬ (e.tok.tid = u ∧ e.tok.ctx = ctx))
         ∧ (∀ k n, ∀ e ∈ (((t.core core).site k).ctx ctx).entryBuf n, ¬ (e.tok.tid = u ∧ e.tok.ctx = ctx))
         ∧ (done = true → b.slots = th.slots)
         ∧ (∀ e, done = false → th.handler = false → th.area = [e] → e.pwa < (s.core core).liveSlots →
             tblGet ⟨⟨0, 0⟩, .raw⟩ b.slots e.pwa = ⟨mkVal e.data, Fmt.ofCode e.scope⟩)
         ∧ (∀ k, gate = some k → b.gate = some ⟨k, 0, false⟩
             ∧ (t.die (k / 16384 % 4)).syncq = (s.die (k / 16384 % 4)).syncq ++ [.gate (k % 16384) core u]))

/-- R368, R357, R358: a TRAP with a handler registered takes its thread into it: the thread waits in the handler's vector, its record has
the code, the number and the payload of the head, and its resume point is the TRAP's safe point; a pending TIMER stays pending (the model's
reading, log 29).

R370: an ERET in a handler ends it: the thread waits again in the vector of its resume point, behind its gate where that has not opened (the
model's reading, log 64), or, as an engine's activation, is free; outside a handler it takes PRIV (0x40). -/
def Obligations.TrapAndEret : Prop :=
  (∀ (w : SlotWord) (s : State) (n : Fin 4) (d : SafeDesc) (h : BlockRef), residueFault s w = none →
       let u := (src s w).tid
       w.sa = .i n → (s.here.ctx s.loc.ctx).safe (w.imm.extractLsb' 0 8).toNat = some d → u ≠ noTid → (s.here.thread u).handler = false →
       (s.here.thread u).area = [] → s.here.wantsPark = false → s.here.handlerOf 0x33 = some h → (∀ k ∈ s.here.chunks, k.tid ≠ u) →
         ∃ t r, exec (.trap w) s = .next t ∧ SameMemory s t
           ∧ ((coreOf s t).thread u).st = .waiting ∧ ((coreOf s t).thread u).blk = h ∧ ((coreOf s t).thread u).handler = true
           ∧ ((coreOf s t).thread u).wakeAt = s.cycle + 5
           ∧ ((coreOf s t).thread u).record = some r ∧ r.code = 0x33 ∧ r.num = (w.imm.extractLsb' 8 8).toNat ∧ r.data = (src s w).a
           ∧ ((coreOf s t).thread u).resume = ⟨(s.here.ctx s.loc.ctx).blk, some d.k⟩ ∧ (coreOf s t).tmrPend = s.here.tmrPend)
  ∧ (∀ (w : SlotWord) (s : State), residueFault s w = none →
       let u := (src s w).tid
       let th := s.here.thread u
       (th.handler = true → th.area = [] → th.activation = none →
         ∃ t, exec (.eret w) s = .next t ∧ SameMemory s t
           ∧ ((coreOf s t).thread u).st = (if th.gate.isSome = true then .gated else .waiting)
           ∧ ((coreOf s t).thread u).handler = false ∧ ((coreOf s t).thread u).blk = th.resume.blk
           ∧ ((coreOf s t).thread u).resume = th.resume ∧ ((coreOf s t).thread u).wakeAt = s.cycle + 2 ∧ ((coreOf s t).thread u).record = none)
       ∧ (∀ seq, th.handler = true → th.area = [] → th.activation = some seq →
         ∃ t, exec (.eret w) s = .next t ∧ ((coreOf s t).thread u).st = .retired
           ∧ ∀ j ∈ (t.die (dieOf s.loc.core)).jobs, j.seq = seq → j.held = false)
       ∧ (th.handler = false → exec (.eret w) s = .next (slotFault s w 0x40 0)))

/-- R354, R355, R360, R376: taking a fault, once no chunk of the thread is in flight, does what the code's class says: a violation holds the
thread and freezes its space; RANGE_TRANSIT and RANGE_REVOKED hold it and freeze nothing; a handled code enters its handler, or, with
none registered, holds the thread and freezes the space; a SOFT_ERROR that need not come back is restarted, in a handler at the entry of the
handler that was entered, and any other is taken as a handled code. Any fault but that SOFT_ERROR, inside a handler, holds the thread and
freezes the space.

R372, R110: SAFE_DISTANCE while the core's threads are to park parks the thread with the fault still owed, to be delivered when it goes on; and
a RANGE_TRANSIT whose range has come to rest while the thread's chunks were in flight re-queues the thread. -/
def Obligations.TakingAFault : Prop :=
  ∀ (s : State) (core u : Nat) (r : FaultRec),
    let t := s.takeFault core u r
    let a := (s.core core).thread u
    let b := (t.core core).thread u
    let owed := r.code = 0x30 ∧ ((s.core core).preempt.isSome = true ∨ (s.core core).standsFrozen = true)
    let rested := r.code = 0x13 ∧ r.detail = 1
    let handled := ¬ owed ∧ (faultClass r.code = .handled ∨ (faultClass r.code = .restartable ∧ (r.persist = true ∨ r.irrev = true)))
    (owed → b.st = .parked ∧ b.owed = some r ∧ b.hold = (s.core core).standsFrozen ∧ b.resume = a.resume ∧ t.frozen = s.frozen)
    ∧ (faultClass r.code = .violation → b.st = .parked ∧ b.hold = true ∧ Frozen s t core r.space)
    ∧ (faultClass r.code = .parked → a.handler = false → ¬ rested →
        b.st = .parked ∧ b.hold = true ∧ b.moving = (r.code == 0x13) ∧ b.revoked = (r.code == 0x14) ∧ t.frozen = s.frozen)
    ∧ (rested → a.handler = false →
        b.st = (if a.gate.isSome = true then .gated else .waiting) ∧ b.blk = a.resume.blk ∧ b.wakeAt = s.cycle + 1 ∧ t.frozen = s.frozen)
    ∧ (faultClass r.code = .parked → a.handler = true → b.st = .parked ∧ b.hold = true ∧ Frozen s t core r.space)
    ∧ (∀ h, handled → a.handler = false → (s.core core).handlerOf r.code = some h →
        b.st = .waiting ∧ b.blk = h ∧ b.handler = true ∧ b.hblk = h ∧ b.record = some r ∧ b.wakeAt = s.cycle + 5 ∧ b.resume = a.resume
          ∧ t.frozen = s.frozen)
    ∧ (handled → a.handler = false → (s.core core).handlerOf r.code = none →
        b.st = .parked ∧ b.hold = true ∧ b.record = some r ∧ Frozen s t core r.space)
    ∧ (¬ owed → faultClass r.code = .handled → a.handler = true → b.st = .parked ∧ b.hold = true ∧ Frozen s t core r.space)
    ∧ (faultClass r.code = .restartable → r.persist = true → a.handler = true → b.st = .parked ∧ b.hold = true ∧ Frozen s t core r.space)
    ∧ (faultClass r.code = .restartable → r.persist = false → r.irrev = false → a.handler = false →
        b.st = (if a.gate.isSome = true then .gated else .waiting) ∧ b.blk = a.resume.blk ∧ b.wakeAt = s.cycle + 5 ∧ t.frozen = s.frozen)
    ∧ (faultClass r.code = .restartable → r.persist = false → a.handler = true →
        b.st = .waiting ∧ b.handler = true ∧ b.blk = a.hblk ∧ b.record = a.record ∧ b.wakeAt = s.cycle + 5 ∧ t.frozen = s.frozen)

/-! ## Ranges, registers and the system instructions -/

/-- R103 to R110, R85: a range instruction that names one space's range does what the directory allows at once, or waits its turn while an earlier
one of the space is not done or a line that it needs is not quiet; a reserved bit in SA is NOSPACE, and so are the other reports of the
search; and one that meets an uncorrectable line of the directory ends its thread with SOFT_ERROR (the model's reading, log 135).

R104 to R106, R109, R110: each of the five completes on the descriptor that it finds, or reports why not: RSPLIT writes two that cover it, the
tail of the directory moved up and the count one higher; RMERGE joins it to the one before it, the tail moved down; RDISC begins the
invalidation of its range on every core; RMOVE does so with the descriptor TRANSIT and its move noted, and RWIN with its window replaced. A
target of RMOVE outside HBM is BOUNDS, SC[63:48] included (log 130). What a written descriptor leaves in the directory's line, and a report in
the result, stands last. -/
def Obligations.RangeInstructions : Prop :=
  (∀ (i : Instr) (w : SlotWord) (kind arg : Nat) (s : State), rangeInstr i s = some (w, kind, arg) → residueFault s w = none → FreshNumber s →
       (4096 ≤ lane (src s w).a 32 0 → ∃ t, exec i s = .next t ∧ Status s t w 1 ∧ SameMemory s t)
       ∧ ∀ sp, lane (src s w).a 32 0 = sp → sp < 4096 →
           let r := rangeOp s w kind sp arg
           let th := s.here.thread (src s w).tid
           (∀ u, FirstOf s w kind sp arg → (begun s w).tryRange r = some u → exec i s = .next u)
           ∧ ((¬ FirstOf s w kind sp arg ∨ (begun s w).tryRange r = none) →
               ∃ t, exec i s = .next t ∧ PendsVar s t w ∧ t.rangeq = s.rangeq ++ [r])
           ∧ (∀ n u, FirstOf s w kind sp arg → foundRange s w sp = .status n u → exec i s = .next (u.status (opHere s) n))
           ∧ (∀ a, FirstOf s w kind sp arg → foundRange s w sp = .bad a →
               th.st = .inBlock → th.from_ ≤ s.here.nextId →
               ∃ k : FaultRec, exec i s = .next ((begun s w).raiseFault s.loc.core (src s w).tid k) ∧ k.code = 0x32 ∧ k.addr = a
                 ∧ k.persist = true ∧ k.site = s.loc.site ∧ k.slot = s.loc.slot))
  ∧ (∀ (w : SlotWord) (s u : State) (sp : Nat) (f : Found), foundRange s w sp = .found f u →
       let d := f.d
       let va := (src s w).b.toNat % 2 ^ 64
       let arg := (src s w).c.toNat % 2 ^ 64
       let die := dieOf s.loc.core
       let tid := (src s w).tid
       let reports := fun (i : Instr) (n : Nat) => exec i s = .next (u.status (opHere s) n)
       (FirstOf s w 0 sp 0 →
         ((va % 256 ≠ 0 ∨ va = d.vbase) → reports (.rsplit w) 3)
         ∧ (va % 256 = 0 → va ≠ d.vbase → d.transit = true → reports (.rsplit w) 6)
         ∧ (va % 256 = 0 → va ≠ d.vbase → d.transit = false → f.count = 65536 → reports (.rsplit w) 4)
         ∧ (∀ v, va % 256 = 0 → va ≠ d.vbase → d.transit = false → f.count ≠ 65536 → u.moveTail f (f.idx + 1) (f.idx + 2) = .ok v →
             ∃ a b : Desc, exec (.rsplit w) s = .next ((((v.writeDesc f.base f.idx a).writeDesc f.base (f.idx + 1) b).writeCount die sp
                 (f.count + 1)).status (opHere s) 0)
               ∧ (d.vbase < va → va < d.limit →
                   a.vbase = d.vbase ∧ a.limit = va ∧ b.vbase = va ∧ b.limit = d.limit ∧ a.offset = d.offset ∧ b.offset = d.offset
                     ∧ a.perm = d.perm ∧ b.perm = d.perm ∧ a.flags = d.flags ∧ b.flags = d.flags
                     ∧ (let n := (va - d.vbase) / 256
                        (a.rlo, a.rhi) = (if d.rlo < min d.rhi n then (d.rlo, min d.rhi n) else (0, 0))
                          ∧ (b.rlo, b.rhi) = (if max d.rlo n < d.rhi then (max d.rlo n - n, d.rhi - n) else (0, 0))))))
       ∧ (FirstOf s w 1 sp 0 →
         ((d.vbase ≠ va ∨ f.idx = 0) → reports (.rmerge w) 2)
         ∧ ∀ a v, d.vbase = va → f.idx ≠ 0 → u.descAt f.base (f.idx - 1) = .ok (a, v) →
             let like := a.flags = d.flags ∧ a.perm = d.perm ∧ a.offset = d.offset ∧ a.len + d.len ≤ 0xFFFFFFFF00
             ((a.wf (some sp) = false ∨ a.limit ≠ va) → exec (.rmerge w) s = .next (v.status (opHere s) 2))
             ∧ (a.wf (some sp) = true → a.limit = va → va % 256 = 0 →
                 ((a.transit = true ∨ d.transit = true) → exec (.rmerge w) s = .next (v.status (opHere s) 6))
                 ∧ (a.transit = false → d.transit = false →
                     ((¬ like ∨ joinWin a d = none) → exec (.rmerge w) s = .next (v.status (opHere s) 5))
                     ∧ ∀ win x, like → joinWin a d = some win → v.moveTail f (f.idx + 1) f.idx = .ok x →
                         let m := (a.setLimit d.limit).setWin win
                         exec (.rmerge w) s = .next (((x.writeDesc f.base (f.idx - 1) m).writeCount die sp (f.count - 1)).status (opHere s) 0)
                           ∧ m.vbase = a.vbase ∧ m.limit = d.limit ∧ m.offset = a.offset ∧ m.perm = a.perm
                           ∧ (win.1 < 2 ^ 32 → win.2 < 2 ^ 32 → m.rlo = win.1 ∧ m.rhi = win.2))))
       ∧ (FirstOf s w 2 sp 0 →
         ∃ t v, exec (.rdisc w) s = .next t ∧ Invalidates u t v s.loc.core tid sp d.vbase d.limit ∧ t.lines = u.lines
           ∧ v.next = 1 ∧ v.op = some (opHere s) ∧ v.span = (d.phys d.vbase, d.len))
       ∧ (FirstOf s w 3 sp arg →
         let inside := inHbm arg = true ∧ inHbm (arg + d.len - 1) = true ∧ (d.phys d.vbase + d.len ≤ arg ∨ arg + d.len ≤ d.phys d.vbase)
         let x := u.writeDesc f.base f.idx (d.setTransit true)
         (arg % 256 ≠ 0 → reports (.rmove w) 3)
         ∧ (arg % 256 = 0 → ¬ inside → reports (.rmove w) 7)
         ∧ (arg % 256 = 0 → inside → d.transit = true → reports (.rmove w) 6)
         ∧ (arg % 256 = 0 → inside → d.transit = false → u.quietSpan (f.base + 32 * f.idx) 32 = true →
             ∃ t v m, exec (.rmove w) s = .next t ∧ t.lines = x.lines ∧ Invalidates x t v s.loc.core tid sp d.vbase d.limit
               ∧ v.next = 2 ∧ v.op = none ∧ v.move = some (s.here.nextId, s.loc.core, s.loc.site)
               ∧ t.moves = x.moves ++ [m] ∧ m.op = opHere s ∧ m.space = sp ∧ m.vbase = d.vbase ∧ m.len = d.len ∧ m.newPa = arg
               ∧ m.oldPa = d.phys d.vbase ∧ m.phase = 0
               ∧ (d.setTransit true).transit = true ∧ (d.setTransit true).vbase = d.vbase ∧ (d.setTransit true).limit = d.limit
               ∧ (d.setTransit true).offset = d.offset ∧ (d.setTransit true).perm = d.perm))
       ∧ (FirstOf s w 4 sp arg →
         let lo := arg % 2 ^ 32
         let hi := arg / 2 ^ 32 % 2 ^ 32
         let y := d.setWin (if lo = hi then (0, 0) else (lo, hi))
         let x := u.writeDesc f.base f.idx y
         (¬ (lo ≤ hi ∧ hi ≤ d.len / 256) → reports (.rwin w) 7)
         ∧ (lo ≤ hi → hi ≤ d.len / 256 → d.transit = true → reports (.rwin w) 6)
         ∧ (lo ≤ hi → hi ≤ d.len / 256 → d.transit = false → u.quietSpan (f.base + 32 * f.idx) 32 = true →
             ∃ t v, exec (.rwin w) s = .next t ∧ t.lines = x.lines ∧ Invalidates x t v s.loc.core tid sp d.vbase d.limit
               ∧ v.next = 0 ∧ v.op = some (opHere s)
               ∧ (y.rlo, y.rhi) = (if lo = hi then (0, 0) else (lo, hi)) ∧ y.vbase = d.vbase ∧ y.limit = d.limit ∧ y.offset = d.offset
               ∧ y.perm = d.perm)))
  ∧ (∀ (s : State) (f : Found) (i j : Nat), s.quietSpan (f.base + 32 * min i j) (32 * (f.count - i + 1)) = true →
       (f.count - i = 0 → s.moveTail f i j = .ok s)
       ∧ ∀ bs v, f.count - i ≠ 0 → s.cohBytes (f.base + 32 * i) (32 * (f.count - i)) = .ok (bs, v) →
           s.moveTail f i j = .ok (v.cohWrite (f.base + 32 * j) bs))
  ∧ (∀ (s : State) (base i : Nat) (d : Desc) (bs : Bytes),
       let pa := base + 32 * i
       let l := pa / 128
       pa % 32 = 0 → (s.line l).data = some bs → bs.length = 128 → s.dirtyCore l = none → s.dirtyProxy l = none →
         ((s.writeDesc base i d).line l).data = some (putSlice bs (pa % 128) d.bytes)
           ∧ ∀ m, m ≠ l → (s.writeDesc base i d).line m = s.line m)
  ∧ (∀ (s : State) (p : PendOp) (n : Nat) (f : Flight), f ∈ ((s.core p.core).site p.site).flight → f.key = p.key → f.tok.kind ≠ .ord →
       { f with tok := { f.tok with val := mkVal (ofLanes 32 [n]) }, ready := true, due := some s.cycle }
         ∈ (((s.status p n).core p.core).site p.site).flight)

/-- R393: a SYSRD that no earlier access holds answers at once with the register's 64 bits; a SYSWR's write is put on its way in order; an
address that is misaligned or outside the windows is RANGE_NONE (0x10). TRACEW sends a record while trace and its gate are on, and says so.

R326, R327: CFGLD of a block that a context holds reports that context, once it is valid, and sets its pin; of another block it demands it and
waits: in the cycle of the demand it takes a context, which is being loaded from then on, or stands behind the demands that wait; a pin that
would leave fewer than two contexts unpinned, or a block without a context to take, is status 2, and reserved bits are
status 3; CFGINV makes every context of the core that holds the named block, one still being loaded among them (the model's reading, log 60),
stale and unpinned, and reports how many it made so. -/
def Obligations.RegistersAndContexts : Prop :=
  (∀ (w : SlotWord) (s : State), residueFault s w = none → FreshNumber s →
       let o := src s w
       let pa := o.a.toNat % 2 ^ 64
       let inWindow := (0xF00000000000 ≤ pa ∧ pa < 0xF04000000000) ∨ (0xFF0000000000 ≤ pa ∧ pa < 2 ^ 48)
       (pa % 8 = 0 → inWindow → s.sysq = [] →
         (∃ t, exec (.sysrd w) s = .next t ∧ AnsweredVar s t w w.ok (BitVec.ofNat 128 ((begunOk s w).regRead (regAt pa))) ∧ t.sysq = [] ∧ SameMemory s t)
         ∧ (∃ t, exec (.syswr w) s = .next t ∧ PendsVar s t w ∧ SameMemory s t
             ∧ t.sysq = [⟨.site s.loc.core s.loc.site s.here.nextId, pa, some (BitVec.ofNat 64 (o.b.toNat % 2 ^ 64)), false⟩]))
       ∧ (¬ (pa % 8 = 0 ∧ inWindow) → ∀ i, (i = .sysrd w ∨ i = .syswr w) →
           ∃ r : FaultRec, exec i s = .next (s.faultHere o.tid r) ∧ r.code = 0x10 ∧ r.addr = pa)
       ∧ (let ctl := (s.die (dieOf s.loc.core)).trCtl
         let on := ctl.getLsbD 0 && ctl.getLsbD 1
         ∃ t, exec (.tracew w) s = .next t ∧ Leaves s t w 2 w.ok .raw 0 (ofLanes 32 [on.toNat])
           ∧ (t.die (dieOf s.loc.core)).trq = (s.die (dieOf s.loc.core)).trq ++ if on then
               [⟨0x40 + (w.imm.extractLsb' 0 6).toNat, o.tid % 2048 + s.loc.core * 2 ^ 11,
                 [o.a.extractLsb' 0 64, o.a.extractLsb' 64 64].take (w.imm.extractLsb' 6 2).toNat⟩] else []))
  ∧ (∀ (w : SlotWord) (s : State) (p : RunPart), residueFault s w = none → FreshNumber s → s.here.part = some p →
       let a := lane (src s w).a 32 0
       let pin := lane (src s w).b 32 0
       let b : BlockRef := ⟨p.graph, a⟩
       (∀ k, a < 4096 → pin < 2 → s.here.residence b = some k →
           let may := pin = 1 → (s.here.ctx k).pinned = false → s.here.mayPin = true
         (may → (s.here.ctx k).loading = false →
           ∃ t, exec (.cfgld w) s = .next t ∧ AnsweredVar s t w .dat (ofLanes 32 [0, k]) ∧ ((coreOf s t).ctx k).pinned = decide (pin = 1))
         ∧ (may → (s.here.ctx k).loading = true →
           ∃ t, exec (.cfgld w) s = .next t ∧ PendsVar s t w ∧ ((coreOf s t).ctx k).pinned = decide (pin = 1)
             ∧ ∃ x ∈ (coreOf s t).cfgWait, x.1.key = s.here.nextId ∧ x.2 = (b, decide (pin = 1)))
         ∧ (¬ may → ∃ t, exec (.cfgld w) s = .next t ∧ Status s t w 2 ∧ (coreOf s t).ctxs = s.here.ctxs))
       ∧ (a < 4096 → pin < 2 → s.here.residence b = none →
           let may := ((begun s w).here.freeCtx s.cycle).isSome = true ∧ (pin = 1 → s.here.pinAsked b = true ∨ s.here.mayPin = true)
         (may → ∃ t, exec (.cfgld w) s = .next t ∧ PendsVar s t w
             ∧ (∃ x ∈ (coreOf s t).cfgWait, x.1.key = s.here.nextId ∧ x.2 = (b, decide (pin = 1)))
             ∧ if s.here.demands = [] then (coreOf s t).demands = [] ∧ ∃ k, (begun s w).here.freeCtx s.cycle = some k
                   ∧ let y := (coreOf s t).ctx k
                     y.blk = b ∧ y.loading = true ∧ y.reading = true ∧ y.validFrom = none ∧ y.pinned = decide (pin = 1)
               else b ∈ (coreOf s t).demands ∧ (coreOf s t).ctxs = s.here.ctxs)
         ∧ (¬ may → ∃ t, exec (.cfgld w) s = .next t ∧ Status s t w 2 ∧ (coreOf s t).demands = s.here.demands ∧ (coreOf s t).ctxs = s.here.ctxs))
       ∧ ((4096 ≤ a ∨ 2 ≤ pin) → ∃ t, exec (.cfgld w) s = .next t ∧ Status s t w 3)
       ∧ (let hit := fun k => k < 8 ∧ ((s.here.ctx k).validFrom.isSome = true ∨ (s.here.ctx k).loading = true) ∧ (s.here.ctx k).stale = false
           ∧ (s.here.ctx k).blk.graph = p.graph
           ∧ (a.testBit 16 = true ∨ (s.here.ctx k).blk.block = a % 4096)
         ∃ t, ∃ l : List Nat, exec (.cfginv w) s = .next t ∧ Leaves s t w 4 w.ok .raw 0 (ofLanes 32 [l.length])
           ∧ l.Nodup ∧ (∀ k, k ∈ l ↔ hit k)
           ∧ (∀ k, hit k → ((coreOf s t).ctx k).stale = true ∧ ((coreOf s t).ctx k).pinned = false)
           ∧ (∀ k, ¬ hit k → (coreOf s t).ctx k = s.here.ctx k)))

/-- R376, R377: FREEZE of an active space that is not frozen freezes it at its core at once and reports when the space stands still; THAW
of a frozen one takes the freeze back everywhere; the statuses of R377 otherwise.

R107, R102, R104: RINV, when no earlier range instruction of its space holds it, removes every matching entry from the tables of the cores in
its scope as it fires, and reports once what was translated through them is done; a move of the very range holds it back, and one of every
space begins at once (the model's reading, log 33). R111: RPROBE of a range in its core's table answers with
the descriptor's words, the space's number alone in a block without privilege, and otherwise asks for a walk; in such a block a space that is
not the thread's own is PRIV (0x40), and so is one that a reserved bit of SA leaves unnamed (the model's choice, log 120). -/
def Obligations.PartsOfSpaces : Prop :=
  (∀ (w : SlotWord) (s : State) (sp : Nat), NamesSpace s w sp → FreshNumber s →
       let die := dieOf s.loc.core
       let active := (begun s w).spaceActive die sp
       (active = .ok true → sp ∉ s.frozen →
         ∃ t, exec (.freeze w) s = .next t ∧ PendsVar s t w ∧ Frozen s t s.loc.core sp ∧ (opHere s, sp) ∈ t.freezeOps)
       ∧ (active = .ok true → sp ∈ s.frozen → ∃ t, exec (.freeze w) s = .next t ∧ Status s t w 2)
       ∧ (active = .ok false → ∀ i, (i = .freeze w ∨ i = .thaw w) → ∃ t, exec i s = .next t ∧ Status s t w 1)
       ∧ (active = .ok true → 4 ≤ lane (src s w).b 32 0 → ∃ t, exec (.thaw w) s = .next t ∧ Status s t w 1)
       ∧ (active = .ok true → sp ∈ s.frozen → lane (src s w).b 32 0 < 4 →
         ∃ t, exec (.thaw w) s = .next t ∧ Status s t w 0 ∧ sp ∉ t.frozen ∧ (∀ m ∈ t.freezing, m.space ≠ sp) ∧ ∀ k, sp ∉ (t.core k).frozen)
       ∧ (active = .ok true → sp ∉ s.frozen → (begun s w).hasParked sp = false → lane (src s w).b 32 0 < 4 →
         ∃ t, exec (.thaw w) s = .next t ∧ Status s t w 2))
  ∧ (∀ (w : SlotWord) (s : State), residueFault s w = none → FreshNumber s → 4096 ≤ lane (src s w).a 32 0 →
       ∀ i, (i = .freeze w ∨ i = .thaw w) → ∃ t, exec i s = .next t ∧ Status s t w 1)
  ∧ (∀ (w : SlotWord) (s : State), residueFault s w = none → FreshNumber s →
       let o := src s w
       let v := vaOf o.b
       let len := vaOf o.c
       let sp := lane o.a 32 0
       let lo := if len = 0 then 0 else v
       let hi := if len = 0 then vaEnd else v + len
       let moved := ∃ m ∈ s.moves, (rangeOp s w 7 sp len).meets m = true
       (sp < 4096 → MayBegin s sp → ¬ moved → v + len ≤ vaEnd →
         ∃ t x, exec (.rinv w) s = .next t ∧ PendsVar s t w ∧ t.invals = s.invals ++ [x] ∧ x.next = 0 ∧ x.space = some sp ∧ x.lo = lo ∧ x.hi = hi
           ∧ x.op = some (opHere s)
           ∧ ∀ k ∈ scopeCores s.loc.core (scopeOf w), ∀ e ∈ (t.core k).rtab,
               ¬ ((e.space = none ∨ e.space = some sp) ∧ e.desc.vbase < hi ∧ lo < e.desc.limit))
       ∧ (4096 ≤ sp → sp < 8192 → v + len ≤ vaEnd →
         ∃ t x, exec (.rinv w) s = .next t ∧ PendsVar s t w ∧ t.invals = s.invals ++ [x] ∧ x.next = 0 ∧ x.space = none ∧ x.lo = lo ∧ x.hi = hi
           ∧ ∀ k ∈ scopeCores s.loc.core (scopeOf w), ∀ e ∈ (t.core k).rtab, ¬ (e.desc.vbase < hi ∧ lo < e.desc.limit))
       ∧ (sp < 4096 → (¬ MayBegin s sp ∨ moved) → ∃ t q, exec (.rinv w) s = .next t ∧ PendsVar s t w ∧ t.rangeq = s.rangeq ++ [q] ∧ q.kind = 7
           ∧ q.space = sp ∧ q.va = v ∧ q.arg = len ∧ q.scope = scopeOf w ∧ t.invals = s.invals)
       ∧ (vaEnd < v + len → ((sp < 4096 ∧ MayBegin s sp ∧ ¬ moved) ∨ (4096 ≤ sp ∧ sp < 8192)) → ∃ t, exec (.rinv w) s = .next t ∧ Status s t w 7)
       ∧ (8192 ≤ sp → ∃ t, exec (.rinv w) s = .next t ∧ Status s t w 1)
       ∧ (∀ e, sp < 4096 → s.xlateOn (dieOf s.loc.core) = true → rtabFind s.here.rtab sp v = some e → (s.herePriv = true ∨ sp = s.hereSpace) →
         ∃ t, exec (.rprobe w) s = .next t ∧ SameMemory s t ∧ AnsweredVar s t w .dat
           (if lane o.c 32 0 % 2 = 0 then BitVec.ofNat 128 (e.desc.w0.toNat + e.desc.w1.toNat * 2 ^ 64)
             else BitVec.ofNat 128 ((if s.herePriv = true then e.desc.w2.toNat else sp % 256) + e.desc.w3.toNat * 2 ^ 64)))
       ∧ (sp < 4096 → s.xlateOn (dieOf s.loc.core) = true → rtabFind s.here.rtab sp v = none → (s.herePriv = true ∨ sp = s.hereSpace) →
         ∃ t, exec (.rprobe w) s = .next t ∧ PendsVar s t w ∧ ∃ k ∈ (t.die (dieOf s.loc.core)).walks, k.core = s.loc.core ∧ k.space = sp ∧ k.va = v)
       ∧ (s.herePriv = false → sp ≠ s.hereSpace → exec (.rprobe w) s = .next (slotFault s w 0x40 0)))

/-! ## Events of the fabric and the allocator -/

/-- R69, R204, R200, R233: a result that can be placed leaves its site, is the youngest token of each of its links, stands in its register
and sets its flags; a token that passes through, or that its input does not accept, leaves its buffer and is the youngest token of each
link it goes to. Nothing outside the core changes. That a token which passes to several links leaves on all of them in one cycle is the
model's choice (log 125), and so is the phase of a cycle in which each happens (log 3).

R250, R184, R259, R266: at the end of its cycle a beat joins the wide buffers it was sent to, a tile write stands in its tile, a chunk
is added to its two banks and counted, and a journal holds what its bank holds. Nothing outside the core changes. The cycle in which a
chunk completes is the model's reading (log 67). -/
def Obligations.TokensAndEffectsArrive : Prop :=
  ((∀ (s : State) (core site idx : Nat) (f : Flight),
       let c := s.core core
       (c.site site).flight[idx]? = some f → s.endPhase = true → c.placeable s.cycle site idx f = true →
         ∃ t, exec (.resultPlacement core site idx) s = .next t ∧ OnlyCore core s t
           ∧ (t.core core).fpFlag = c.fpFlag ||| f.flags
           ∧ ((t.core core).site site).flight.length + 1 = (c.site site).flight.length
           ∧ (∀ d ∈ linksOf ((c.site site).ctx f.ctx).route f.om, farCap site d ≠ 0 →
               (t.core core).farBuf site d = bufPut s.cycle (c.farBuf site d) f.tok)
           ∧ (∀ n, f.dr = some n → (((t.core core).site site).ctx f.ctx).d n.val = f.tok.val))
     ∧ (∀ (s : State) (core site dir : Nat) (k : Token) (ds : List Nat), s.endPhase = false → dir < 4 →
         (s.core core).passDue s.cycle site dir = some (k, ds) →
         ∃ t, exec (.passThrough core site dir) s = .next t ∧ OnlyCore core s t
           ∧ ((t.core core).site site).buf dir = bufTake s.cycle (((s.core core).site site).buf dir)
           ∧ ∀ d ∈ ds, (t.core core).farBuf site d = bufPut s.cycle ((s.core core).farBuf site d) k)
     ∧ (∀ (s : State) (core site dir d : Nat) (k : Token), s.endPhase = false → (s.core core).steerDue s.cycle site dir = some (k, d) →
         ∃ t, exec (.steeredToken core site dir) s = .next t ∧ OnlyCore core s t
           ∧ (dir < 4 → ((t.core core).site site).buf dir = bufTake s.cycle (((s.core core).site site).buf dir))
           ∧ (∀ x n, n < 4 → dir = 4 + 4 * x + n →
               (((t.core core).site site).ctx x).entryBuf n = bufTake s.cycle ((((s.core core).site site).ctx x).entryBuf n))
           ∧ (t.core core).farBuf site d = bufPut s.cycle ((s.core core).farBuf site d) k))
  ∧ ((∀ (s : State) (core idx : Nat) (w : WideSend), s.endPhase = true → (s.core core).wide[idx]? = some w → w.due ≤ s.cycle →
       (∀ v ∈ (s.core core).wide.take idx, v.src ≠ w.src) → w.dests.Nodup →
         ∃ t, exec (.wideBeatPlacement core idx) s = .next t ∧ OnlyCore core s t ∧ (t.core core).wide = dropAt (s.core core).wide idx
           ∧ ∀ k, (t.core core).site k = if k ∈ w.dests then { (s.core core).site k with wb := ((s.core core).site k).wb ++ [w.beat] }
               else (s.core core).site k)
     ∧ (∀ (s : State) (core idx : Nat) (w : TileWrite), s.endPhase = true → (s.core core).writes[idx]? = some w → w.due ≤ s.cycle →
       (∀ v ∈ (s.core core).writes.take idx, v.tile = w.tile → s.cycle < v.due) →
         ∃ t, exec (.tileWrite core idx) s = .next t ∧ OnlyCore core s t ∧ (t.core core).writes = dropAt (s.core core).writes idx
           ∧ (t.core core).tiles = (s.core core).tiles
           ∧ ∀ i, i < w.data.length → w.data[i]? = some (tileByte (t.core core) ((s.core core).tile w.tile) w.off i))
     ∧ (∀ (s : State) (core idx : Nat) (k : Chunk), ChunkDue s core idx k →
         ∃ t, exec (.chunkComplete core idx) s = .next t ∧ OnlyCore core s t ∧ (t.core core).chunks = dropAt (s.core core).chunks idx
           ∧ (t.core core).mtChunk = ((s.core core).mtChunk + 1) % 2 ^ 64
           ∧ (∀ b, b ≠ k.bank → b ≠ k.bank + 1 → (t.core core).bank b = (s.core core).bank b)
           ∧ ∀ b e, b < 2 → e < 512 →
               let q := (k.q.getD (512 * b + e) 0).toNat
               ((t.core core).bank (k.bank + b)).elem e = if k.zero then q else (accumulate (((s.core core).bank (k.bank + b)).elem e) q).1 % 2 ^ 32)
     ∧ (∀ (s : State) (core bank due tid : Nat), s.endPhase = true → (s.core core).copies.find? (fun p => p.1 == bank) = some (bank, due, tid) →
         due ≤ s.cycle →
         ∃ t, exec (.journalCopy core bank) s = .next t ∧ OnlyCore core s t
           ∧ (t.core core).bank bank = { (s.core core).bank bank with journal := some ((s.core core).bank bank).words }
           ∧ ∀ b, b ≠ bank → (t.core core).bank b = (s.core core).bank b))

/-- R178, R179, R181, R182, R350: once every request of the cycle has joined, the oldest request of a pool is granted; compaction starts, and
ends by moving bases only; the oldest matrix start takes CSTART from the credit; and a core that nothing can move has its victim take
ALLOC_DEADLOCK (0x22). Several pools may be compacted at once. That a compaction is counted at its start, and that its tiles move from its start
to its end, is the model's choice (log 140), and so are the cycle of a grant and what counts as outstanding (logs 105 and 106). -/
def Obligations.GrantsAndCompaction : Prop :=
  (∀ (s : State) (core pool num entry : Nat) (r : Req), s.endPhase = false → s.allAsked core = true →
    (s.core core).grantable s.cycle pool = some (r, num, entry) →
      ∃ t, exec (.allocGrant core pool) s = .next t ∧ OnlyCore core s t ∧ (t.core core).waiting = (s.core core).waiting.erase r
        ∧ (∀ site ctx slot layout, r.kind = .alloc site ctx slot layout →
            ((t.core core).tile entry).state = .filling ∧ ((t.core core).tile entry).owner = r.tid ∧ ((t.core core).tile entry).base = num
              ∧ ((t.core core).tile entry).size = r.size ∧ ((t.core core).tile entry).layout = layout
              ∧ ((t.core core).tile entry).gen = ((s.core core).tile entry).gen
              ∧ (t.core core).grants = (s.core core).grants ++ [⟨r.kind, r.tid, entry⟩])
        ∧ (∀ site ctx slot, r.kind = .acca site ctx slot →
            (∀ i, i < r.size → ((t.core core).bank (num + i)).holder = some r.tid ∧ ((t.core core).bank (num + i)).first = num
              ∧ ((t.core core).bank (num + i)).words = ((s.core core).bank (num + i)).words)
            ∧ (t.core core).grants = (s.core core).grants ++ [⟨r.kind, r.tid, num⟩]))
  ∧ (∀ (s : State) (core pool : Nat), s.endPhase = false → s.allAsked core = true → (s.core core).mayCompact s.cycle pool = true →
      let moves := compactMoves (s.pinned core) ((s.core core).pool pool).base ((s.core core).poolTiles pool)
      let n := (moves.map fun m => ((s.core core).tile m.1).size).sum
      ∃ t, exec (.compaction core pool) s = .next t ∧ OnlyCore core s t
        ∧ t.core core = { s.core core with compact := (s.core core).compact ++ [⟨pool, s.cycle + 16 + 2 * n, moves⟩]
                                           alcRuns := satAdd (s.core core).alcRuns 1 32, alcMoved := satAdd (s.core core).alcMoved n 32 })
  ∧ (∀ (s : State) (core : Nat) (k : Compaction), s.endPhase = false → (s.core core).compact.find? (fun k => decide (k.ends ≤ s.cycle)) = some k → k.pool < 15 →
      (k.moves.map (·.1)).Nodup → (∀ m ∈ k.moves, ((s.core core).tile m.1).state ≠ .empty) →
      ∃ t, exec (.compactionComplete core) s = .next t ∧ OnlyCore core s t ∧ (t.core core).compact = (s.core core).compact.erase k
        ∧ ∀ m ∈ k.moves, (t.core core).tile m.1 = { (s.core core).tile m.1 with base := m.2 })
  ∧ (∀ (s : State) (die : Nat), s.endPhase = false → s.startGrantDue die = true →
      ∃ t r, exec (.mtStartGrant die) s = .next t ∧ OnlyDie die s t ∧ r ∈ (s.die die).starts
        ∧ (∀ x ∈ (s.die die).starts, x.before r = false)
        ∧ t.die die = { s.die die with starts := (s.die die).starts.erase r, granted := (s.die die).granted ++ [r], creditAt := s.cycle
                                       credit := (s.die die).creditNow s.cycle - (s.die die).slewStart, lastGrant := some s.cycle })
  ∧ (∀ (s : State) (core u pool site slot : Nat), s.endPhase = false → (s.core core).deadlocked s.cycle = true →
      (s.core core).deadVictim = some (u, pool, site, slot) →
      exec (.allocDeadlock core) s = .next ((s.modCore core fun c => { c with alcDl := satAdd c.alcDl 1 16, idleFrom := s.cycle }).raiseFault
        core u { FaultRec.zero with
          code := 0x22, detail := pool, space := s.partSpace core, block := ((s.core core).ctx ((s.core core).thread u).ctx).blk.block
          ctx := ((s.core core).thread u).ctx, site, slot }))

/-! ## Events of the crossbar and the slices -/

/-- R114, R119 to R122: a writer that holds the channel's token sends its oldest packet, and the token goes on; at the home of its line, a
GETS of an unowned good line is answered with it and shares it, a GETX that finds neither owner nor sharer is granted it exclusively, with
the next number of the slice, and a STORE or RED of an unowned line that nobody shares is performed and acknowledged.

A GETS of an owned line asks the owner for it; a GETX, STORE or RED of a line that another owns recalls it first. A GETX of a line that others
share sends every one of them an invalidation, and waits for their acknowledgements. A STORE or RED of a shared line is performed, the next
number is its, and its acknowledgement waits for those of the sharers, each of which is sent an invalidation (log 70).

R130: a single-bit error of a slice's data is corrected and counted; an uncorrectable one is counted, and drops a clean copy or marks its burst
in a dirty one. -/
def Obligations.RequestsAtTheHome : Prop :=
  (∀ (s : State) (chan : Nat), chan < 240 →
    let k := (s.chan chan).token
    ∃ t, exec (.packetSend chan) s = .next t ∧ t.mem = s.mem ∧ (t.chan chan).token = (k + 1) % writersOf chan
      ∧ (∀ w, w ≠ k → tblGet [] (t.chan chan).fifo w = tblGet [] (s.chan chan).fifo w)
      ∧ ∀ p r, tblGet [] (s.chan chan).fifo k = p :: r → tblGet [] (t.chan chan).fifo k = r
          ∧ (chan < 128 → (t.slice chan).inbox = (s.slice chan).inbox ++ [p])
          ∧ (128 ≤ chan → (t.core p.dst).inbox = (s.core p.dst).inbox ++ [{ p with came := s.cycle }]))
  ∧ (∀ (s : State) (slice : Nat) (at_ : SliceRead) (p : Pkt) (x : Line) (bs : Bytes), s.homeReq slice at_.idx (· == .gets) = some (p, x) → FromHere slice p → GoodRead at_ →
      x.st.owns = false → x.data = some bs → x.poison = 0 →
      ∃ t r, exec (.getsPacket slice at_) s = .next t ∧ OneLine p.line s t
        ∧ t.line p.line = { x with st := .s, sharers := setSharer x.sharers (stopOf p.src) true }
        ∧ (t.slice slice).inbox = dropAt (s.slice slice).inbox at_.idx
        ∧ Replied s t slice r ∧ r.kind = .loadReply ∧ r.dst = p.src ∧ r.id = p.id ∧ r.lineData = bs)
  ∧ (∀ (s : State) (slice : Nat) (at_ : SliceRead) (p : Pkt) (x : Line) (bs : Bytes), s.homeReq slice at_.idx (· == .getx) = some (p, x) → FromHere slice p → GoodRead at_ →
      x.st.owns = false → x.data = some bs → x.poison = 0 → x.sharers = 0 →
      ∃ t r, exec (.getx slice at_) s = .next t ∧ OneLine p.line s t ∧ t.line p.line = { x with st := .e, owner := p.src }
        ∧ (t.slice slice).inbox = dropAt (s.slice slice).inbox at_.idx ∧ (t.slice slice).seq = ((s.slice slice).seq + 1) % 2 ^ 32
        ∧ Replied s t slice r ∧ r.kind = .grant ∧ r.dst = p.src ∧ r.id = p.id ∧ r.hasData = true ∧ r.lineData = bs ∧ r.tag = (t.slice slice).seq)
  ∧ (∀ (s : State) (slice : Nat) (at_ : SliceRead) (p : Pkt) (x : Line) (bs : Bytes), s.homeReq slice at_.idx (· == .store) = some (p, x) → FromHere slice p → GoodRead at_ →
      x.st.owns = false → x.data = some bs → x.sharers = 0 →
      ∃ t r, exec (.store slice at_) s = .next t ∧ OneLine p.line s t ∧ t.line p.line = { x.store p.word p.mask p.data with st := .i }
        ∧ (t.slice slice).inbox = dropAt (s.slice slice).inbox at_.idx ∧ (t.slice slice).seq = ((s.slice slice).seq + 1) % 2 ^ 32
        ∧ Replied s t slice r ∧ r.kind = .storeAck ∧ r.dst = p.src ∧ r.id = p.id ∧ r.tag = (t.slice slice).seq)
  ∧ (∀ (s : State) (slice op : Nat) (at_ : SliceRead) (p : Pkt) (x : Line) (bs : Bytes), s.homeReq slice at_.idx (· == .red op) = some (p, x) → FromHere slice p → GoodRead at_ →
      x.st.owns = false → x.data = some bs → x.sharers = 0 →
      ∃ t r, exec (.redPacket slice at_) s = .next t ∧ OneLine p.line s t ∧ t.line p.line = { (x.reduce p op).1 with st := .i }
        ∧ (t.slice slice).inbox = dropAt (s.slice slice).inbox at_.idx ∧ (t.slice slice).seq = ((s.slice slice).seq + 1) % 2 ^ 32
        ∧ Replied s t slice r ∧ r.kind = .storeAck ∧ r.dst = p.src ∧ r.id = p.id ∧ r.tag = (t.slice slice).seq)
  ∧ (∀ (s : State) (slice : Nat) (at_ : SliceRead) (p : Pkt) (x : Line), FromHere slice p → x.st.owns = true →
      let asked := fun (k : PktKind) (q : Pend) (i : Instr) => ∃ t r, exec i s = .next t ∧ OneLine p.line s t
        ∧ t.line p.line = { x with pend := some q } ∧ (t.slice slice).inbox = (s.slice slice).inbox
        ∧ Tells s t slice r ∧ r.kind = k ∧ r.line = p.line ∧ r.dst = x.owner
      ((x.owner < 384 ∧ dieOf x.owner = slice / 32) ∨ (384 ≤ x.owner ∧ x.owner - 384 < 4 ∧ x.owner - 384 ≠ slice / 32)) →
      (s.homeReq slice at_.idx (· == .gets) = some (p, x) → asked .ask { Pend.none with ask := true } (.getsPacket slice at_))
      ∧ (s.homeReq slice at_.idx (· == .getx) = some (p, x) → x.owner ≠ p.src → asked .recall { Pend.none with rcl := true } (.getx slice at_))
      ∧ (s.homeReq slice at_.idx (· == .store) = some (p, x) → asked .recall { Pend.none with rcl := true } (.store slice at_))
      ∧ (∀ op, s.homeReq slice at_.idx (· == .red op) = some (p, x) → asked .recall { Pend.none with rcl := true } (.redPacket slice at_)))
  ∧ (∀ (s : State) (slice : Nat) (at_ : SliceRead) (p : Pkt) (x : Line) (bs : Bytes), FromHere slice p → GoodRead at_ →
      x.st.owns = false → x.data = some bs → x.sharers ≠ 0 →
      let who := (sharersOf (lineDie p.line) p.line x.sharers).eraseDups
      let told := fun (t : State) => ∀ k ∈ who, ∃ r, Tells s t slice r ∧ r.kind = .inval ∧ r.line = p.line ∧ r.dst = k ∧ r.dirty = false
      let written := fun (y : Line) (i : Instr) => ∃ t a, exec i s = .next t ∧ OneLine p.line s t ∧ told t
        ∧ t.line p.line = { y with st := .i, pend := some { Pend.none with acks := who, done := some a } }
        ∧ (t.slice slice).inbox = dropAt (s.slice slice).inbox at_.idx ∧ (t.slice slice).seq = ((s.slice slice).seq + 1) % 2 ^ 32
        ∧ a.kind = .storeAck ∧ a.dst = p.src ∧ a.id = p.id ∧ a.tid = p.tid ∧ a.tag = (t.slice slice).seq
      (s.homeReq slice at_.idx (· == .getx) = some (p, x) → x.poison = 0 → ∃ t, exec (.getx slice at_) s = .next t ∧ OneLine p.line s t ∧ told t
        ∧ t.line p.line = { x with pend := some { Pend.none with acks := who } } ∧ (t.slice slice).inbox = (s.slice slice).inbox)
      ∧ (s.homeReq slice at_.idx (· == .store) = some (p, x) → written (x.store p.word p.mask p.data) (.store slice at_))
      ∧ (∀ op, s.homeReq slice at_.idx (· == .red op) = some (p, x) → written (x.reduce p op).1 (.redPacket slice at_)))
  ∧ (∀ (s : State) (n d l : Nat) (b : Fin 4), let x := s.entry d l
      x.data.isSome = true →
        s.sliceEcc n d l .corrected = s.modSlice n (fun y => { y with ce := satAdd y.ce 1 16 })
        ∧ ((s.sliceEcc n d l (.burst b)).slice n).ue = satAdd (s.slice n).ue 1 16
        ∧ (x.dirty = true → (s.sliceEcc n d l (.burst b)).entry d l = { x with poison := x.poison ||| (3#8 <<< (2 * b.val)) })
        ∧ (x.dirty = false → x.copy.owns = false → (s.sliceEcc n d l (.burst b)).entry d l = { x with data := none, poison := 0, dev := none }))
  ∧ (∀ (x : Line) (bs : Bytes) (k i : Nat) (mask : BitVec 16) (v : Payload), x.data = some bs → bs.length = 128 → k < 8 → i < 128 →
      x.poison.getLsbD k = false →
      ∃ ys, (x.store k mask v).data = some ys ∧ (x.store k mask v).dirty = true ∧ (x.store k mask v).poison = x.poison
        ∧ ys[i]? = if i / 16 = k ∧ mask.getLsbD (i % 16) = true then some (v.extractLsb' (8 * (i % 16)) 8) else bs[i]?)

/-- R119, R120, R123, R124: at the home, an owner's WB is written into the slice, which must have room for it, an EVN ends its ownership, an answer to the home leaves it
O or S, and a discarded line is absent, but for what still asks HBM for it. An acknowledgement of an invalidation takes its sharer bit away
once no other core of the bit still owes one (the model's reading, log 72), and the last one answers the write that waits. Main memory is not
touched. -/
def Obligations.OwnersAndSharers : Prop :=
  (∀ (s : State) (slice idx : Nat) (p : Pkt), OwnersTurn s slice idx p .wb → s.ownerTurn (lineDie p.line) slice idx p = true →
    (s.line p.line).data = none → s.roomAt slice = false → exec (.wb slice idx) s = .next s)
  ∧ (∀ (s : State) (slice idx : Nat) (p : Pkt), OwnersTurn s slice idx p .wb → s.ownerTurn (lineDie p.line) slice idx p = true → p.id = 0 →
    ((s.line p.line).data.isSome = true ∨ s.heldAt slice < 16384) →
    ∃ t, exec (.wb slice idx) s = .next t ∧ OneLine p.line s t ∧ (t.line p.line).data = some p.lineData ∧ (t.line p.line).dirty = true
      ∧ (t.line p.line).poison = p.poison ∧ (t.line p.line).owner = 0 ∧ (t.line p.line).st.owns = false
      ∧ (t.slice slice).inbox = dropAt (s.slice slice).inbox idx ∧ (t.slice slice).seq = ((s.slice slice).seq + 1) % 2 ^ 32)
  ∧ (∀ (s : State) (slice idx : Nat) (p : Pkt), OwnersTurn s slice idx p .evn → s.ownerTurn (lineDie p.line) slice idx p = true →
    ∃ t, exec (.evn slice idx) s = .next t ∧ OneLine p.line s t ∧ (t.line p.line).data = (s.line p.line).data
      ∧ (t.line p.line).dirty = (s.line p.line).dirty ∧ (t.line p.line).owner = 0
      ∧ (t.line p.line).sharers = (if p.keep = true then setSharer (s.line p.line).sharers (sharerBit p.line p.src) true else (s.line p.line).sharers)
      ∧ (t.line p.line).st = (if (t.line p.line).sharers = 0 then .i else .s) ∧ (t.slice slice).inbox = dropAt (s.slice slice).inbox idx)
  ∧ (∀ (s : State) (slice idx : Nat) (p : Pkt) (x : Line), s.homeReq slice idx (· == .disc) = some (p, x) → x.st.owns = false → x.sharers = 0 →
    ∃ t, exec (.disc slice idx) s = .next t ∧ OneLine p.line s t ∧ t.line p.line = { Line.absent with hbmWrite := x.hbmWrite, asked := x.asked })
  ∧ (∀ (s : State) (slice idx : Nat) (p : Pkt), OwnersTurn s slice idx p .ownerData →
    ∃ t, exec (.ownerReply slice idx) s = .next t ∧ OneLine p.line s t ∧ (t.line p.line).st = (if p.dirty = true then .o else .s)
      ∧ (t.line p.line).data = (s.line p.line).data)
  ∧ (∀ (s : State) (slice idx : Nat) (p : Pkt) (q : Pend), (s.slice slice).inbox[idx]? = some p → p.kind = .invAck → homeSlice p.line = slice →
      (s.line p.line).pend = some q → p.dirty = false →
    let x := s.line p.line
    let left := q.acks.erase p.src
    let bit := sharerBit p.line p.src
    ∃ t, exec (.invalidationAck slice idx) s = .next t ∧ OneLine p.line s t
      ∧ (left ≠ [] → t.line p.line = { x with
          pend := some { q with acks := left }
          sharers := if ∃ k ∈ left, sharerBit p.line k = bit then x.sharers else setSharer x.sharers bit false })
      ∧ (left = [] → (t.line p.line).data = x.data ∧ (t.line p.line).sharers = setSharer x.sharers bit false
          ∧ (∀ r, (t.line p.line).pend = some r → r.acks = [] ∧ r.done = none)
          ∧ ∀ a, q.done = some a → a.dst < 384 → dieOf a.dst = slice / 32 → Replied s t slice a))

/-- R119, R124, R127 to R129, R141: a packet that reaches a core: an invalidation drops its copy and is acknowledged; a recalled line goes
back, with its data when it is dirty; the line of a load is held S and given to the load, and may put another line out; an acknowledgement
goes to its entry, or, where no thread stored, to the engine job (log 134); an error is the access's, and other atomics of the core that wait
for the line ask again.

A grant makes the line the core's, with its data or, where the core owns a copy already, without, and the atomics that wait by its GETX are
performed; where none does any more, or a STORE of the core has left behind the GETX, the line is given up at once (the model's reading, log
139); a grant without data that finds no owned copy is asked for again.

R125: at the proxy of a die for a line homed elsewhere, a local GETS of a good line that the die holds is answered there, one of a line
that it does not hold goes to the home in the die's name, behind the earlier requests of its core to that die (R16, R115); and the home's
reply is the die's copy, where the slice has room for it. That a proxy acts for its die as one agent is the model's choice (log 73). -/
def Obligations.PacketsAndProxies : Prop :=
  ((∀ (s : State) (core idx : Nat) (p : Pkt), s.corePkt core idx (· == .inval) = some p →
       ((((s.core core).l1line p.line).st.owns = false ∨ p.dirty = true) →
         ∃ t r, exec (.invalidation core idx) s = .next t ∧ (t.core core).l1line p.line = ⟨.i, [], 0⟩
           ∧ (∀ l, l ≠ p.line → (t.core core).l1line l = (s.core core).l1line l) ∧ SentHome s t core r ∧ r.kind = .invAck ∧ r.line = p.line))
     ∧ (∀ (s : State) (core idx : Nat) (p : Pkt), s.corePkt core idx (fun k => k == .recall || k == .ask) = some p →
         let x := (s.core core).l1line p.line
         (p.kind = .recall →
           ∃ t, exec (.recall core idx) s = .next t ∧ (t.core core).l1line p.line = ⟨.i, [], 0⟩
             ∧ (x.st.dirty = true → ∃ r, SentHome s t core r ∧ r.kind = .wb ∧ r.line = p.line ∧ r.lineData = x.data ∧ r.poison = x.poison)
             ∧ (x.st = .e → ∃ r, SentHome s t core r ∧ r.kind = .evn ∧ r.line = p.line))
         ∧ (p.kind = .ask → x.st.owns = true →
           ∃ t r, exec (.recall core idx) s = .next t ∧ (t.core core).l1line p.line = { x with st := if x.st.dirty then .o else .s }
             ∧ SentHome s t core r ∧ r.kind = .ownerData ∧ r.line = p.line ∧ r.dirty = x.st.dirty ∧ r.lineData = x.data))
     ∧ (∀ (s : State) (core idx : Nat) (p : Pkt) (a : Access), s.corePkt core idx (· == .loadReply) = some p → (s.core core).access p.id = some a →
         ∃ t, exec (.loadReply core idx) s = .next t
           ∧ (t.core core).l1line p.line = (if ((s.core core).l1line p.line).st = .i ∧ a.noL1 = false then ⟨.s, p.lineData, 0⟩
               else (s.core core).l1line p.line)
           ∧ (∀ l, l ≠ p.line → (t.core core).l1line l = (s.core core).l1line l ∨ ((t.core core).l1line l).st = .i)
           ∧ (a.op = .pref → (t.core core).access p.id = none)
           ∧ (a.op ≠ .pref → (∀ q ∈ giveLine p.line p.lineData a.parts, q.got.isSome = true) → (t.core core).access p.id = none)
           ∧ (a.op ≠ .pref → (∃ q ∈ giveLine p.line p.lineData a.parts, q.got = none) →
               (t.core core).access p.id = some { a with parts := giveLine p.line p.lineData a.parts }))
     ∧ (∀ (s : State) (core idx : Nat) (p : Pkt), s.corePkt core idx (· == .storeAck) = some p → p.tid = noTid →
         exec (.storeAck core idx) s = .next ((s.modCore core fun c => { c with inbox := dropAt c.inbox idx }).memRecord core 0xFFFF p |>.ackJob core p.id))
     ∧ (∀ (s : State) (core id d : Nat), ∀ j ∈ ((s.ackJob core id).die d).jobs, j.core = core → ∀ w ∈ j.waits, w.1 ≠ id)
     ∧ (∀ (s : State) (core idx : Nat) (p : Pkt), s.corePkt core idx (· == .storeAck) = some p → p.tid ≠ noTid →
         ∃ u : State, exec (.storeAck core idx) s = .next (u.ackEntry core p.tid p.id) ∧ (u.core core).l1Ack = some (p.die, p.slice, p.tag)
           ∧ (u.core core).threads = (s.core core).threads ∧ (u.core core).accesses = (s.core core).accesses ∧ u.mem = s.mem)
     ∧ (∀ (u : State) (core n : Nat) (e : AreaEntry), ((u.core core).thread n).area = [e] → (∀ a ∈ (u.core core).accesses, a.tid ≠ n) →
         (((u.ackEntry core n e.id).core core).thread n).area = [])
     ∧ (∀ (s : State) (core idx : Nat) (p : Pkt), s.corePkt core idx (· == .grant) = some p →
         let x := (s.core core).l1line p.line
         let mine := (s.core core).served p.line p.id
         ((p.hasData = true ∨ x.st.owns = true) →
           ∃ u : State, (let v := mine.foldl (fun v a => v.performAtomic core a) u
               exec (.getxGrant core idx) s = .next (if mine.isEmpty || mine.any (·.old) then v.giveUp core p.line else v))
             ∧ (u.core core).l1line p.line = (if p.hasData then ⟨.e, p.lineData, 0⟩ else { x with st := .m })
             ∧ (u.core core).accesses = (s.core core).accesses ∧ (u.core core).l1Ack = some (p.die, p.slice, p.tag) ∧ u.mem = s.mem)
         ∧ (p.hasData = false → x.st.owns = false →
           ∃ u : State, exec (.getxGrant core idx) s = .next (u.askAgain core p.line p.id) ∧ (u.core core).l1 = (s.core core).l1
             ∧ (u.core core).accesses = (s.core core).accesses ∧ u.chans = s.chans ∧ u.mem = s.mem))
     ∧ (∀ (s : State) (core l getx : Nat),
         ((s.core core).served l getx = [] → s.askAgain core l getx = s)
         ∧ ∀ a r, (s.core core).served l getx = a :: r → ∃ p, SentHome s (s.askAgain core l getx) core p ∧ p.kind = .getx ∧ p.line = l ∧ p.id = a.id)
     ∧ (∀ (s : State) (core idx : Nat) (p : Pkt) (a : Access), s.corePkt core idx (· == .error) = some p → (s.core core).access p.id = some a →
         let v := s.modCore core fun c => { c with inbox := dropAt c.inbox idx }
         let u := v.modCore core fun c => (c.dropAccess a.id).modSite a.site fun x => { x with flight := x.flight.filter fun f => f.key != a.id }
         (a.op = .pref → p.keep = false → exec (.errorReply core idx) s = .next u)
         ∧ (a.op ≠ .pref → a.gone = false → a.tid ≠ noTid →
             let t := u.raiseFault core a.tid { v.recAccess core a 0x32 with persist := p.persist, addr := p.addr }
             exec (.errorReply core idx) s = .next (if p.keep then t.askAgain core p.line p.id else t))))
  ∧ (∀ (s : State) (slice : Nat) (at_ : SliceRead) (p : Pkt), (s.slice slice).inbox[at_.idx]? = some p → lineDie p.line ≠ slice / 32 →
       let q := slice / 32
       let x := s.proxy q p.line
       let before := (s.slice slice).inbox.take at_.idx
       (∀ g ∈ before, g.line ≠ p.line) →
       (∀ bs, p.kind = .gets → FromHere slice p → GoodRead at_ → x.pend = none → x.st.owns = false → x.data = some bs → x.poison = 0 →
         ∃ t r, exec (.proxyRequest slice at_) s = .next t ∧ t.mem = s.mem ∧ t.lines = s.lines
           ∧ t.proxy q p.line = { x with st := .s, sharers := setSharer x.sharers (stopOf p.src) true }
           ∧ Replied s t slice r ∧ r.kind = .loadReply ∧ r.dst = p.src ∧ r.id = p.id ∧ r.lineData = bs)
       ∧ (p.kind = .gets → FromHere slice p → x.pend = none → x.st.owns = false → x.data = none →
         (∀ g ∈ before, g.src = p.src → lineDie g.line ≠ lineDie p.line) →
         ∃ t, exec (.proxyRequest slice at_) s = .next t ∧ t.mem = s.mem ∧ t.lines = s.lines
           ∧ (t.slice (homeSlice p.line)).inbox = (s.slice (homeSlice p.line)).inbox ++ [{ p with src := 384 + q, persist := false }]
           ∧ ∃ y, (t.proxy q p.line).pend = some y ∧ y.home = true)
       ∧ (p.kind = .loadReply → 384 ≤ p.dst → s.heldAt slice < 16384 →
         ∃ t, exec (.proxyRequest slice at_) s = .next t ∧ t.mem = s.mem ∧ t.lines = s.lines
           ∧ (t.proxy q p.line).data = some p.lineData ∧ (t.proxy q p.line).dirty = false ∧ (t.proxy q p.line).copy = .s
           ∧ ∀ y, (t.proxy q p.line).pend = some y → y.home = false))

/-! ## Events of main memory -/

/-- R80 to R84, R86, R87, R132: an absent line asked of HBM, whose bursts the second read cures if the first does not, is installed clean with
what HBM holds; a line that FLUSH.sys waits for is written to HBM, and nothing else there changes; refresh, temperature and the scrubber
change the controllers' registers only, and a scrubbed burst is read again where it fails.

A line that no packet waits for is read in the same way for an access of the device itself, without a packet, and while its bank is refreshed
such a read is noted as waiting (the model's reading, log 132). When refreshes come, how long they hold a bank, and in what unit errors are
counted, are its choices (logs 77, 76 and 119). -/
def Obligations.MainMemoryEvents : Prop :=
  (∀ (s : State) (l onDie corrected i : Nat) (fail retryFail : BitVec 4) (p : Pkt) (q : Pend),
    (s.line l).pend = some q → q.hbm = true → s.pcServes l = true → s.badBursts l = 0 → retryFail &&& fail = 0 →
    findIdx (s.slice (homeSlice l)).inbox (fun p => p.line == l) = some (i, p) → s.heldAt (homeSlice l) < 16384 →
      ∃ t, exec (.hbmReadComplete l fail retryFail onDie corrected) s = .next t ∧ OneLine l s t
        ∧ (t.line l).data = some (s.hbmLine l) ∧ (t.line l).dirty = false ∧ (t.line l).poison = 0
        ∧ (∀ r, (t.line l).pend = some r → r.hbm = false) ∧ ((s.line l).hbmWrite = [] → (t.line l).asked = none)
        ∧ (t.ctrl (lineChan l)).ce = satAdd (s.ctrl (lineChan l)).ce corrected 16
        ∧ (t.ctrl (lineChan l)).dieCe = satAdd (s.ctrl (lineChan l)).dieCe onDie 16
        ∧ (t.ctrl (lineChan l)).retry = (if fail = 0 then (s.ctrl (lineChan l)).retry else satAdd (s.ctrl (lineChan l)).retry 1 16))
  ∧ (∀ (s : State) (l onDie corrected : Nat) (fail retryFail : BitVec 4),
      let x := s.line l
      x.pend = none → x.data = none → x.dev = none → inHbm (128 * l) = true → s.hbmAnswer l = .serve →
      (s.refreshing l = true → exec (.hbmReadComplete l fail retryFail onDie corrected) s = .next (s.setLine l (x.ask s.cycle)))
      ∧ (s.pcServes l = true → s.badBursts l = 0 → retryFail &&& fail = 0 → s.heldAt (homeSlice l) < 16384 →
          ∃ t, exec (.hbmReadComplete l fail retryFail onDie corrected) s = .next t ∧ OneLine l s t
            ∧ (t.line l).data = some (s.hbmLine l) ∧ (t.line l).dirty = false ∧ (t.line l).poison = 0 ∧ (t.line l).dev = some 0))
  ∧ (∀ (s : State) (l core id : Nat) (bs : Bytes), (s.line l).hbmWrite = [(core, id)] → (s.line l).data = some bs → bs.length = 128 →
      (s.line l).dirty = true → (s.line l).poison = 0 → s.pcServes l = true → s.mem.wf = true →
      ∃ t, exec (.hbmWriteComplete l) s = .next t ∧ t.line l = { s.line l with dirty := false, hbmWrite := [], asked := none }
        ∧ ∀ a, memGet t.mem a = if a / 128 = l then bs.getD (a % 128) 0 else memGet s.mem a)
  ∧ (∀ (s : State) (chan pc : Nat), ((s.ctrl chan).pc pc).init = true →
      let p := (s.ctrl chan).pc pc
      (∃ t, exec (.refreshInterval chan pc) s = .next t ∧ t = { s with ctrls := t.ctrls }
        ∧ ((t.ctrl chan).pc pc).debt = min 576 (p.debt + 64) ∧ ((t.ctrl chan).pc pc).forced = (p.forced || decide (512 ≤ p.debt)))
      ∧ (p.forced = false → p.pbUntil ≤ s.refTick → p.abUntil ≤ s.refTick → ∃ t, exec (.refpb chan pc) s = .next t ∧ t = { s with ctrls := t.ctrls }
        ∧ ((t.ctrl chan).pc pc).debt = p.debt - 1 ∧ ((t.ctrl chan).pc pc).bank = (p.bank + 1) % 64 ∧ ((t.ctrl chan).pc pc).pbUntil = s.refTick + 240)
      ∧ (p.pbUntil ≤ s.refTick → p.abUntil ≤ s.refTick → ∃ t, exec (.refab chan pc) s = .next t ∧ t = { s with ctrls := t.ctrls }
        ∧ ((t.ctrl chan).pc pc).debt = p.debt - 64 ∧ ((t.ctrl chan).pc pc).forced = (p.forced && decide (64 < p.debt))
        ∧ ((t.ctrl chan).pc pc).abUntil = s.refTick + 410))
  ∧ (∀ (s : State) (stack : Nat) (hot : Bool),
      ∃ t, exec (.temperatureChange stack hot) s = .next t ∧ t = { s with ctrls := t.ctrls }
        ∧ ∀ c, t.ctrl c = if c / 32 = stack then { s.ctrl c with hot := hot } else s.ctrl c)
  ∧ (∀ (s : State) (l : Nat) (fail : ReadFail) (corrected : Corrections), (s.ctrl (lineChan l)).scrub = true → s.pcServes l = true →
      let known := s.badBursts l
      let bad := (fail.retry &&& (fail.first ||| known)) ||| known
      ∃ t, exec (.patrolScrub l fail corrected) s = .next t ∧ t = { s with ctrls := t.ctrls, hbmBad := t.hbmBad }
        ∧ (t.ctrl (lineChan l)).ce = satAdd (s.ctrl (lineChan l)).ce corrected.ctrl 16
        ∧ (t.ctrl (lineChan l)).dieCe = satAdd (s.ctrl (lineChan l)).dieCe corrected.onDie 16
        ∧ (t.ctrl (lineChan l)).retry =
            (if fail.first ||| known ≠ 0 ∧ bad = 0 then satAdd (s.ctrl (lineChan l)).retry 1 16 else (s.ctrl (lineChan l)).retry)
        ∧ (bad = 0 → (t.ctrl (lineChan l)).ue = (s.ctrl (lineChan l)).ue)
        ∧ (bad ≠ 0 → (t.ctrl (lineChan l)).ueValid = true ∧ (t.ctrl (lineChan l)).ue = satAdd (s.ctrl (lineChan l)).ue (burstCount bad) 16))

/-! ## Walks, invalidations and moves -/

/-- R95, R102, R109, R110: a walker takes the oldest request that none has; a walk that finds a descriptor installs it in the core's range table
as the most recent entry and every request that it answers goes on, and one that finds none is RANGE_NONE (0x10) for an access; an
invalidation whose work is done reports DONE, or goes on to discard its lines or with its move; and the copy of a move switches the
descriptor and invalidates the old translation. What an invalidation waits for, and that a walk and the copy read and write a line in one step,
is the model's reading (logs 15 and 32). -/
def Obligations.WalksAndInvalidations : Prop :=
  (∀ (s : State) (die i : Nat) (w : Walk), ((s.die die).walks.filter fun w => w.active).length < 4 →
    findIdx (s.die die).walks (fun w => !w.active) = some (i, w) →
      ∃ t, exec (.rangeTableMiss die) s = .next t ∧ OnlyDie die s t ∧ (t.die die).walks = setAt (s.die die).walks i { w with active := true })
  ∧ (∀ (s u : State) (die idx at_ : Nat) (w : Walk) (sp : Option Nat) (d : Desc), (s.die die).walks[idx]? = some w → w.active = true →
      s.walk die w.space w.va = .found sp d at_ u → (∀ a ∈ w.who, ∃ site ctx slot tid wr at', a = .slot site ctx slot tid wr at') →
      (∀ v ∈ dropAt (u.die die).walks idx, v.core ≠ w.core) →
      ∃ t, exec (.walkInstall die idx) s = .next t ∧ (t.core w.core).rtab.head? = some ⟨sp, d⟩ ∧ t.mem = u.mem
        ∧ (t.die die).walks = dropAt (u.die die).walks idx ∧ (t.die die).wkCnt = ((u.die die).wkCnt + 1) % 2 ^ 64)
  ∧ (∀ (s u : State) (die idx id : Nat) (w : Walk) (a : Access), (s.die die).walks[idx]? = some w → w.active = true → w.who = [.access id] →
      s.walk die w.space w.va = .none u → (u.core w.core).access id = some a → a.op ≠ .pref →
      a.gone = false → a.tid ≠ noTid →
      ∃ v x : State, v.cores = u.cores ∧ v.mem = u.mem
        ∧ x = (v.modCore w.core fun c => (c.dropAccess a.id).modSite a.site fun y => { y with flight := y.flight.filter fun f => f.key != a.id })
        ∧ exec (.walkInstall die idx) s = .next (x.raiseFault w.core a.tid (rangeRec (v.recAccess w.core a 0x10) 0x10 w.va 0 a.op.need.writes)))
  ∧ (∀ (s : State) (idx : Nat) (v : Inval) (op : PendOp), s.invals[idx]? = some v → s.invalDone v = true → v.op = some op →
      (v.next = 0 → exec (.invalidationComplete idx) s = .next ({ s with invals := dropAt s.invals idx }.status op 0))
      ∧ (v.next = 1 → s.heldLines v.span.1 v.span.2 = [] →
          exec (.invalidationComplete idx) s = .next ({ s with invals := dropAt s.invals idx }.status op 0))
      ∧ (∀ l, v.next = 1 → s.heldLines v.span.1 v.span.2 = [l] →
          ∃ t r, exec (.invalidationComplete idx) s = .next t ∧ SentHome s t op.core r ∧ r.kind = .disc ∧ r.line = l ∧ r.id = op.key
            ∧ t.invals = dropAt s.invals idx ++ [{ v with next := 3, waitAcc := [(l, 0)], waitEnt := [] }]))
  ∧ (∀ (s : State) (idx : Nat) (v : Inval) (m : Move), s.invals[idx]? = some v → s.invalDone v = true → v.next = 2 →
      s.moveBlocked v = false →
      s.moves.find? (fun m => v.move == some (m.op.key, m.op.core, m.op.site)) = some m →
      exec (.invalidationComplete idx) s = .next (if m.phase = 0 then ({ s with invals := dropAt s.invals idx } : State).queueMove m
        else ({ s with invals := dropAt s.invals idx } : State).endMove m))
  ∧ (∀ (s u v : State) (idx i : Nat) (m : Move) (j : Job) (f : Found), s.moves[idx]? = some m →
      findIdx (s.die m.die).jobs (fun j => j.core == m.op.core && decide (m.phase = 1) && j.move == some m.copy) = some (i, j) → s.jobReady m.die i j = true →
      s.moveCopy m.oldPa m.newPa (m.lo * 256) ((m.hi - m.lo) * 256) = some (.ok u) → u.findRange m.die m.space m.vbase = .found f v →
      v.quietSpan (f.base + 32 * f.idx) 32 = true →
      ∃ t, exec (.rmoveCopyComplete idx) s = .next t ∧ (∀ x ∈ t.moves, x.op = m.op → x.phase = 2)
        ∧ (∃ w ∈ t.invals, w.next = 2 ∧ w.move = some (m.op.key, m.op.core, m.op.site) ∧ w.lo = m.vbase ∧ w.hi = m.vbase + m.len)
        ∧ ∀ k, k < 384 → ∀ e ∈ (t.core k).rtab, e.matches (some m.space) m.vbase (m.vbase + m.len) = false)

/-! ## Events of the engines -/

/-- R157 to R163, R167, R248, R301: a message at the head of its queue enters the order unit of its die, and one with a bad field faults with
ENG_BADMSG (0x41) there; a job whose turn has come moves its bytes, or faults with what its bytes met, a tile's uncorrectable error among
that; and once its bytes are moved, and what it sent is acknowledged, it completes and leaves the order unit.

R297 to R300: a collective job first reads its control block; then it arrives, or, where it differs from one that has arrived, faults with
it; an occurrence is filled with what its ranks bring, once every rank has arrived and what each brings is read; and then each job writes
what its collective gives its rank, in the order of its group's occurrences.

The model's choices in it: a job reads all of its source, a line at a time and each in one step once it is at hand, before its first STORE
leaves (log 15); when a job counts as started (log 35); which of its checks are made when, and in which order (logs 36 and 129); where a
restarted collective goes on (log 40), and when what a rank brings is read (log 41); the handler of an engine's fault takes the lowest free
thread id (log 42); and an occurrence waits for earlier ones that are posted and unread (log 136). -/
def Obligations.EngineAndCollectiveJobs : Prop :=
  ((∀ (s : State) (q : Nat) (j : Job) (r : List Job), s.jobQueue q = j :: r → (s.die (queueDie q)).jobs.length < 256 →
       let k := { j with seq := (s.die (queueDie q)).jobSeq }
       ∃ u : State, u.jobQueue q = r ∧ (u.die (queueDie q)).jobs = (s.die (queueDie q)).jobs ++ [k]
         ∧ (u.die (queueDie q)).jobSeq = (s.die (queueDie q)).jobSeq + 1 ∧ u.mem = s.mem
         ∧ exec (.engineJobAccept q) s = .next (if j.move.isSome = true ∨ messageOk j = true then u
             else u.jobFault (queueDie q) k { FaultRec.zero with code := 0x41 }))
     ∧ (∀ (i : Instr) (s : State) (die opc : Nat) (at_ : JobTurn) (next : Job → Piece) (body : State → Job → Except EngErr State) (j : Job),
         jobBody i s = some (die, at_, opc, next, body) → JobRuns s die at_ j → j.opc = opc →
         (∀ r, j.tileError at_.err = some r → exec i s = .next ((s.attach die j).jobFault die j r))
         ∧ ∀ t k e, j.tileError at_.err = none → (s.attach die j).readOn die next j j.readBound = (t, k, e) →
           (∀ u, e = none → body t k = .ok u →
             exec i s = .next ((u.modJob die j.seq fun j => { j with moved := true, got := [] }).readDone j))
           ∧ (∀ r u, e = none → body t k = .error (.fault r u) → exec i s = .next (u.jobFault die j r))
           ∧ (e = none → body t k = .error .busy → exec i s = .next t)
           ∧ (∀ r u, e = some (.fault r u) → exec i s = .next (u.jobFault die j r))
           ∧ (e = some .busy → exec i s = .next t))
     ∧ (∀ (s u : State) (die opc : Nat) (at_ : JobTurn) (remote : RemoteReply) (put : Bool) (j : Job) (b : Bytes) (e : GroupEntry) (p : Nat × Nat),
         (s.die die).jobs[at_.idx]? = some j → j.opc = opc → opc = (if put = true then 0x29 else 0x28) → j.move = none → j.target = none →
         s.jobReady die at_.idx j = true → s.readControl die j = .ok (b, e, p, u) →
         let v := u.modJob die j.seq fun j => { j with begun := true, cb := b, target := some p }
         exec (if put = true then .rput die at_ remote else .rget die at_ remote) s = .next
           (v.runJob die at_ opc (v.remotePiece put) fun s j => s.remoteBody die remote put j))
     ∧ (∀ (s : State) (die : Nat) (at_ : JobTurn) (j : Job), JobRuns s die at_ j → j.opc = 1 → j.tileError at_.err = none → j.got = [] →
         (msgRegion j.msg 0).tile = true → (msgRegion j.msg 1).tile = true →
         let n := (msgRegion j.msg 0).len
         ∃ t, exec (.linear die at_) s = .next t ∧ t = { s with cores := t.cores, dies := t.dies } ∧ regionTile t j 1 0 n = regionTile s j 0 0 n)
     ∧ (∀ (s : State) (die x : Nat) (at_ : JobTurn) (j : Job), JobRuns s die at_ j → j.tileError at_.err = none → j.got = [] →
         (msgRegion j.msg 0).tile = true → (msgRegion j.msg 1).tile = true → (msgRegion j.msg 2).tile = true →
         (msgRegion j.msg 0).len = 4 → leNat (regionTile s j 0 0 4) = x →
         let z := msgEsz j.msg
         (j.opc = 0x10 →
           (x * z + z ≤ (msgRegion j.msg 1).len →
             ∃ t, exec (.gather die at_) s = .next t ∧ regionTile t j 2 0 z = regionTile s j 1 (x * z) z)
           ∧ ((msgRegion j.msg 1).len < x * z + z → 0 < z →
             ∃ u : State, u.mem = s.mem ∧ exec (.gather die at_) s = .next (u.jobFault die j { FaultRec.zero with code := 0x41, ridx := 1 })))
         ∧ (j.opc = 0x11 →
           (x * z + z ≤ (msgRegion j.msg 2).len →
             ∃ t, exec (.scatter die at_) s = .next t ∧ regionTile t j 2 (x * z) z = regionTile s j 1 0 z)
           ∧ ((msgRegion j.msg 2).len < x * z + z → 0 < z →
             ∃ u : State, u.mem = s.mem
               ∧ exec (.scatter die at_) s = .next (u.jobFault die j { FaultRec.zero with code := 0x41, write := true, ridx := 2 }))))
     ∧ (∀ (f : Fmt) (sub : Bytes) (x t p : Nat), x < 32 → t < 32 → p < elemBits f →
         ((toPlanes f sub).getD (128 * (if p = elemBits f - 1 then 0 else p + 1) + 4 * x + t / 8) 0).toNat / 2 ^ (t % 8) % 2 = toPlaneBit f sub x t p)
     ∧ (∀ (s : State) (die idx : Nat) (j : Job), (s.die die).jobs[idx]? = some j → j.moved = true → j.waits = [] → j.move = none → j.cb = [] →
         ∃ t, exec (.engineJobComplete die idx) s = .next t ∧ t.mem = s.mem ∧ t.lines = s.lines ∧ (t.die die).jobs = dropAt (s.die die).jobs idx
           ∧ (t.core j.core).fpLate = (s.core j.core).fpLate ||| j.flags
           ∧ (j.attached = true → msgRk j.msg ≠ 1 → ((t.core j.core).tile (msgRegion j.msg 0).tileIdx).state = .empty)
           ∧ (j.attached = false → msgRk j.msg = 1 → ((s.core j.core).tile (handleIdx (msgReply j.msg))).state = .filling →
               ((t.core j.core).tile (handleIdx (msgReply j.msg))).state = .ready
                 ∧ ((t.core j.core).tile (handleIdx (msgReply j.msg))).cons = msgByte j.msg 3))
     ∧ (∀ (s : State) (core n : Nat) (a : Activation) (r : List Activation) (h : BlockRef), (s.core core).activations = a :: r →
         (s.core core).freeTid = some n → (s.core core).handlerOf a.record.code = some h →
         ∃ t, exec (.engineActivation core) s = .next t ∧ OnlyCore core s t ∧ (t.core core).activations = r
           ∧ ((t.core core).thread n).st = .waiting ∧ ((t.core core).thread n).blk = h ∧ ((t.core core).thread n).handler = true
           ∧ ((t.core core).thread n).record = some a.record ∧ ((t.core core).thread n).activation = some a.job.seq))
  ∧ ((∀ (i : Instr) (s : State) (die opc : Nat) (at_ : JobTurn) (j : Job), collectiveOf i = some (die, at_, opc) →
       (s.die die).jobs[at_.idx]? = some j → j.opc = opc → j.move = none → s.jobReady die at_.idx j = true →
         (∀ b e p u, j.cb = [] → s.readControl die j = .ok (b, e, p, u) →
           exec i s = .next (u.modJob die j.seq fun j => { j with begun := true, cb := b }))
         ∧ (∀ r u, j.cb = [] → s.readControl die j = .error (.fault r u) → exec i s = .next (u.jobFault die j r))
         ∧ (j.cb ≠ [] → j.arrived = false → s.tileChecks die j = .ok →
           (∀ r, j.tileError at_.err = some r → exec i s = .next (s.jobFault die j r))
           ∧ (j.tileError at_.err = none → s.arrivals (cbGroup j.cb) (cbSeq j.cb) = [] →
               (∀ x ∈ s.insts, ¬ (x.group = cbGroup j.cb ∧ x.seq = cbSeq j.cb)) →
               exec i s = .next (s.modJob die j.seq fun j => { j with arrived := true }))
           ∧ (j.tileError at_.err = none → (∃ x ∈ s.arrivals (cbGroup j.cb) (cbSeq j.cb), cbKey x.2.opc x.2.cb ≠ cbKey opc j.cb) →
               ∃ t, exec i s = .next t ∧ t.mem = s.mem ∧ (⟨cbGroup j.cb, cbSeq j.cb, []⟩ : Colle) ∈ t.insts))
         ∧ (j.cb ≠ [] → j.arrived = true → (∀ x ∈ s.insts, ¬ (x.group = cbGroup j.cb ∧ x.seq = cbSeq j.cb)) →
           ∀ t k e, s.readOn die Job.collectPiece j j.readBound = (t, k, e) →
             (∀ r u, e = some (.fault r u) → exec i s = .next (u.jobFault die j r))
             ∧ ((e = none ∨ e = some .busy) → exec i s = .next (t.readDone j)))
         ∧ (∀ x, j.cb ≠ [] → j.arrived = true → s.insts.find? (fun x => x.group == cbGroup j.cb && x.seq == cbSeq j.cb) = some x →
           s.earlierSeq die j = false →
           let r := collectResult opc (cbRank j.cb) (cbType j.cb) (cbRop j.cb) (cbRoot j.cb) (cbCount j.cb * typeBytes (cbType j.cb))
             (x.ranks.map (·.data))
           (x.ranks = [] → exec i s = .next (s.jobFault die j { FaultRec.zero with code := 0x41 }))
           ∧ (x.ranks ≠ [] → r.1 = none → exec i s = .next (s.modJob die j.seq fun j => { j with moved := true, flags := r.2, got := [] }))
           ∧ (∀ bs u, x.ranks ≠ [] → r.1 = some bs → s.regPut j 2 0 bs = .ok u →
             exec i s = .next (u.modJob die j.seq fun j => { j with moved := true, flags := r.2, got := [] }))))
     ∧ (∀ (s u v : State) (group seq die : Nat) (j : Job) (l : List (Nat × Job)) (g : GroupEntry) (ranks : List RankData),
         s.arrivals group seq = (die, j) :: l → (∀ x ∈ s.insts, ¬ (x.group = group ∧ x.seq = seq)) →
         (∀ x ∈ (die, j) :: l, x.2.held = false ∧ s.jobFrozen x.2 = false) →
         (∀ x ∈ l, cbKey x.2.opc x.2.cb = cbKey j.opc j.cb) → s.readGroup die group = .got g u →
         u.gatherRanks g ((die, j) :: l) [] ((if j.opc = 0x24 then g.n else 1) * (cbCount j.cb * typeBytes (cbType j.cb))) (List.range g.n) []
           = .got ranks v →
         exec (.collectiveInstanceFill group seq []) s = .next { v with insts := v.insts ++ [⟨group, seq, ranks⟩] })
     ∧ (∀ (rank t rop root len : Nat) (data : List Bytes) (a b : Bytes), data = [a, b] → t < 2 → rop = 0 → a.length = 4 → b.length = 4 →
         (collectResult 0x20 rank t rop root len data).1 = some (leBytes ((leNat a + leNat b) % 2 ^ 32) 4)
           ∧ (collectResult 0x21 rank t rop root len data).1 = (if rank = root then some (leBytes ((leNat a + leNat b) % 2 ^ 32) 4) else none)
           ∧ (collectResult 0x22 rank t rop root len data).1 = data[root]? ∧ (collectResult 0x23 rank t rop root len data).1 = some (a ++ b)))

/-! ## Events of the registers -/

/-- R393, R401, R404, R407 to R412: the write whose turn has come is performed and answered; a PHY command runs, and at its end publishes its
results and applies the codes and the map; PHREP keeps its lowest set bit; a pseudo-channel that becomes initialised holds zeros; and BOOT
and SERVICE take effect only as their registers allow.

The model's choices in it: what the PHY measures comes with the event (log 9); a command holds both pseudo-channels of a channel on whose
slices commands run, until the last of them completes (logs 90 and 145). -/
def Obligations.RegisterEvents : Prop :=
  (∀ (s : State) (idx v : Nat) (w : SysWrite), s.sysWrite idx = some (w, v, .plain) →
    let u := s.regWrite (regAt w.addr) v
    exec (.registerWrite idx) s = .next
      ((if (regAt w.addr).isCounter then { u with rewrites := u.rewrites ++ [(w.addr, .ofNat 64 v)] } else u).sysDone idx w))
  ∧ (∀ (s : State) (w : SysWrite), s.sysq = [w] →
      (s.sysDone 0 w).sysq = [] ∧ (s.sysDone 0 w).mem = s.mem ∧ (∀ n, w.who = .session n → (s.sysDone 0 w).modl.sent = s.modl.sent ++ [(Message.mk n 0x33 0 []).bytes]))
  ∧ (∀ (i : Instr) (s : State) (idx c n v : Nat) (w : SysWrite), phyCommand i = some (idx, c) → s.sysWrite idx = some (w, v, .command n c) →
      (s.phy n).busy = none →
      ∃ t, exec i s = .next t ∧ t = { s with phys := t.phys, sysq := setAt s.sysq idx { w with started := true } }
        ∧ t.phy n = { s.phy n with busy := some c, held := true } ∧ ∀ m, m ≠ n → t.phy m = s.phy m)
  ∧ (∀ (s : State) (n c errs : Nat) (eyes : List (BitVec 16)), (s.phy n).busy = some c →
      ((s.ctrl (n / 18)).pc (n % 18 / 9)).forced = false →
      ∃ t, exec (.phyCommandComplete n eyes errs) s = .next t ∧ (t.phy n).busy = none ∧ (t.phy n).useR = (s.phy n).rdly
        ∧ (t.phy n).useW = (s.phy n).wdly ∧ (t.phy n).useRep = (s.phy n).rep
        ∧ (∀ m, m ≠ n → t.phy m = { s.phy m with held := (t.phy m).held }) ∧ (∀ m, m / 18 ≠ n / 18 → t.phy m = s.phy m)
        ∧ ((∀ k, k ≠ n → k / 18 = n / 18 → (s.phy k).busy = none) → ∀ pc, t.phyHeld (n / 18) pc = false)
        ∧ ((∃ k, k ≠ n ∧ k / 18 = n / 18 ∧ (s.phy k).busy.isSome = true) → ∀ m, (t.phy m).held = (s.phy m).held)
        ∧ (c = 3 → (t.phy n).pat = min errs (2 ^ 32 - 1) ∧ (t.phy n).eye = (s.phy n).eye)
        ∧ (c = 1 → (t.phy n).pat = (s.phy n).pat ∧ (t.phy n).spare = eyes.getD 4 0
            ∧ ∀ k, k < 4 → (t.phy n).eye.extractLsb' (16 * k) 16 = eyes.getD k 0))
  ∧ (∀ (s : State) (idx n v : Nat) (w : SysWrite), s.sysWrite idx = some (w, v, .repair n) →
      ∃ t, exec (.phrepWrite idx) s = .next t ∧ t.mem = s.mem ∧ (∀ m, m ≠ n → t.phy m = s.phy m)
        ∧ ∀ j, j < 64 → (t.phy n).rep.getLsbD j = (decide (j % 16 = 0) && bit v j && (List.range (j / 16)).all fun i => !bit v (16 * i)))
  ∧ (∀ (s : State) (idx n v : Nat) (w : SysWrite), s.sysWrite idx = some (w, v, .trained n) →
      ∃ t, exec (.trainedWrite idx) s = .next t ∧ t.mem = s.mem ∧ t.phy n = { s.phy n with trained := bit v 0 } ∧ ∀ m, m ≠ n → t.phy m = s.phy m)
  ∧ (∀ (s : State) (chan pc : Nat), pc < 2 → chan < 384 → ((s.ctrl chan).pc pc).init = false → s.trained chan pc = true →
      s.phyHeld chan pc = false → s.mem.wf = true →
      ∃ t, exec (.pcInitComplete chan pc) s = .next t ∧ t = { s with ctrls := t.ctrls, mem := t.mem, hbmBad := t.hbmBad }
        ∧ ((t.ctrl chan).pc pc).init = true ∧ ((t.ctrl chan).pc pc).debt = 0
        ∧ ∀ a, memGet t.mem a = if lineChan (a / 128) = chan ∧ linePc (a / 128) = pc then 0 else memGet s.mem a)
  ∧ (∀ (s : State) (idx d v : Nat) (w : SysWrite), s.sysWrite idx = some (w, v, .boot d) →
      ∃ t, exec (.dcbootClear idx) s = .next t ∧ t.mem = s.mem ∧ (t.die d).boot = ((s.die d).boot && (bit v 0 || !s.dieInit d)))
  ∧ (∀ (s : State) (idx d v : Nat) (w : SysWrite), s.sysWrite idx = some (w, v, .service d) →
      (∀ p, (s.core (96 * d + (s.die d).svcCore)).part = some p → p.priv = false) →
      ∃ t, exec (.serviceCoreRelease idx) s = .next t ∧ t.mem = s.mem ∧ (t.die d).svcRel = ((s.die d).svcRel || bit v 7)
        ∧ (t.die d).svcRelAt = (if bit v 7 = true ∧ (s.die d).svcRel = false then s.cycle else (s.die d).svcRelAt))

/-! ## Events of blocks and threads -/

/-- R307, R308, R312, R315, R316, R326: a demand that waits takes a context once one is free; an image whose first line comes and that validates
begins to load, one that does not leaves its refusal; its context is valid from the cycle after its validation on, which ends no earlier
than four cycles after the last byte has come at 512 bytes a cycle, and as the youngest; a stale context that no token is tagged with is
given up; the selector makes the highest-ranked block active; the block that the cycle before found to prefetch is demanded; and the active
block's vector comes into the cache of 64, from the vector area, which is first brought up to its bits.

The model's choices in it: a vector's bits follow from the threads, and the area is written and read when its lines are quiet (log 47); when
an unused block counts as last active (log 57); what an image with PRIV meets (log 59); which change of the waiters calls for a choice (log
61), and which waiters the choice looks at (log 122). -/
def Obligations.BlocksAndChoices : Prop :=
  (∀ (s : State) (core k : Nat) (b : BlockRef) (r : List BlockRef), (s.core core).demands = b :: r → (s.core core).freeCtx s.cycle = some k →
      ∃ t, exec (.blockDemand core b.graph b.block) s = .next t ∧ OnlyCore core s t ∧ ((t.core core).ctx k).blk = b
        ∧ ((t.core core).ctx k).loading = true ∧ ((t.core core).ctx k).reading = true ∧ ((t.core core).ctx k).validFrom = none
        ∧ ((t.core core).ctx k).lastAct = s.cycle ∧ (∀ d, d ∈ (t.core core).demands ↔ d ∈ r ∧ d ≠ b)
        ∧ ∀ j, j ≠ k → (t.core core).ctx j = (s.core core).ctx j)
  ∧ (∀ (s u : State) (core k : Nat) (b : BlockRef) (bs : Bytes), (s.core core).demands.contains b = false →
      ((List.range 8).find? fun k => ((s.core core).ctx k).reading && ((s.core core).ctx k).blk == b) = some k → tblHas s.graphs b.graph = true →
      s.imageBytes (s.graph b.graph).dir b.block = .got bs u → bit (imgNum bs 9 1) 0 = false →
      ∃ t, exec (.blockDemand core b.graph b.block) s = .next t ∧ t.mem = u.mem ∧ ((t.core core).ctx k).reading = false
        ∧ ((t.core core).ctx k).loading = ((u.core core).ctx k).loading ∧ ((t.core core).ctx k).blk = ((u.core core).ctx k).blk
        ∧ ((t.core core).ctx k).validFrom = ((u.core core).ctx k).validFrom
        ∧ ((t.core core).ctx k).loadEnd = u.cycle + (bs.length + 511) / 512 - 1 + 4
        ∧ (∀ m, validate bs b.graph b.block = .ok m → ((t.core core).ctx k).ii = m.ii ∧ ((t.core core).ctx k).maxsafe = m.maxsafe
            ∧ ((t.core core).ctx k).commit = m.commit ∧ ((t.core core).ctx k).routes = m.entries
            ∧ ((t.core core).ctx k).refusal = ((u.core core).ctx k).refusal)
        ∧ ∀ r, validate bs b.graph b.block = .error r → ((t.core core).ctx k).refusal = some (r.code, r.site, r.slot))
  ∧ (∀ (s : State) (core k : Nat), ((s.core core).ctx k).loading = true → ((s.core core).ctx k).reading = false →
      ((s.core core).ctx k).refusal = none → ((s.core core).ctx k).loadEnd ≤ s.cycle →
      ∃ t, exec (.blockValidationComplete core k) s = .next t ∧ t.mem = s.mem ∧ ((t.core core).ctx k).loading = false
        ∧ ((t.core core).ctx k).validFrom = some (s.cycle + 1) ∧ ((t.core core).ctx k).stamp = (s.core core).stamps + 1
        ∧ ((t.core core).ctx k).fresh = true ∧ ∀ j, j ≠ k → (t.core core).ctx j = (s.core core).ctx j)
  ∧ (∀ (s : State) (core k : Nat), ((s.core core).ctx k).stale = true → ((s.core core).ctx k).loading = false →
      ((s.core core).ctx k).validFrom.isSome = true → (s.core core).ctxBusy s.cycle k = false →
      ∃ t, exec (.staleContextRetire core k) s = .next t ∧ OnlyCore core s t ∧ (t.core core).ctx k = Ctx.empty
        ∧ ∀ j, j ≠ k → (t.core core).ctx j = (s.core core).ctx j)
  ∧ (∀ (s : State) (core : Nat) (b : BlockRef), (s.core core).top s.cycle = some b →
      ((s.core core).choiceDue s.cycle = true → ∃ t, exec (.selectorChoice core) s = .next t ∧ Chosen s t core b)
      ∧ ((s.core core).quantumOver s.cycle = true → (s.core core).choiceDue s.cycle = false →
          ∃ t, exec (.selectorQuantumExpiry core) s = .next t ∧ Chosen s t core b))
  ∧ (∀ (s : State) (core k : Nat), s.cycle < ((s.core core).ctx k).loadEnd → exec (.blockValidationComplete core k) s = .next s)
  ∧ (∀ (s : State) (core k : Nat) (b : BlockRef), (s.core core).preFound = some b → (s.core core).selecting = true → (s.core core).prefetch = none →
      (s.core core).demands = [] → (s.core core).freeCtx s.cycle = some k → (s.core core).residence b = none →
      ∃ t, exec (.prefetchDemand core) s = .next t ∧ OnlyCore core s t ∧ (t.core core).prefetch = some b ∧ (t.core core).preFound = none
        ∧ ((t.core core).ctx k).blk = b ∧ ((t.core core).ctx k).loading = true ∧ (t.core core).demands = []
        ∧ (t.core core).selLoads = satAdd (s.core core).selLoads 1 32)
  ∧ (∀ (s : State) (core : Nat) (b : BlockRef), (s.core core).active = some b → (s.core core).cached.contains b = false →
      (∀ bs u, (s.core core).lags b = false → s.devRead ((s.core core).vectorAt b) 256 = .got bs u →
        exec (.vectorFetch core) s = .next (u.modCore core fun c => { c with cached := b :: c.cached.take 63 }))
      ∧ ((s.core core).lags b = true → spanInHbm ((s.core core).vectorAt b) 256 = true → s.quietSpan ((s.core core).vectorAt b) 256 = true →
        ∃ t, exec (.vectorFetch core) s = .next t ∧ t.lines = (s.cohWrite ((s.core core).vectorAt b) ((s.core core).vectorBytes b)).lines
          ∧ ((t.core core).vec b).mem = (s.core core).vectorBits b))

/-- R313, R314, R318, R366: the next waiter of the active block enters it when its context has room and its commit area is granted: a token
stands at each entry, the next injection is II cycles away, and its resume point is the block's entry; a thread that resumes runs its
stub first, and then enters at its safe point, whose token it finds there.

R138: before that, the commit area of the waiter that comes next is asked for.

R366: a thread that resumes at a safe point with a descriptor runs its stub first, if it has one, and then enters a context loaded afresh at
the safe point, where its token stands.

The model's choices in it: the order of a resumption's steps within one step (log 65), where its token stands (log 78), and which waiters count
as injectable (log 122). -/
def Obligations.ThreadsStart : Prop :=
  (∀ (s : State) (core n j : Nat), (s.core core).areaWanted s.cycle = some (n, j) →
       exec (.threadInjection core) s = .next (s.setCore core ((s.core core).join
         { kind := .commit, tid := n, pool := 15, size := ((s.core core).ctx j).commit, at_ := s.cycle })))
  ∧ (∀ (s : State) (core k n : Nat) (b : BlockRef), (s.core core).injectDue s.cycle = some (b, k, n) →
       let c := s.core core
       let x := c.ctx k
       (c.thread n |>.rstep) = .none ∧ (x.commit = 0 ∨ (c.thread n).commitHeld = true) ∧ c.entryRoom s.cycle k x.entries = true
           ∧ c.badSlot n x.entries = none →
         (∃ t, exec (.threadInjection core) s = .next t ∧ ((t.core core).thread n).st = .inBlock ∧ ((t.core core).thread n).ctx = k
           ∧ (t.core core).injectAt = s.cycle + x.ii ∧ (t.core core).lastInj = s.cycle + 1 ∧ ((t.core core).thread n).safeAt = s.cycle
           ∧ ((c.thread n).handler = false → ((t.core core).thread n).resume = ⟨b, none⟩)
           ∧ ((x.entries.map fun e => (e.site, e.ch)).Nodup → ∀ e ∈ x.entries,
               (((t.core core).site e.site).ctx k).entryBuf e.ch = bufPut s.cycle (((c.site e.site).ctx k).entryBuf e.ch) (c.entryToken k n e))))
  ∧ (∀ (s : State) (core k n : Nat) (b : BlockRef) (d : SafeDesc), (s.core core).injectDue s.cycle = some (b, k, n) →
       ((s.core core).thread n).resume.k.bind ((s.core core).ctx k).safe = some d →
       let c := s.core core
       (∀ m j, (c.thread n).rstep = .stub → d.stub = some m → c.resident s.cycle ⟨b.graph, m⟩ = some j → c.needsArea j n = false →
           c.entryRoom s.cycle j (c.ctx j).entries = true → c.badSlot n (c.ctx j).entries = none →
         ∃ t, exec (.resumeInjection core n) s = .next t ∧ ((t.core core).thread n).st = .inBlock ∧ ((t.core core).thread n).ctx = j
           ∧ ((t.core core).thread n).stubOut = (c.ctx j).liveout ∧ ((t.core core).thread n).safeAt = s.cycle)
       ∧ (let es := (c.ctx k).entries.filter fun e => e.kind == 0 && (d.lvmask ||| (c.thread n).stubOut).getLsbD e.slot
         ((c.thread n).rstep = .main ∨ ((c.thread n).rstep = .stub ∧ d.stub = none)) → (c.ctx k).fresh = true → c.needsArea k n = false →
           c.entryRoom s.cycle k es = true → c.badSlot n es = none →
         ∃ t, exec (.resumeInjection core n) s = .next t ∧ ((t.core core).thread n).st = .inBlock ∧ ((t.core core).thread n).ctx = k
           ∧ ((t.core core).thread n).rstep = .none ∧ ((t.core core).thread n).stubOut = 0
           ∧ ((((t.core core).site d.site).ctx k).entryBuf d.rin).getLast? = some
               ⟨{ val := (c.thread n).token.val, kind := .dat, tag := (c.thread n).token.tag, ctx := k, tid := n }, s.cycle + 1, none⟩))

/-- R180, R320, R321, R365, R369, R372, R376: an exit that completes retires the thread, or has it wait at its successor, gated while its gate is
closed; a fault that waited for the thread's chunks is taken; a soft error of stored
data is SOFT_ERROR (0x32), unless it is in a clean line of the L1, whose copy is dropped, or of a line that the L1 does not hold, where it is
the error of the data that the slices hold (R130); a thread too far from its last safe point
takes SAFE_DISTANCE (0x30); the timer sets its pending bit; a freeze reaches a core; a thread held at a SAFE or TRAP parks; and so does
one that the selector parks at an ALLOC, whose request stays in the list (log 43).

The model's choices in it, beside log 43: what a thread that waits does while its space is frozen (log 62); in which cycle SAFE_DISTANCE is
taken (log 63); a pending TIMER at an exit, and a thread whose gate is closed (logs 64 and 113); the start of the timer's count (log 87); the
persistent bit of a soft error (log 123). -/
def Obligations.ThreadsLeave : Prop :=
  (∀ (s : State) (core n : Nat), ExitDue s core n .done →
    ∃ t, exec (.exitComplete core n) s = .next t ∧ OnlyCore core s t ∧ ((t.core core).thread n).st = .retired)
  ∧ (∀ (s : State) (core n : Nat), ExitDue s core n .stubEnd →
    ∃ t, exec (.exitComplete core n) s = .next t ∧ OnlyCore core s t ∧ ((t.core core).thread n).st = .waiting
      ∧ ((t.core core).thread n).blk = ((s.core core).thread n).resume.blk ∧ ((t.core core).thread n).rstep = .main)
  ∧ (∀ (s : State) (core n e : Nat), (ExitDue s core n (.next e) ∨ ∃ y p, ExitDue s core n (.gated e y p)) → (s.core core).takesTimer n = false →
    ∃ t, exec (.exitComplete core n) s = .next t ∧ OnlyCore core s t
      ∧ ((t.core core).thread n).st = (if ((s.core core).thread n).gate.isSome = true ∧ ((s.core core).thread n).handler = false then .gated else .waiting)
      ∧ ((t.core core).thread n).blk = ⟨((s.core core).thread n).blk.graph, e⟩ ∧ ((t.core core).thread n).wakeAt = s.cycle + 1
      ∧ ((t.core core).thread n).exiting = none ∧ ((t.core core).thread n).commitHeld = false
      ∧ (((s.core core).thread n).handler = false → ((t.core core).thread n).resume = ⟨⟨((s.core core).thread n).blk.graph, e⟩, none⟩))
  ∧ (∀ (s : State) (core n : Nat) (r : FaultRec), ((s.core core).thread n).pending = some r → (∀ k ∈ (s.core core).chunks, k.tid ≠ n) →
    exec (.threadFault core n none) s = .next (s.takeFault core n r))
  ∧ (∀ (s : State) (core n : Nat) (e : SoftErr),
    let l := e.addr / 128
    let x := (s.core core).l1line l
    ((e.storage ≠ 0 ∨ (x.st ≠ .i ∧ x.st.dirty = true)) → ((s.core core).thread n).st = .inBlock → ((s.core core).thread n).exiting = none →
      ∃ u : State, u = { s with cores := u.cores } ∧ (u.core core).threads = (s.core core).threads
        ∧ exec (.threadFault core n (some e)) s = .next (u.raiseFault core n { threadRec s core n 0x32 with
            persist := softPersists e, addr := e.addr, detail := e.storage % 16 * 2 ^ 60 + e.low % 65536, site := e.site, slot := e.slot }))
    ∧ (e.storage = 0 → x.st ≠ .i → x.st.dirty = false → exec (.threadFault core n (some e)) s = .next (s.giveUp core l))
    ∧ (∀ d, e.storage = 0 → x.st = .i → d = (if (s.proxy (dieOf core) l).data.isSome = true then dieOf core else lineDie l) →
        (e.low = 0 → exec (.threadFault core n (some e)) s = .next (s.sliceEcc (sliceAt d l) d l .corrected))
        ∧ ∀ k : Fin 4, e.low ≠ 0 → k.val = e.addr % 128 / 32 → exec (.threadFault core n (some e)) s = .next (s.sliceEcc (sliceAt d l) d l (.burst k))))
  ∧ (∀ (s : State) (core n : Nat), (s.core core).safeOver s.cycle n = true →
    exec (.safeDistance core n) s = .next (s.raiseFault core n
      { threadRec s core n 0x30 with detail := s.cycle - 1 - ((s.core core).thread n).safeAt }))
  ∧ (∀ (s : State) (core : Nat), (s.core core).timerDue s.cycle = true →
    ∃ t, exec (.timerExpiry core) s = .next t ∧ OnlyCore core s t ∧ t.core core = { s.core core with tmrPend := true, tmrFrom := s.cycle })
  ∧ (∀ (s : State) (core space : Nat), s.freezing.contains ⟨core, space⟩ = true →
    ∃ t, exec (.freezePropagation core space) s = .next t ∧ (t.core core).frozen.contains space = true ∧ t.freezing = s.freezing.erase ⟨core, space⟩
      ∧ ∀ j, j ≠ core → t.core j = s.core j)
  ∧ (∀ (s : State) (core n : Nat), ((s.core core).thread n).st = .inBlock → ((s.core core).thread n).exiting = none → (s.core core).midPass n = false →
    (((s.core core).thread n).parkAt.isSome = true → (s.core core).wantsPark = true → (s.core core).tokensOf n ≤ 1 →
      ∃ t, exec (.threadPark core n) s = .next t ∧ ((t.core core).thread n).st = .parked ∧ ((t.core core).thread n).parkAt = none
        ∧ ((t.core core).thread n).resume = ((s.core core).thread n).resume ∧ t.mem = s.mem)
    ∧ (∀ site m, ((s.core core).thread n).parkAt = none → (s.core core).wantsPark = false → (s.core core).waitsAtAlloc n = some (site, m) →
        (s.core core).tokensOf n ≤ m →
      ∃ t, exec (.threadPark core n) s = .next t ∧ ((t.core core).thread n).st = .parked ∧ (t.core core).waiting = (s.core core).waiting
        ∧ t.mem = s.mem))

/-! ## Events of tasks, pre-emption and sync entries -/

/-- R336: a task's die is the die of the core that its hint names, else the die that it names, else the lowest of the dies of the highest score, a
score being the bytes that the footprint's entries share with the map's entries of that die; where every score is 0 it is the die that
`here` names, the admitting die of a launch or the spawning die. -/
def Obligations.TheDieOfATask : Prop :=
  ∀ (r : Bytes) (foot : List (Nat × Nat)) (map : List MapEntry) (here : Nat),
    let within := fun (m : MapEntry) (x : Nat) => decide (m.vbase ≤ x) && decide (x < m.vbase + m.len)
    let pts := fun (d : Nat) => (foot.map fun f => ((map.filter fun m => m.die == d).map fun m =>
      ((List.range f.2).filter fun k => within m (f.1 + k)).length).sum).sum
    (∀ c, hintCore r = some c → placeTask r foot map here = c / 96)
    ∧ (∀ d, hintCore r = none → hintDie r = some d → placeTask r foot map here = d)
    ∧ (hintCore r = none → hintDie r = none → (∀ d, d < 4 → pts d = 0) → placeTask r foot map here = here)
    ∧ (hintCore r = none → hintDie r = none → (∃ d, d < 4 ∧ pts d ≠ 0) →
        let b := placeTask r foot map here
        b < 4 ∧ (∀ d, d < 4 → pts d ≤ pts b) ∧ ∀ d, d < b → pts d < pts b)

/-- R333, R338, R339, R342, R371, R372, R374: a decrement lowers its task's DEPS, and is counted and ignored when its handle is stale or it is too
great; a completed task tells its successors and frees its slot with the next generation; the head of the highest level that can start does;
a pre-emption begins at the end of its cycle; and a pre-empted part is saved, goes to the front of its level, and is restored when it is
dispatched again.

R310, R337, R338, R414: a part that is dispatched starts with its threads WAITING at its task's entry, each with the slots that its argument
bytes give it, and its pools laid out; the message of an engine's task is its job's, and a read that fails freezes the space and leaves the
element at the front of its level. R374: what a restore puts back of a thread's record, of a tile, of a bank and of a gate.

The model's choices in it: when a part ends (log 46); the order of what a resumption does (log 65); what a save image has no place for, which
the ready element keeps, and the order of its vectors (log 80); which of the two events starts a saved element (log 83). -/
def Obligations.TasksAndParts : Prop :=
  (∀ (s : State) (die idx : Nat) (x : Decrement), (s.die die).decq[idx]? = some x →
    (∀ y ∈ (s.die die).decq.take idx, keepsPlace die y.core x.core = false) →
    (∀ slot a, s.findTask die x.task = some (slot, a) → x.n ≤ a.deps → (∀ sp, x.space = some sp → sp = recSpace a.record) →
        (a.st ≠ .waiting ∨ x.n < a.deps) →
      ∃ t, exec (.taskDecrement die idx) s = .next t ∧ OnlyDie die s t ∧ (t.die die).decq = dropAt (s.die die).decq idx
        ∧ t.task die slot = { a with deps := a.deps - x.n })
    ∧ ((s.findTask die x.task = none ∨ ∃ slot a, s.findTask die x.task = some (slot, a) ∧ a.deps < x.n) →
      ∃ t, exec (.taskDecrement die idx) s = .next t ∧ OnlyDie die s t
        ∧ t.die die = { s.die die with decq := dropAt (s.die die).decq idx, tdErr := satAdd (s.die die).tdErr 1 32 }))
  ∧ (∀ (s : State) (die slot : Nat), ((s.task die slot).st = .running ∨ (s.task die slot).st = .ready) → (s.task die slot).left = 0 →
      ∃ t, exec (.taskComplete die slot) s = .next t ∧ t.mem = s.mem
        ∧ t.task die slot = { Task.free with gen := ((s.task die slot).gen + 1) % 16 }
        ∧ ∀ h, (s.task die slot).succ = [h] → recCsync (s.task die slot).record = 0xFFFF →
            (t.die (bits h 13 12)).decq = (s.die (bits h 13 12)).decq ++ [⟨h, 1, none, dieSender die, 0⟩])
  ∧ (∀ (s : State) (die level i core : Nat) (r : Ready), s.nextDispatch die = some (level, i, r, .part core) → r.saved = none →
      exec (.taskDispatch die) s = .next (s.startPart die level i core r))
  ∧ (∀ (s : State) (die level i q : Nat) (r : Ready), s.nextDispatch die = some (level, i, r, .job q) →
      exec (.taskDispatch die) s = .next (s.startJob die level i q r))
  ∧ (∀ (s u : State) (d level i core : Nat) (r : Ready) (bs : Bytes),
      let a := s.readyTask r
      let l := s.graphSlots (recGraph a.record)
      let n := partThreads (partCap l) (recThreads a.record) r.part
      s.taskRead { core := core, die := d, space := recSpace a.record, priv := a.priv } (recArgs a.record + 16 * l * r.part * partCap l) (16 * l * n)
        = .ok (bs, u) →
      let t := s.startPart d level i core r
      let m := u.graphSlots (recGraph a.record)
      t.mem = u.mem ∧ (∃ p, (t.core core).part = some p ∧ p.task = r.task ∧ p.part = r.part ∧ p.level = level ∧ p.priv = a.priv
        ∧ p.space = recSpace a.record ∧ p.count = partThreads (partCap m) (recThreads a.record) r.part
        ∧ ∀ k, k < p.count → ((t.core core).thread k).st = .waiting ∧ ((t.core core).thread k).blk = ⟨recGraph a.record, recEntry a.record⟩
          ∧ ((t.core core).thread k).resume = ⟨⟨recGraph a.record, recEntry a.record⟩, none⟩
          ∧ ∀ j, j < m → tblGet ⟨mkVal 0, .raw⟩ ((t.core core).thread k).slots j = ⟨mkVal (.ofNat 128 (recNum bs (16 * (m * k + j)) 16)), .raw⟩)
      ∧ (t.core core).active = none ∧ (t.core core).pools = poolLayout a.pools
      ∧ tblGet [] (t.die d).ready level = dropAt (tblGet [] (u.die d).ready level) i)
  ∧ (∀ (s u : State) (d level i q core : Nat) (r : Ready),
      let a := s.readyTask r
      let x := s.taskRead { core := core, die := d, space := recSpace a.record, priv := a.priv } (recArgs a.record) 64
      core = (if q < 1536 then q / 4 else 96 * d + (s.die d).svcCore) →
      let t := s.startJob d level i q r
      (∀ bs, x = .ok (bs, u) →
        t.mem = u.mem ∧ (∃ j, t.jobQueue q = u.jobQueue q ++ [j] ∧ j.msg = bs ∧ j.core = core ∧ j.space = recSpace a.record ∧ j.priv = a.priv
          ∧ j.task = some r.task ∧ j.tid = noTid ∧ j.begun = false)
        ∧ (∀ c, a.holds level = some c → (t.core c).heldFor = some r.task)
        ∧ tblGet [] (t.die d).ready level = dropAt (tblGet [] (u.die d).ready level) i)
      ∧ (∀ y, x = .error (.fault y u) → t.frozen.contains r.space = true ∧ (t.core core).frozen.contains r.space = true ∧ t.mem = u.mem
          ∧ tblGet [] (t.die d).ready level = r :: dropAt (tblGet [] (u.die d).ready level) i))
  ∧ (∀ (s : State) (core : Nat) (f : PreemptFor),
      (s.endPhase = false → s.preemptNow core = some f → (s.core core).asksPark = false →
        ∃ t, exec (.preemptionRequest core) s = .next t ∧ OnlyCore core s t
          ∧ t.core core = { s.core core with endq := (s.core core).endq ++ [.preempt f] })
      ∧ OnlyCore core s (s.endReport core (.preempt f)) ∧ ((s.endReport core (.preempt f)).core core).preempt = some f)
  ∧ (∀ (s : State) (core : Nat) (p : RunPart), (s.core core).part = some p → (s.core core).saveReady = true →
      (∀ x ∈ (s.core core).threads, x.2.st ≠ .retired → s.imageBusy x.2.resume.blk = false) →
      let img := s.saveImage core p
      s.quietSpan (s.core core).svBase img.length = true → inHbm (s.core core).svBase = true → inHbm ((s.core core).svBase + img.length - 1) = true →
      ∃ t, exec (.saveImage core) s = .next t ∧ (t.core core).part = none ∧ (t.core core).threads = [] ∧ (t.core core).svSize = img.length
        ∧ (t.core core).svSaves = satAdd (s.core core).svSaves 1 32 ∧ t.lines = (s.cohWrite (s.core core).svBase img).lines
        ∧ (tblGet [] (t.die (dieOf core)).ready p.level).head? = some ⟨p.task, p.part, p.space, some (s.core core).svBase, (s.core core).keptThreads⟩)
  ∧ (∀ (s u v : State) (core level i pa : Nat) (r : Ready) (h img : Bytes), s.nextDispatch (dieOf core) = some (level, i, r, .part core) →
      r.saved = some pa → s.devRead pa 64 = .got h u → u.devRead pa (imgNum h 0x28 4) = .got img v →
      let q := ((v.dropReady (dieOf core) level i).setRunning r.task).placePart core level r (v.readyTask r)
      q.1.restoreReady (q.1.imageThreads core q.2 r.kept img).1 = true →
      exec (.resumption core) s = .next (q.1.restore core q.2 r.kept img))
  ∧ (∀ (s : State) (core : Nat) (p : RunPart) (kept : List SavedThread) (img : Bytes),
      let ts := (s.imageThreads core p kept img).1
      let t := s.restore core p kept img
      t.mem = s.mem ∧ ∀ k, let x := tblGet Thread.none ts k
        (x.gate = none → (t.core core).thread k = x)
        ∧ ∀ g, x.gate = some g → (ts.map (·.1)).contains k = true →
          (s.syncPhase g.sync = .phase g.phase → (t.core core).thread k = x
            ∧ (t.die (syncDie g.sync)).gates.contains ⟨syncIndex g.sync, g.phase, core, k⟩ = true)
          ∧ ∀ y, s.syncPhase g.sync = .phase y → y ≠ g.phase →
            ((t.core core).thread k).gate = none ∧ (x.st = .gated → ((t.core core).thread k).st = .waiting))
  ∧ (∀ (s : State) (now graph n nextId : Nat) (kept : List SavedThread) (b : Bytes),
      let r := s.readThread now graph n nextId kept b
      let t := r.2.1
      let mask := imgNum b 12 4
      let home : BlockRef := ⟨graph, imgNum b 4 2⟩
      (∀ x ∈ kept, x.tid ≠ imgNum b 0 2) →
        r.1 = imgNum b 0 2 ∧ t.resume = ⟨home, if imgNum b 6 1 = 0xFF then none else some (imgNum b 6 1)⟩
        ∧ t.token.val = mkVal (.ofNat 128 (imgNum b 16 16)) ∧ t.token.tag = Fmt.ofCode (bits (imgNum b 48 1) 2 0)
        ∧ t.hold = imgBit b 3 1 ∧ t.record.isSome = imgBit b 3 3 ∧ t.handler = imgBit b 3 2 ∧ t.gate.isSome = imgBit b 3 0
        ∧ t.st = (if imgBit b 3 1 = true then .parked else if imgBit b 3 2 = true ∨ imgBit b 3 0 = false then .waiting else .gated)
        ∧ t.blk = (if imgBit b 3 2 = true then ⟨imgNum b 50 2, bits (imgNum b 52 2) 11 0⟩ else home)
        ∧ (imgBit b 3 2 = false → t.rstep = if imgNum b 6 1 = 0xFF then .none else .stub)
        ∧ (∀ i, i < n → n ≤ 32 → bit mask i = true →
            (tblGet ⟨mkVal 0, .raw⟩ t.slots i).val = mkVal (.ofNat 128 (imgNum b (64 + 16 * ((List.range i).filter fun k => bit mask k).length) 16)))
        ∧ ∀ e ∈ t.area, e.go = e.sent ∧ e.held = false)
  ∧ (∀ (c : Core) (now : Nat) (b : Bytes),
      let x := Tile.unpack (imgNum b 0 12)
      let i := bits (imgNum b 12 2) 11 0
      let r := c.readTiles now 1 b
      (r.1.tile i = { x with base := (c.findRun now x.pool x.size).getD x.base } ∧ r.2 = b.drop (16 + 32 * x.size))
      ∧ (16 + 32 * x.size ≤ b.length → r.1.tileRead (r.1.tile i) 0 (32 * x.size) = (b.drop 16).take (32 * x.size)))
  ∧ (∀ (c : Core) (b : Bytes),
      let k := (c.readBanks 1 b).bank (imgNum b 0 2)
      k.holder = some (imgNum b 2 2) ∧ k.first = imgNum b 4 2 ∧ k.count = imgNum b 6 2
        ∧ ∀ w, w < 128 → k.word w = .ofNat 128 (imgNum b (16 + 16 * w) 16))

/-- R344 to R346, R349: an arrival counts, and the one that meets the target releases the phase: its gates open; an
entry is initialised by its space or by privilege; a gate is recorded on the phase its entry holds; and the oldest token of a boundary buffer
goes to the site its route names, or is counted and dropped without one. A message between dies arrives when its event's turn comes, and
keeps the order of its sender only (the model's reading, logs 44 and 117). -/
def Obligations.SyncEntriesAndBoundaries : Prop :=
  (∀ (s u : State) (die idx i sp core n : Nat) (e : SyncEntry), s.syncMsg die idx = some (.arrive i (some sp) core n, e, u) → e.v = true →
    e.space = sp →
    (e.arrived + 1 ≠ e.target →
      ∃ t, exec (.syncArrival die idx) s = .next t ∧ OnlyDie die u t
        ∧ t.die die = (u.die die).putSync i { e with arrived := (e.arrived + 1) % 2 ^ 32 })
    ∧ (e.arrived + 1 = e.target →
      ∃ t, exec (.syncArrival die idx) s = .next t ∧ t.mem = s.mem
        ∧ (∀ g ∈ (t.die die).gates, ¬ (g.index = i ∧ g.phase = e.phase))
        ∧ (∀ g, (u.die die).gates = [g] → g.index = i → g.phase = e.phase → ((u.core g.core).thread g.tid).st = .gated →
            ((t.core g.core).thread g.tid).st = .waiting ∧ ((t.core g.core).thread g.tid).gate = none)))
  ∧ (∀ (s u : State) (die idx i target task space own core n : Nat) (priv : Bool) (e : SyncEntry),
      s.syncMsg die idx = some (.init i target task space priv own core n, e, u) →
      let f := { e with target := target, arrived := 0, tv := bit task 31, task := packTask task, v := target != 0 }
      (priv = true → ∃ t, exec (.syncInit die idx) s = .next t ∧ OnlyDie die u t ∧ t.die die = (u.die die).putSync i { f with space := space })
      ∧ (priv = false → e.v = true → e.space = own → target ≠ 0 →
          ∃ t, exec (.syncInit die idx) s = .next t ∧ OnlyDie die u t ∧ t.die die = (u.die die).putSync i f))
  ∧ (∀ (s u : State) (die idx i core n : Nat) (e : SyncEntry), s.syncMsg die idx = some (.gate i core n, e, u) →
      ∃ t, exec (.gateRegistration die idx) s = .next t ∧ (t.die die).gates = (u.die die).gates ++ [⟨i, e.phase, core, n⟩] ∧ t.mem = s.mem
        ∧ ∀ g, ((u.core core).thread n).gate = some g → ((t.core core).thread n).gate = some { g with phase := e.phase, known := true })
  ∧ (∀ (s u : State) (die index : Nat) (m : SyncMsg) (bs : Bytes), (s.die die).syncq = [m] →
      ((∃ c n, m = .gate index c n) ∨ ∃ sp c n, m = .arrive index sp c n) → (s.die die).inReset = false →
      (s.die die).syncEntry index = none → (s.die die).syncCache.length < 1024 →
      s.devRead (s.syncAddr die index) 16 = .got bs u →
      ∃ t, exec (.syncCacheFill die index) s = .next t ∧ OnlyDie die u t
        ∧ t.die die = { u.die die with syncCache := (index, .ofNat 128 (leNat bs)) :: (s.die die).syncCache
                                       syncMiss := satAdd (u.die die).syncMiss 1 32 })
  ∧ (∀ (s : State) (core be : Nat) (k : Token), bufFront s.cycle ((s.core core).site (beSite be)).bound = some k →
      let r := (if be = 0 then (s.core core).beRoute0 else (s.core core).beRoute1).toNat
      (bit r 63 = false →
        ∃ t, exec (.boundaryTokenDelivery core be) s = .next t ∧ OnlyCore core s t ∧ (t.core core).beDrop = satAdd (s.core core).beDrop 1 16
          ∧ ((t.core core).site (beSite be)).bound = bufTake s.cycle ((s.core core).site (beSite be)).bound)
      ∧ (∀ x p q, bit r 63 = true → (s.core (bits r 8 0)).part = some p → (s.core core).part = some q → p.space = q.space →
          (List.range 8).find? (fun x => ((s.core (bits r 8 0)).ctx x).valid s.cycle && ((s.core (bits r 8 0)).ctx x).blk == ⟨p.graph, bits r 34 23⟩)
            = some x →
          let dir := if bits r 9 9 = 0 then 0 else 2
          let b := ((s.core (bits r 8 0)).site (beSite (bits r 9 9))).buf dir
          bufUsed s.cycle b < 2 → bufFresh s.cycle b = false →
          ∃ t, exec (.boundaryTokenDelivery core be) s = .next t ∧ t.mem = s.mem
            ∧ ((t.core core).site (beSite be)).bound = bufTake s.cycle ((s.core core).site (beSite be)).bound
            ∧ ((t.core (bits r 8 0)).site (beSite (bits r 9 9))).buf dir = bufPut s.cycle b { k with ctx := x, tid := bits r 45 35 }))

/-! ## Events of the Clotis protocol -/

/-- R381, R383, R384: a HELLO on a good flow opens a session with a challenge, PROVE makes it of its key's kind, and SESSION_CLOSE ends it; CLAIM
makes a management session the owner while there is none, HANDOVER offers the ownership, ACCEPT takes the offer, BEAT is heard, and without
a command of the owner for OWNTO ms there is no owner, from the next cycle on. A message starts with its header of 8 bytes (R382).

R383, R387: STATUS, TELEM, TRACE and QUOTE are answered to any session that has proved its key, and change nothing else that they read; a
frozen session is answered FROZEN (3), and a code that no list has, or a PROVE without a signature of 64 bytes, BADCMD (4). A command waits
while no port of its session's die is up (R293) and while a write of an earlier command is to be performed (R382).

The model's choices in it: keys, challenges and signatures are opaque (log 10); the bodies of EVENT and STATUS (log 11); a HELLO takes its
session's number at once, and what it is answered where the session exists (log 92); a HANDOVER to a session that is no management session
is BADCMD (log 94). -/
def Obligations.OwnershipAndReports : Prop :=
  ((∀ (s : State) (flow n : Nat) (key : Bytes), s.open_ = true → s.flowOk flow = true → s.clotisWaits flow = false →
       s.sessionOf flow = none → key.length = 32 →
       (List.range 16).find? (fun n => !tblHas s.modl.sessions n) = some n →
         ∃ t, exec (.hello flow key) s = .next t ∧ OnlyControl s t ∧ Answers s t n 0x01 0 (Config.challenge s.freeNo)
           ∧ t.modl.sessions = tblSet s.modl.sessions n ⟨.hello, key, Config.challenge s.freeNo, flow, false⟩ ∧ t.modl.owner = s.modl.owner)
     ∧ (∀ (s : State) (flow n : Nat) (x : Session) (k : SessionKind) (sig : Bytes), s.sessionOf flow = some (n, x) → x.frozen = false →
         x.kind = .hello → s.clotisWaits x.flow = false →
         (sig.length ≠ 64 → ∃ t, exec (.prove flow sig) s = .next t ∧ OnlyControl s t ∧ Answers s t n 0x02 4 [])
         ∧ (sig.length = 64 → s.kindOf x.key = some k → ∃ t, exec (.prove flow sig) s = .next t ∧ OnlyControl s t
           ∧ if Config.ed25519Verify x.key (x.challenge ++ Config.identityKey) sig = true then
               Answers s t n 0x02 0 [] ∧ t.modl.sessions = s.modl.sessions.map fun y => if y.1 == n then (y.1, { y.2 with kind := k }) else y
             else t.session n = none))
     ∧ (∀ (s : State) (n : Nat), (s.session n).isSome = true →
         ∃ t, exec (.sessionClose n) s = .next t ∧ OnlyControl s t ∧ t.session n = none ∧ t.modl.owner ≠ some n)
     ∧ (∀ (s : State) (n : Nat) (x : Session), Serves s n x → x.kind = .management →
         (s.modl.owner = none → ∃ t, exec (.claim n) s = .next t ∧ OnlyControl s t ∧ t.modl.owner = some n ∧ t.modl.offer = none
             ∧ AnswersLast t n 0x10 0 [])
         ∧ (∀ o, s.modl.owner = some o → ∃ t, exec (.claim n) s = .next t ∧ t.modl.owner = some o ∧ Answers s t n 0x10 2 [])
         ∧ (s.modl.offer = some n → ∃ t, exec (.accept n) s = .next t ∧ OnlyControl s t ∧ t.modl.owner = some n ∧ t.modl.offer = none
             ∧ AnswersLast t n 0x12 0 []))
     ∧ (∀ (s : State) (n m : Nat) (x : Session), Serves s n x → s.modl.owner = some n →
         (s.managers.contains m = true → ∃ t, exec (.handover n m) s = .next t ∧ OnlyControl s t ∧ t.modl.offer = some m ∧ t.modl.owner = some n
             ∧ Answers s t n 0x11 0 [])
         ∧ (∃ t, exec (.beat n) s = .next t ∧ OnlyControl s t ∧ t.modl.heard = s.refTick ∧ Answers s t n 0x13 0 []))
     ∧ (∀ (s : State) (o : Nat), s.modl.owner = some o → s.modl.heard + 1000000 * max 1 s.modl.ownTo ≤ s.refTick →
         ∃ t, exec .ownershipTimeout s = .next t ∧ OnlyControl s t ∧ t.modl.owner = none)
     ∧ (∀ (s : State) (o : Nat), s.nextCycle.modl.owner = some o →
         s.nextCycle.refTick < s.nextCycle.modl.heard + 1000000 * max 1 s.nextCycle.modl.ownTo)
     ∧ (∀ m : Message, m.bytes.length = 8 + m.body.length ∧ m.bytes.drop 8 = m.body ∧ recNum m.bytes 0 1 = m.code % 256
         ∧ recNum m.bytes 1 1 = m.status % 256 ∧ recNum m.bytes 2 2 = m.session % 65536 ∧ recNum m.bytes 4 4 = m.body.length % 2 ^ 32))
  ∧ ((∀ (s : State) (n : Nat) (x : Session), Serves s n x → s.modl.owner ≠ some n →
       (∃ t, exec (.status n) s = .next t ∧ OnlyControl s t ∧ Answers s t n 0x20 0 s.statusBody)
       ∧ (∃ t, exec (.telem n) s = .next t ∧ OnlyControl s t
           ∧ Answers s t n 0x21 0 ((List.range 4).flatMap fun d => leBytes (tblGet 0 s.modl.tlm d).toNat 8))
       ∧ (∀ nonce space, nonce.length = 32 → space < 4096 →
           let ms := s.modl.fwMeasure ++ s.modl.cfgMeasure ++ s.measures space
           ∃ t, exec (.quote n nonce space) s = .next t ∧ OnlyControl s t
             ∧ Answers s t n 0x23 0 (ms ++ Config.identitySign (sha512 (nonce ++ ms))))
       ∧ (∀ d off len bs u, d < 4 → off + len ≤ (s.die d).trSize → s.devRead ((s.die d).trBase + off) len = .got bs u → u.modl = s.modl →
           ∃ t r, exec (.trace n d off len) s = .next t ∧ OnlyControl u t ∧ Answers s t n 0x22 0 (bs ++ r)))
     ∧ (∀ (s : State) (n code : Nat) (x : Session), Serves s n x → listedCodes.contains code = false →
         ∃ t, exec (.space n (.unlisted code)) s = .next t ∧ OnlyControl s t ∧ Answers s t n code 4 [])
     ∧ (∀ (s : State) (n : Nat) (x : Session), s.session n = some x →
         (s.clotisWaits x.flow = true → exec (.status n) s = .next s ∧ exec (.claim n) s = .next s)
         ∧ (x.frozen = true → s.clotisWaits x.flow = false →
           (∃ t, exec (.status n) s = .next t ∧ OnlyControl s t ∧ Answers s t n 0x20 3 [])
           ∧ (∃ t, exec (.claim n) s = .next t ∧ OnlyControl s t ∧ Answers s t n 0x10 3 []))))

/-- R334, R385 to R387: the owner creates and destroys spaces and queues, admits graphs, and has registers written; any other MGMT freezes its
session; and a launch stands in its queue until its records' lists can be read, and is then admitted whole or refused.

The model's choices in it: when L and the commit areas of a graph are taken (log 45); whether a launch's graph is admitted is seen when it is
admitted, and the form of a refusal (log 93); SPACE for a space that exists, and what a destroyed space keeps (log 95); which numbers queues
take (log 96); which launches are privileged, and when one is admitted (log 97); whose a graph of the owner is (log 98); what a destroyed
queue does with the launches that wait in it (log 149). -/
def Obligations.OwnersCommands : Prop :=
  (∀ (s : State) (n : Nat) (x : Session), Serves s n x → s.modl.owner = some n →
    (∀ sp key, sp < 4096 → key.length = 32 → tblHas s.modl.keys sp = false →
      ∃ t, exec (.space n (.create sp key)) s = .next t ∧ OnlyControl s t ∧ t.modl.keys = tblSet s.modl.keys sp key ∧ Answers s t n 0x30 0 [])
    ∧ (∀ sp, sp < 4096 → (∀ pa ∈ s.spaceEntries sp, spanInHbm pa 16 = true → s.quietSpan pa 16 = true) →
      ∃ t, exec (.space n (.destroy sp)) s = .next t ∧ AnswersLast t n 0x30 0 [] ∧ (∀ k ∈ t.modl.keys, k.1 ≠ sp) ∧ (∀ q ∈ t.modl.queues, q.space ≠ sp)
        ∧ t.frozen.contains sp = true)
    ∧ (∀ sp, sp < 4096 → (s.modl.queues.filter fun q => q.space == sp).length < 8 →
      ∃ t m, exec (.queue n sp true) s = .next t ∧ OnlyControl s t ∧ t.modl.queues = s.modl.queues ++ [⟨sp, m, []⟩] ∧ (∀ q ∈ s.modl.queues, q.num ≠ m)
        ∧ Answers s t n 0x31 0 (leBytes m 8))
    ∧ (∀ m, (∃ q ∈ s.modl.queues, q.num = m) →
      ∃ t, exec (.queue n m false) s = .next t ∧ OnlyControl s t ∧ t.modl.queues = (s.modl.queues.filter fun q => q.num != m) ∧ Answers s t n 0x31 0 [])
    ∧ (∀ addr v, inRegs addr = true → addr % 8 = 0 →
      ∃ t, exec (.mgmt n addr v) s = .next t ∧ t.sysq = s.sysq ++ [⟨.session n, addr, some v, false⟩] ∧ t.modl.heard = s.refTick ∧ t.mem = s.mem))
  ∧ (∀ (s : State) (n addr : Nat) (v : BitVec 64) (x : Session), Serves s n x → (s.modl.owner ≠ some n ∨ inRegs addr = false) →
      ∃ t, exec (.mgmt n addr v) s = .next t ∧ OnlyControl s t ∧ (∀ y, t.session n = some y → y.frozen = true) ∧ AnswersLast t n 0x33 3 [])
  ∧ (∀ (s u : State) (n g dir : Nat) (sig : Bytes) (x : Session) (blocks : List (Nat × Bytes)), Serves s n x →
      (s.modl.owner = some n ∨ x.space.isSome = true) → sig.length = 64 → g < 65536 → (∀ y, s.graphs.find? (fun y => y.1 == g) = some y → y.2.space = x.space) →
      s.readGraphImages dir = .got blocks u → u.modl = s.modl →
      ∃ t, exec (.admitGraph n g dir sig) s = .next t
        ∧ if s.signedOk x (graphOf g dir x.space blocks).measure sig (blocks.any fun b => bit (imgNum b.2 9 1) 0) = true then
            t.graphs = tblSet u.graphs g (graphOf g dir x.space blocks) ∧ Answers s t n 0x32 0 []
          else t.graphs = s.graphs ∧ Answers s t n 0x32 1 [])
  ∧ (∀ (s : State) (n q port : Nat) (records : List Bytes) (map : Bytes) (m : List MapEntry) (x : Session) (y : Queue),
      Serves s n x → s.comesBy x.flow port = true → s.modl.owner = some n → s.modl.queues.find? (fun y => y.num == q) = some y → records ≠ [] →
      records.length ≤ 256 → records.all recordOk = true → mapOf map = some m →
      let d := port / 8
      let v := (s.modl_ fun c => { c with heard := s.refTick }).pushLaunch q ⟨n, d, true, records, m⟩
      exec (.launch n q port records map) s = .next (v.admitQueue q)
      ∧ (y.waiting = [] →
        let plan := v.planLaunch (fun sp => { core := 96 * d + (v.die d).svcCore, die := d, space := sp, priv := true }) records.length 0 records []
        (plan = .wait → v.admitQueue q = v)
        ∧ (∀ l, plan = .refused l → v.admitQueue q = ((v.popLaunch q).send n 0x40 1 []).send n 0x50 0 (eventBody 1 l))
        ∧ (∀ rs u, plan = .go rs u → u.takeSlots d m true n rs [] = none → v.admitQueue q = (v.popLaunch q).send n 0x40 1 [])
        ∧ ∀ rs u hs w, plan = .go rs u → u.takeSlots d m true n rs [] = some (hs, w) →
          v.admitQueue q = ((w.startLaunch hs).popLaunch q).send n 0x40 0 []))
  ∧ (∀ (b : Bytes) (m : List MapEntry), mapOf b = some m →
      m.length = recNum b 0 4 ∧ m.length ≤ 1024 ∧ b.length = 8 + 16 * m.length ∧ recNum b 4 4 = 0
        ∧ ∀ i, i < m.length → recNum b (23 + 16 * i) 1 = 0 ∧ m[i]? = some ⟨recNum b (8 + 16 * i) 8, recNum b (16 + 16 * i) 6, recNum b (22 + 16 * i) 1⟩
          ∧ recNum b (22 + 16 * i) 1 < 4)

/-! ## Events of the ports, telemetry and trace -/

/-- R2, R289 to R293, R388 to R392: a port comes up, and loses, retrains and takes back lanes, a lane's errors being counted as they come and
compared at the end of a window; a peer's connection is set up when every feature is supported; the pieces of remote reads and writes act
at the home slices, or where the target device translates them, and on an ordered flow none before every earlier message is complete; each
die's telemetry is sampled once in a million reference ticks, and the cycle in which it is due does not end without it; and the oldest trace
record is appended at the write offset, or dropped and counted where it would reach the reader.

The model's choices in it: what is sent over the ports is a list (log 23); which lanes the configuration takes out for good (log 24); remote
messages come in pieces (log 100), and those of an ordered flow are numbered from 0 (log 142); what a port loses when it goes down, and when
lanes are compared (log 101); the DELTA of a PAD, what LOST counts and the first sample's number (log 102); the cause of an II-excess record
(log 104). -/
def Obligations.PortsAndTrace : Prop :=
  (∀ (s : State) (p : Nat) (partner : Bool), s.portAllowed p = true → (s.port p).up = false →
    ∃ t, exec (.linkTraining p partner) s = .next t ∧ t = { s with ports := t.ports }
      ∧ t.port p = { s.port p with up := true, kls := partner, lanes := ~~~(Config.portRepair s.modl.config p), retrain := none } ∧ ∀ q, q ≠ p → t.port q = s.port q)
  ∧ (∀ (s : State) (p lane : Nat) (errs : LaneErrs), p < 32 → lane < 8 → (s.port p).up = true → (s.port p).lanes.getLsbD lane = true →
      let n := tblGet 0 (s.port p).window lane + errs.n
      (∃ t, exec (.laneRetrain p lane errs) s = .next t ∧ t = { s with ports := t.ports }
        ∧ tblGet 0 (t.port p).errs lane = satAdd (tblGet 0 (s.port p).errs lane) errs.n 48
        ∧ tblGet 0 (t.port p).window lane = (if errs.ended then 0 else n)
        ∧ (errs.ended = true → (s.port p).kls = true → (s.port p).limit < n → (s.port p).retrain = none →
            (t.port p).retrain = some lane ∧ (t.port p).lanes.getLsbD lane = false ∧ (t.port p).up = true)
        ∧ ((errs.ended = false ∨ n ≤ (s.port p).limit) → (t.port p).lanes = (s.port p).lanes ∧ (t.port p).retrain = (s.port p).retrain))
      ∧ (∃ t, exec (.laneSignalLoss p lane) s = .next t ∧ t = { s with ports := t.ports }
        ∧ (t.port p).up = ((s.port p).kls && (s.port p).retrain.isNone)
        ∧ ((s.port p).kls = true → (s.port p).retrain = none → (t.port p).retrain = some lane ∧ (t.port p).lanes.getLsbD lane = false)))
  ∧ (∀ (s : State) (p lane : Nat), lane < 8 → (s.port p).retrain = some lane →
      ∃ t, exec (.laneHandback p lane) s = .next t ∧ t = { s with ports := t.ports } ∧ (t.port p).lanes.getLsbD lane = true
        ∧ (t.port p).retrain = none ∧ (t.port p).back = satAdd (s.port p).back 1 32)
  ∧ (∀ (s : State) (p : Nat) (fs : List Feature), p < 32 → (s.port p).up = true →
      (fs.all supported = true → exec (.connectionSetup p fs) s = .next { s with conns := s.conns ++ [(p, fs)] })
      ∧ (fs.all supported = false → exec (.connectionSetup p fs) s = .next s))
  ∧ (∀ (s u : State) (p : Nat) (x : RmaPiece) (bs : Bytes), s.rmaOn p x = true → s.rmaTurn (p / 8) x = true →
      ((∃ pa, x.at_ = .phys pa ∧ spanInHbm pa bs.length = true ∧ s.quietSpan pa bs.length = true ∧ u = s.cohWrite pa bs)
        ∨ ∃ sp va priv, x.at_ = .virt sp va priv ∧ s.xPut (s.target (p / 8) sp priv) va bs (bs.length / 128 + 2) = .ok u) →
      ∃ t, exec (.remoteRmaWrite p x bs) s = .next t ∧ t = { u with wire := t.wire, rmaNext := t.rmaNext }
        ∧ t.wire = u.wire ++ (if x.last then [(p / 8, [])] else []) ∧ NextMessage u t (p / 8) x)
  ∧ (∀ (s u : State) (p n : Nat) (x : RmaPiece) (bs : Bytes), s.rmaOn p x = true → s.rmaTurn (p / 8) x = true →
      (∃ a, (x.first = true ∨ a % 16 = 0) ∧ (x.last = true ∨ (a + n) % 16 = 0)
        ∧ ((x.at_ = .phys a ∧ spanInHbm a n = true ∧ s.quietSpan a n = true ∧ s.cohBytes a n = .ok (bs, u))
          ∨ ∃ sp priv, x.at_ = .virt sp a priv ∧ s.xRead (s.target (p / 8) sp priv) .engRead a n = .ok (bs, u))) →
      ∃ t, exec (.remoteRmaRead p x n) s = .next t ∧ t = { u with wire := u.wire ++ [(p / 8, bs)], rmaNext := t.rmaNext }
        ∧ NextMessage u t (p / 8) x)
  ∧ (∀ (s : State) (p n : Nat) (x : RmaPiece) (bs : Bytes), x.rod = true → s.rmaMsg (p / 8) x.flow ≠ x.msg →
      exec (.remoteRmaWrite p x bs) s = .next s ∧ exec (.remoteRmaRead p x n) s = .next s)
  ∧ (∀ (s : State) (d i p m : Nat), d < 4 → tblGet 0 s.modl.tlmSeq d < s.refTick / 1000000 →
      ∃ t, exec (.telemetrySample d i p m) s = .next t ∧ OnlyControl s t
        ∧ (tblGet 0 t.modl.tlm d).extractLsb' 0 16 = .ofNat 16 m ∧ (tblGet 0 t.modl.tlm d).extractLsb' 16 16 = .ofNat 16 p
        ∧ (tblGet 0 t.modl.tlm d).extractLsb' 32 16 = .ofNat 16 i
        ∧ (tblGet 0 t.modl.tlm d).extractLsb' 48 16 = .ofNat 16 (tblGet 0 s.modl.tlmSeq d + 1)
        ∧ tblGet 0 t.modl.tlmSeq d = tblGet 0 s.modl.tlmSeq d + 1)
  ∧ (∀ (s : State) (d : Nat), d < 4 → s.endPhase = true → tblGet 0 s.modl.tlmSeq d < s.refTick / 1000000 → s.edge = s)
  ∧ (∀ (s : State) (d : Nat) (r : TraceRec) (l : List TraceRec), (s.die d).trq = r :: l →
      let ws := (s.die d).traceWords s.refTick r
      ((s.die d).trFree ≤ 8 * ws.length →
        ∃ t, exec (.traceRecordAppend d) s = .next t ∧ OnlyDie d s t
          ∧ t.die d = { s.die d with trq := l, trLost := satAdd (s.die d).trLost 1 32, trPend := (s.die d).trPend + 1 })
      ∧ (8 * ws.length < (s.die d).trFree → s.traceQuiet (s.die d).trBase (s.die d).trSize (s.die d).trWr ws.length = true →
        ∃ u, exec (.traceRecordAppend d) s = .next (u.putTrace (s.die d).trBase (s.die d).trSize (s.die d).trWr ws) ∧ OnlyDie d s u
          ∧ u.die d = { s.die d with trq := l, trWr := ((s.die d).trWr + 8 * ws.length) % (s.die d).trSize, trPend := 0
                                     trLast := s.refTick, trSync := false }))
  ∧ (∀ (s : State) (core : Nat), core < 384 →
      ∃ t, exec (.fabricClockChange core) s = .next t ∧ OnlyDie (dieOf core) s t ∧ (t.die (dieOf core)).trSync = true)

/-! ## Resets -/

/-- R395, R396, R398, R399: a module reset leaves every part of the device at its reset value but the flash and what has been sent; without an
accepted flash copy the module stays in recovery, and with one it boots: the copy's configuration and measurements are the module's, the
configuration sets the cores' and the PHY's repairs, and each die is booted from the firmware image in turn; a die reset leaves the die's tables, its cores and its ports at theirs; and a core reset leaves the core idle, with nothing in its fabric.

The model's choices in it: the fabric cycle and the 1 GHz reference counter start at 0 (log 4); where the parts of a flash copy lie (log 24);
what a core reset leaves (log 26); how a program comes to run from reset (log 27); a die reset waits for its lines (log 103). -/
def Obligations.Resets : Prop :=
  (∀ (s : State) (cause : ResetCause) (cfg : BootInputs), (cause = .powerOn ∨ cause = .supplyFault) →
    let base := { State.reset with
      agenda := s.agenda, turnNo := s.turnNo, freeNo := s.freeNo, wire := s.wire, nacks := s.nacks
      modl := { Control.reset with flash := s.modl.flash, sent := s.modl.sent } }
    ∃ t, exec (.moduleReset cause cfg) s = .next t
      ∧ (bootCopy s.modl.flash = none → t = { base with modl := { base.modl with recovery := true, bootStep := 2 } })
      ∧ ∀ conf fw mc mf, bootCopy s.modl.flash = some (conf, fw, mc, mf) →
          t = [0, 1, 2, 3].foldl (fun (u : State) d => u.bootDie fw d) { base with
            cores := bootCores conf cfg.failed, phys := bootPhys conf
            modl := { base.modl with config := conf, cfgMeasure := mc, fwMeasure := mf, bootStep := 5 } })
  ∧ (∀ (s : State) (idx : Nat) (w : SysWrite) (v : Nat) (cfg : BootInputs), s.sysWrite idx = some (w, v, .moduleReset) →
      exec (.moduleReset (.write idx) cfg) s = exec (.moduleReset .powerOn cfg) s)
  ∧ (∀ (s : State) (idx v d : Nat) (w : SysWrite), s.sysWrite idx = some (w, v, .dieReset) → resetDies v = [d] → s.dieQuiet d = true →
      ∃ t, exec (.dieReset idx) s = .next t ∧ (t.die d).walks = [] ∧ (t.die d).jobs = [] ∧ (∀ k, k < 4096 → (t.task d k).st = .free) ∧ (t.die d).limit = 100
        ∧ (t.die d).boot = (s.die d).boot
        ∧ (∀ k, dieOf k = d → (t.core k).part = none ∧ (t.core k).threads = [] ∧ (t.core k).l1 = [] ∧ (t.core k).rtab = [] ∧ (t.core k).sites = [])
        ∧ (∀ p, p / 8 = d → t.port p = Port.reset))
  ∧ (∀ (s : State) (idx v d : Nat) (w : SysWrite), s.sysWrite idx = some (w, v, .coreReset d) → s.sysq = [w] → bit v 15 = true → bits v 6 0 < 96 →
      let k := 96 * d + bits v 6 0
      (s.core k).part = none →
      ∃ t, exec (.coreReset idx) s = .next t ∧ t.mem = s.mem ∧ (t.core k).threads = [] ∧ (t.core k).ctxs = [] ∧ (t.core k).tiles = []
        ∧ (t.core k).banks = [] ∧ (t.core k).rtab = [] ∧ (t.core k).l1 = [] ∧ (t.core k).fpFlag = 0 ∧ (t.core k).part = none ∧ (t.core k).beRoute0 = 0
        ∧ (t.core k).beRoute1 = 0 ∧ (t.core k).beDrop = 0)

/-! ## The machine -/

/-- R202, R203, R307: the turn of a site runs `exec` of the instruction that a word of one of its slots decodes to, with the slot it stands in as the
place of the firing; an event's turn runs `exec` of the event; an edge moves the cycle on; a turn is taken from the agenda first; and a site
without a slot to fire does nothing. That a step takes one turn, and which, is the model's choice (logs 1 and 3). Around `exec`, a step only takes the turn and, for a site, notes the II-excess record of the slot. -/
def Obligations.StepRunsTheDecodedInstruction : Prop :=
  (∀ (s : State) (r : List Turn) (core site : Nat) (i : Instr) (u : State), s.agenda = .site core site :: r →
    ({ s with agenda := r } : State).choose core site = some (i, u) →
      step s = exec i u ∧ u.loc.core = core ∧ u.loc.site = site ∧ u = { s with agenda := r, loc := u.loc, dies := u.dies }
        ∧ ∃ x, (u.loc.slot, x) ∈ (((s.core core).site site).ctx u.loc.ctx).words ∧ decodeWord x = .ok i)
  ∧ (∀ (s : State) (r : List Turn) (core site : Nat), s.agenda = .site core site :: r →
      ({ s with agenda := r } : State).choose core site = none → step s = .next { s with agenda := r })
  ∧ (∀ (s : State) (r : List Turn) (i : Instr), s.agenda = .event i :: r → step s = exec i { s with agenda := r })
  ∧ (∀ (s : State) (r : List Turn), s.agenda = .edge :: r → step s = .next ({ s with agenda := r } : State).edge)
  ∧ (∀ (s : State), s.agenda = [] → step s = runTurn (Config.nextTurn s.turnNo) { s with turnNo := s.turnNo + 1 })

/-- R203: a site that has fired in a cycle fires nothing more in it; among its slots that are eligible and ready, the one whose context has the oldest
load stamp fires, and within one context the one of the lowest number; and while one is ready, one is chosen. -/
def Obligations.OldestContextLowestSlotFires : Prop :=
  (∀ (s : State) (core site : Nat), ((s.core core).site site).fired = some s.cycle → ∀ want, s.pick core site want = none)
  ∧ (∀ (s : State) (core site : Nat), (∀ k ∈ s.cands core site, k.slot < 16) →
      (∀ k, s.pick core site .fire = some k → k ∈ s.cands core site ∧ k.ready = .fire ∧ ∀ j ∈ s.cands core site, j.ready = .fire →
          ((s.core core).ctx k.ctx).stamp < ((s.core core).ctx j.ctx).stamp
          ∨ (((s.core core).ctx k.ctx).stamp = ((s.core core).ctx j.ctx).stamp ∧ k.slot ≤ j.slot))
      ∧ ((∃ j ∈ s.cands core site, j.ready = .fire) → (s.pick core site .fire).isSome = true))

/-- Log 5: at reset, main memory is in its canonical form, and every byte of it reads as an unlisted one.

R328, R351: what the registers of every selector and every distributor read right after a module reset. -/
def Obligations.ResetState : Prop :=
  (Memory.wf State.reset.mem = true ∧ ∀ a, memGet State.reset.mem a = Memory.unlisted)
  ∧ (∀ d k, d < 4 → k < 96 →
       let read := fun (pa : Nat) => State.reset.regRead (regAt pa)
       let sel := 0xF00000000000 + d * 2 ^ 36 + 0x00000A000000 + k * 0x1000
       let dist := 0xF00000000000 + d * 2 ^ 36 + 0x00000B000000
       read sel = 0x0001000000001000 ∧ read (sel + 8) = 0 ∧ read (sel + 0x10) = 0 ∧ read (sel + 0x18) = 0 ∧ read (sel + 0x20) = 0
         ∧ read dist = 0 ∧ read (dist + 8) = 0 ∧ read (dist + 0x10) = 0x80 * 2 ^ 16 + 100 ∧ read (dist + 0x18) = 0 ∧ read (dist + 0x20) = 0)

/-- Log 5: every step, from any state, keeps main memory in its canonical form: addresses strictly rising, and no entry that an unlisted address
would read as. -/
def Obligations.EveryStepKeepsMemoryCanonical : Prop :=
  ∀ (s t : State), Memory.wf s.mem = true → step s = .next t → Memory.wf t.mem = true

/-- R84, R117, R132, R412: main memory itself changes only when a line is written back to it or a pseudo-channel is initialised: in HBM's own
events and at a reset, and where a slice gives up a line for another that is brought into it. Every other instruction and event leaves
each byte of it as it was: a store, an atomic, a flush and a commit reach it through the slices. -/
def Obligations.OnlyHbmEventsChangeMainMemory : Prop :=
  ∀ (i : Instr) (s t : State), exec i s = .next t → reachesHbm i = false → t.mem = s.mem

/-- Every step of every state ends in a next state: no instruction, event or edge stops the machine or is refused. -/
def Obligations.EveryStepAnswers : Prop := ∀ s : State, ∃ t, step s = .next t
end

