-- ==== Sys2Proof/Laws/State.lean ====
section
/-! SUPPORT. What each named update of the state leaves alone: every field but its own, one equation each, for simp. -/

namespace Sys2Proof.Machine

@[simp] theorem State.setCore_rest (s : State) (c : Nat) (x : Core) :
    (s.setCore c x).agenda = s.agenda ∧ (s.setCore c x).turnNo = s.turnNo ∧ (s.setCore c x).freeNo = s.freeNo ∧
    (s.setCore c x).loc = s.loc ∧ (s.setCore c x).endPhase = s.endPhase ∧ (s.setCore c x).cycle = s.cycle ∧
    (s.setCore c x).refTick = s.refTick ∧ (s.setCore c x).mem = s.mem ∧ (s.setCore c x).hbmBad = s.hbmBad ∧
    (s.setCore c x).lines = s.lines ∧ (s.setCore c x).proxies = s.proxies ∧ (s.setCore c x).chans = s.chans ∧
    (s.setCore c x).slices = s.slices ∧ (s.setCore c x).dies = s.dies ∧ (s.setCore c x).ctrls = s.ctrls ∧
    (s.setCore c x).phys = s.phys ∧ (s.setCore c x).ports = s.ports ∧ (s.setCore c x).conns = s.conns ∧
    (s.setCore c x).wire = s.wire ∧ (s.setCore c x).nacks = s.nacks ∧ (s.setCore c x).rmaNext = s.rmaNext ∧
    (s.setCore c x).graphs = s.graphs ∧ (s.setCore c x).frozen = s.frozen ∧ (s.setCore c x).sysq = s.sysq ∧
    (s.setCore c x).rewrites = s.rewrites ∧ (s.setCore c x).rangeq = s.rangeq ∧ (s.setCore c x).invals = s.invals ∧
    (s.setCore c x).moves = s.moves ∧ (s.setCore c x).freezing = s.freezing ∧ (s.setCore c x).freezeOps = s.freezeOps ∧
    (s.setCore c x).insts = s.insts ∧ (s.setCore c x).modl = s.modl :=
  ⟨rfl, rfl, rfl, rfl, rfl, rfl, rfl, rfl, rfl, rfl, rfl, rfl, rfl, rfl, rfl, rfl, rfl, rfl, rfl, rfl, rfl, rfl, rfl, rfl, rfl, rfl, rfl, rfl, rfl, rfl, rfl, rfl⟩

@[simp] theorem State.modCore_rest (s : State) (c : Nat) (f : Core → Core) :
    (s.modCore c f).agenda = s.agenda ∧ (s.modCore c f).turnNo = s.turnNo ∧ (s.modCore c f).freeNo = s.freeNo ∧
    (s.modCore c f).loc = s.loc ∧ (s.modCore c f).endPhase = s.endPhase ∧ (s.modCore c f).cycle = s.cycle ∧
    (s.modCore c f).refTick = s.refTick ∧ (s.modCore c f).mem = s.mem ∧ (s.modCore c f).hbmBad = s.hbmBad ∧
    (s.modCore c f).lines = s.lines ∧ (s.modCore c f).proxies = s.proxies ∧ (s.modCore c f).chans = s.chans ∧
    (s.modCore c f).slices = s.slices ∧ (s.modCore c f).dies = s.dies ∧ (s.modCore c f).ctrls = s.ctrls ∧
    (s.modCore c f).phys = s.phys ∧ (s.modCore c f).ports = s.ports ∧ (s.modCore c f).conns = s.conns ∧
    (s.modCore c f).wire = s.wire ∧ (s.modCore c f).nacks = s.nacks ∧ (s.modCore c f).rmaNext = s.rmaNext ∧
    (s.modCore c f).graphs = s.graphs ∧ (s.modCore c f).frozen = s.frozen ∧ (s.modCore c f).sysq = s.sysq ∧
    (s.modCore c f).rewrites = s.rewrites ∧ (s.modCore c f).rangeq = s.rangeq ∧ (s.modCore c f).invals = s.invals ∧
    (s.modCore c f).moves = s.moves ∧ (s.modCore c f).freezing = s.freezing ∧ (s.modCore c f).freezeOps = s.freezeOps ∧
    (s.modCore c f).insts = s.insts ∧ (s.modCore c f).modl = s.modl :=
  ⟨rfl, rfl, rfl, rfl, rfl, rfl, rfl, rfl, rfl, rfl, rfl, rfl, rfl, rfl, rfl, rfl, rfl, rfl, rfl, rfl, rfl, rfl, rfl, rfl, rfl, rfl, rfl, rfl, rfl, rfl, rfl, rfl⟩

@[simp] theorem State.setDie_rest (s : State) (d : Nat) (x : Die) :
    (s.setDie d x).agenda = s.agenda ∧ (s.setDie d x).turnNo = s.turnNo ∧ (s.setDie d x).freeNo = s.freeNo ∧
    (s.setDie d x).loc = s.loc ∧ (s.setDie d x).endPhase = s.endPhase ∧ (s.setDie d x).cycle = s.cycle ∧
    (s.setDie d x).refTick = s.refTick ∧ (s.setDie d x).mem = s.mem ∧ (s.setDie d x).hbmBad = s.hbmBad ∧
    (s.setDie d x).lines = s.lines ∧ (s.setDie d x).proxies = s.proxies ∧ (s.setDie d x).chans = s.chans ∧
    (s.setDie d x).slices = s.slices ∧ (s.setDie d x).cores = s.cores ∧ (s.setDie d x).ctrls = s.ctrls ∧
    (s.setDie d x).phys = s.phys ∧ (s.setDie d x).ports = s.ports ∧ (s.setDie d x).conns = s.conns ∧ (s.setDie d x).wire = s.wire ∧
    (s.setDie d x).nacks = s.nacks ∧ (s.setDie d x).rmaNext = s.rmaNext ∧ (s.setDie d x).graphs = s.graphs ∧
    (s.setDie d x).frozen = s.frozen ∧ (s.setDie d x).sysq = s.sysq ∧ (s.setDie d x).rewrites = s.rewrites ∧
    (s.setDie d x).rangeq = s.rangeq ∧ (s.setDie d x).invals = s.invals ∧ (s.setDie d x).moves = s.moves ∧
    (s.setDie d x).freezing = s.freezing ∧ (s.setDie d x).freezeOps = s.freezeOps ∧ (s.setDie d x).insts = s.insts ∧
    (s.setDie d x).modl = s.modl :=
  ⟨rfl, rfl, rfl, rfl, rfl, rfl, rfl, rfl, rfl, rfl, rfl, rfl, rfl, rfl, rfl, rfl, rfl, rfl, rfl, rfl, rfl, rfl, rfl, rfl, rfl, rfl, rfl, rfl, rfl, rfl, rfl, rfl⟩

@[simp] theorem State.modDie_rest (s : State) (d : Nat) (f : Die → Die) :
    (s.modDie d f).agenda = s.agenda ∧ (s.modDie d f).turnNo = s.turnNo ∧ (s.modDie d f).freeNo = s.freeNo ∧
    (s.modDie d f).loc = s.loc ∧ (s.modDie d f).endPhase = s.endPhase ∧ (s.modDie d f).cycle = s.cycle ∧
    (s.modDie d f).refTick = s.refTick ∧ (s.modDie d f).mem = s.mem ∧ (s.modDie d f).hbmBad = s.hbmBad ∧
    (s.modDie d f).lines = s.lines ∧ (s.modDie d f).proxies = s.proxies ∧ (s.modDie d f).chans = s.chans ∧
    (s.modDie d f).slices = s.slices ∧ (s.modDie d f).cores = s.cores ∧ (s.modDie d f).ctrls = s.ctrls ∧
    (s.modDie d f).phys = s.phys ∧ (s.modDie d f).ports = s.ports ∧ (s.modDie d f).conns = s.conns ∧ (s.modDie d f).wire = s.wire ∧
    (s.modDie d f).nacks = s.nacks ∧ (s.modDie d f).rmaNext = s.rmaNext ∧ (s.modDie d f).graphs = s.graphs ∧
    (s.modDie d f).frozen = s.frozen ∧ (s.modDie d f).sysq = s.sysq ∧ (s.modDie d f).rewrites = s.rewrites ∧
    (s.modDie d f).rangeq = s.rangeq ∧ (s.modDie d f).invals = s.invals ∧ (s.modDie d f).moves = s.moves ∧
    (s.modDie d f).freezing = s.freezing ∧ (s.modDie d f).freezeOps = s.freezeOps ∧ (s.modDie d f).insts = s.insts ∧
    (s.modDie d f).modl = s.modl :=
  ⟨rfl, rfl, rfl, rfl, rfl, rfl, rfl, rfl, rfl, rfl, rfl, rfl, rfl, rfl, rfl, rfl, rfl, rfl, rfl, rfl, rfl, rfl, rfl, rfl, rfl, rfl, rfl, rfl, rfl, rfl, rfl, rfl⟩

@[simp] theorem State.modSlice_rest (s : State) (n : Nat) (f : Slice → Slice) :
    (s.modSlice n f).agenda = s.agenda ∧ (s.modSlice n f).turnNo = s.turnNo ∧ (s.modSlice n f).freeNo = s.freeNo ∧
    (s.modSlice n f).loc = s.loc ∧ (s.modSlice n f).endPhase = s.endPhase ∧ (s.modSlice n f).cycle = s.cycle ∧
    (s.modSlice n f).refTick = s.refTick ∧ (s.modSlice n f).mem = s.mem ∧ (s.modSlice n f).hbmBad = s.hbmBad ∧
    (s.modSlice n f).lines = s.lines ∧ (s.modSlice n f).proxies = s.proxies ∧ (s.modSlice n f).chans = s.chans ∧
    (s.modSlice n f).cores = s.cores ∧ (s.modSlice n f).dies = s.dies ∧ (s.modSlice n f).ctrls = s.ctrls ∧
    (s.modSlice n f).phys = s.phys ∧ (s.modSlice n f).ports = s.ports ∧ (s.modSlice n f).conns = s.conns ∧
    (s.modSlice n f).wire = s.wire ∧ (s.modSlice n f).nacks = s.nacks ∧ (s.modSlice n f).rmaNext = s.rmaNext ∧
    (s.modSlice n f).graphs = s.graphs ∧ (s.modSlice n f).frozen = s.frozen ∧ (s.modSlice n f).sysq = s.sysq ∧
    (s.modSlice n f).rewrites = s.rewrites ∧ (s.modSlice n f).rangeq = s.rangeq ∧ (s.modSlice n f).invals = s.invals ∧
    (s.modSlice n f).moves = s.moves ∧ (s.modSlice n f).freezing = s.freezing ∧ (s.modSlice n f).freezeOps = s.freezeOps ∧
    (s.modSlice n f).insts = s.insts ∧ (s.modSlice n f).modl = s.modl :=
  ⟨rfl, rfl, rfl, rfl, rfl, rfl, rfl, rfl, rfl, rfl, rfl, rfl, rfl, rfl, rfl, rfl, rfl, rfl, rfl, rfl, rfl, rfl, rfl, rfl, rfl, rfl, rfl, rfl, rfl, rfl, rfl, rfl⟩

@[simp] theorem State.modCtrl_rest (s : State) (n : Nat) (f : Ctrl → Ctrl) :
    (s.modCtrl n f).agenda = s.agenda ∧ (s.modCtrl n f).turnNo = s.turnNo ∧ (s.modCtrl n f).freeNo = s.freeNo ∧
    (s.modCtrl n f).loc = s.loc ∧ (s.modCtrl n f).endPhase = s.endPhase ∧ (s.modCtrl n f).cycle = s.cycle ∧
    (s.modCtrl n f).refTick = s.refTick ∧ (s.modCtrl n f).mem = s.mem ∧ (s.modCtrl n f).hbmBad = s.hbmBad ∧
    (s.modCtrl n f).lines = s.lines ∧ (s.modCtrl n f).proxies = s.proxies ∧ (s.modCtrl n f).chans = s.chans ∧
    (s.modCtrl n f).slices = s.slices ∧ (s.modCtrl n f).cores = s.cores ∧ (s.modCtrl n f).dies = s.dies ∧
    (s.modCtrl n f).phys = s.phys ∧ (s.modCtrl n f).ports = s.ports ∧ (s.modCtrl n f).conns = s.conns ∧
    (s.modCtrl n f).wire = s.wire ∧ (s.modCtrl n f).nacks = s.nacks ∧ (s.modCtrl n f).rmaNext = s.rmaNext ∧
    (s.modCtrl n f).graphs = s.graphs ∧ (s.modCtrl n f).frozen = s.frozen ∧ (s.modCtrl n f).sysq = s.sysq ∧
    (s.modCtrl n f).rewrites = s.rewrites ∧ (s.modCtrl n f).rangeq = s.rangeq ∧ (s.modCtrl n f).invals = s.invals ∧
    (s.modCtrl n f).moves = s.moves ∧ (s.modCtrl n f).freezing = s.freezing ∧ (s.modCtrl n f).freezeOps = s.freezeOps ∧
    (s.modCtrl n f).insts = s.insts ∧ (s.modCtrl n f).modl = s.modl :=
  ⟨rfl, rfl, rfl, rfl, rfl, rfl, rfl, rfl, rfl, rfl, rfl, rfl, rfl, rfl, rfl, rfl, rfl, rfl, rfl, rfl, rfl, rfl, rfl, rfl, rfl, rfl, rfl, rfl, rfl, rfl, rfl, rfl⟩

@[simp] theorem State.modPhy_rest (s : State) (n : Nat) (f : Phy → Phy) :
    (s.modPhy n f).agenda = s.agenda ∧ (s.modPhy n f).turnNo = s.turnNo ∧ (s.modPhy n f).freeNo = s.freeNo ∧
    (s.modPhy n f).loc = s.loc ∧ (s.modPhy n f).endPhase = s.endPhase ∧ (s.modPhy n f).cycle = s.cycle ∧
    (s.modPhy n f).refTick = s.refTick ∧ (s.modPhy n f).mem = s.mem ∧ (s.modPhy n f).hbmBad = s.hbmBad ∧
    (s.modPhy n f).lines = s.lines ∧ (s.modPhy n f).proxies = s.proxies ∧ (s.modPhy n f).chans = s.chans ∧
    (s.modPhy n f).slices = s.slices ∧ (s.modPhy n f).cores = s.cores ∧ (s.modPhy n f).dies = s.dies ∧
    (s.modPhy n f).ctrls = s.ctrls ∧ (s.modPhy n f).ports = s.ports ∧ (s.modPhy n f).conns = s.conns ∧ (s.modPhy n f).wire = s.wire ∧
    (s.modPhy n f).nacks = s.nacks ∧ (s.modPhy n f).rmaNext = s.rmaNext ∧ (s.modPhy n f).graphs = s.graphs ∧
    (s.modPhy n f).frozen = s.frozen ∧ (s.modPhy n f).sysq = s.sysq ∧ (s.modPhy n f).rewrites = s.rewrites ∧
    (s.modPhy n f).rangeq = s.rangeq ∧ (s.modPhy n f).invals = s.invals ∧ (s.modPhy n f).moves = s.moves ∧
    (s.modPhy n f).freezing = s.freezing ∧ (s.modPhy n f).freezeOps = s.freezeOps ∧ (s.modPhy n f).insts = s.insts ∧
    (s.modPhy n f).modl = s.modl :=
  ⟨rfl, rfl, rfl, rfl, rfl, rfl, rfl, rfl, rfl, rfl, rfl, rfl, rfl, rfl, rfl, rfl, rfl, rfl, rfl, rfl, rfl, rfl, rfl, rfl, rfl, rfl, rfl, rfl, rfl, rfl, rfl, rfl⟩

@[simp] theorem State.modPort_rest (s : State) (n : Nat) (f : Port → Port) :
    (s.modPort n f).agenda = s.agenda ∧ (s.modPort n f).turnNo = s.turnNo ∧ (s.modPort n f).freeNo = s.freeNo ∧
    (s.modPort n f).loc = s.loc ∧ (s.modPort n f).endPhase = s.endPhase ∧ (s.modPort n f).cycle = s.cycle ∧
    (s.modPort n f).refTick = s.refTick ∧ (s.modPort n f).mem = s.mem ∧ (s.modPort n f).hbmBad = s.hbmBad ∧
    (s.modPort n f).lines = s.lines ∧ (s.modPort n f).proxies = s.proxies ∧ (s.modPort n f).chans = s.chans ∧
    (s.modPort n f).slices = s.slices ∧ (s.modPort n f).cores = s.cores ∧ (s.modPort n f).dies = s.dies ∧
    (s.modPort n f).ctrls = s.ctrls ∧ (s.modPort n f).phys = s.phys ∧ (s.modPort n f).conns = s.conns ∧
    (s.modPort n f).wire = s.wire ∧ (s.modPort n f).nacks = s.nacks ∧ (s.modPort n f).rmaNext = s.rmaNext ∧
    (s.modPort n f).graphs = s.graphs ∧ (s.modPort n f).frozen = s.frozen ∧ (s.modPort n f).sysq = s.sysq ∧
    (s.modPort n f).rewrites = s.rewrites ∧ (s.modPort n f).rangeq = s.rangeq ∧ (s.modPort n f).invals = s.invals ∧
    (s.modPort n f).moves = s.moves ∧ (s.modPort n f).freezing = s.freezing ∧ (s.modPort n f).freezeOps = s.freezeOps ∧
    (s.modPort n f).insts = s.insts ∧ (s.modPort n f).modl = s.modl :=
  ⟨rfl, rfl, rfl, rfl, rfl, rfl, rfl, rfl, rfl, rfl, rfl, rfl, rfl, rfl, rfl, rfl, rfl, rfl, rfl, rfl, rfl, rfl, rfl, rfl, rfl, rfl, rfl, rfl, rfl, rfl, rfl, rfl⟩

@[simp] theorem State.modl_rest (s : State) (f : Control → Control) :
    (s.modl_ f).agenda = s.agenda ∧ (s.modl_ f).turnNo = s.turnNo ∧ (s.modl_ f).freeNo = s.freeNo ∧ (s.modl_ f).loc = s.loc ∧
    (s.modl_ f).endPhase = s.endPhase ∧ (s.modl_ f).cycle = s.cycle ∧ (s.modl_ f).refTick = s.refTick ∧ (s.modl_ f).mem = s.mem ∧
    (s.modl_ f).hbmBad = s.hbmBad ∧ (s.modl_ f).lines = s.lines ∧ (s.modl_ f).proxies = s.proxies ∧ (s.modl_ f).chans = s.chans ∧
    (s.modl_ f).slices = s.slices ∧ (s.modl_ f).cores = s.cores ∧ (s.modl_ f).dies = s.dies ∧ (s.modl_ f).ctrls = s.ctrls ∧
    (s.modl_ f).phys = s.phys ∧ (s.modl_ f).ports = s.ports ∧ (s.modl_ f).conns = s.conns ∧ (s.modl_ f).wire = s.wire ∧
    (s.modl_ f).nacks = s.nacks ∧ (s.modl_ f).rmaNext = s.rmaNext ∧ (s.modl_ f).graphs = s.graphs ∧ (s.modl_ f).frozen = s.frozen ∧
    (s.modl_ f).sysq = s.sysq ∧ (s.modl_ f).rewrites = s.rewrites ∧ (s.modl_ f).rangeq = s.rangeq ∧ (s.modl_ f).invals = s.invals ∧
    (s.modl_ f).moves = s.moves ∧ (s.modl_ f).freezing = s.freezing ∧ (s.modl_ f).freezeOps = s.freezeOps ∧
    (s.modl_ f).insts = s.insts :=
  ⟨rfl, rfl, rfl, rfl, rfl, rfl, rfl, rfl, rfl, rfl, rfl, rfl, rfl, rfl, rfl, rfl, rfl, rfl, rfl, rfl, rfl, rfl, rfl, rfl, rfl, rfl, rfl, rfl, rfl, rfl, rfl, rfl⟩

@[simp] theorem State.modSite_rest (s : State) (c k : Nat) (f : Site → Site) :
    (s.modSite c k f).agenda = s.agenda ∧ (s.modSite c k f).turnNo = s.turnNo ∧ (s.modSite c k f).freeNo = s.freeNo ∧
    (s.modSite c k f).loc = s.loc ∧ (s.modSite c k f).endPhase = s.endPhase ∧ (s.modSite c k f).cycle = s.cycle ∧
    (s.modSite c k f).refTick = s.refTick ∧ (s.modSite c k f).mem = s.mem ∧ (s.modSite c k f).hbmBad = s.hbmBad ∧
    (s.modSite c k f).lines = s.lines ∧ (s.modSite c k f).proxies = s.proxies ∧ (s.modSite c k f).chans = s.chans ∧
    (s.modSite c k f).slices = s.slices ∧ (s.modSite c k f).dies = s.dies ∧ (s.modSite c k f).ctrls = s.ctrls ∧
    (s.modSite c k f).phys = s.phys ∧ (s.modSite c k f).ports = s.ports ∧ (s.modSite c k f).conns = s.conns ∧
    (s.modSite c k f).wire = s.wire ∧ (s.modSite c k f).nacks = s.nacks ∧ (s.modSite c k f).rmaNext = s.rmaNext ∧
    (s.modSite c k f).graphs = s.graphs ∧ (s.modSite c k f).frozen = s.frozen ∧ (s.modSite c k f).sysq = s.sysq ∧
    (s.modSite c k f).rewrites = s.rewrites ∧ (s.modSite c k f).rangeq = s.rangeq ∧ (s.modSite c k f).invals = s.invals ∧
    (s.modSite c k f).moves = s.moves ∧ (s.modSite c k f).freezing = s.freezing ∧ (s.modSite c k f).freezeOps = s.freezeOps ∧
    (s.modSite c k f).insts = s.insts ∧ (s.modSite c k f).modl = s.modl :=
  ⟨rfl, rfl, rfl, rfl, rfl, rfl, rfl, rfl, rfl, rfl, rfl, rfl, rfl, rfl, rfl, rfl, rfl, rfl, rfl, rfl, rfl, rfl, rfl, rfl, rfl, rfl, rfl, rfl, rfl, rfl, rfl, rfl⟩

@[simp] theorem State.modSiteCtx_rest (s : State) (c k x : Nat) (f : SiteCtx → SiteCtx) :
    (s.modSiteCtx c k x f).agenda = s.agenda ∧ (s.modSiteCtx c k x f).turnNo = s.turnNo ∧ (s.modSiteCtx c k x f).freeNo = s.freeNo ∧
    (s.modSiteCtx c k x f).loc = s.loc ∧ (s.modSiteCtx c k x f).endPhase = s.endPhase ∧ (s.modSiteCtx c k x f).cycle = s.cycle ∧
    (s.modSiteCtx c k x f).refTick = s.refTick ∧ (s.modSiteCtx c k x f).mem = s.mem ∧ (s.modSiteCtx c k x f).hbmBad = s.hbmBad ∧
    (s.modSiteCtx c k x f).lines = s.lines ∧ (s.modSiteCtx c k x f).proxies = s.proxies ∧ (s.modSiteCtx c k x f).chans = s.chans ∧
    (s.modSiteCtx c k x f).slices = s.slices ∧ (s.modSiteCtx c k x f).dies = s.dies ∧ (s.modSiteCtx c k x f).ctrls = s.ctrls ∧
    (s.modSiteCtx c k x f).phys = s.phys ∧ (s.modSiteCtx c k x f).ports = s.ports ∧ (s.modSiteCtx c k x f).conns = s.conns ∧
    (s.modSiteCtx c k x f).wire = s.wire ∧ (s.modSiteCtx c k x f).nacks = s.nacks ∧ (s.modSiteCtx c k x f).rmaNext = s.rmaNext ∧
    (s.modSiteCtx c k x f).graphs = s.graphs ∧ (s.modSiteCtx c k x f).frozen = s.frozen ∧ (s.modSiteCtx c k x f).sysq = s.sysq ∧
    (s.modSiteCtx c k x f).rewrites = s.rewrites ∧ (s.modSiteCtx c k x f).rangeq = s.rangeq ∧
    (s.modSiteCtx c k x f).invals = s.invals ∧ (s.modSiteCtx c k x f).moves = s.moves ∧
    (s.modSiteCtx c k x f).freezing = s.freezing ∧ (s.modSiteCtx c k x f).freezeOps = s.freezeOps ∧
    (s.modSiteCtx c k x f).insts = s.insts ∧ (s.modSiteCtx c k x f).modl = s.modl :=
  ⟨rfl, rfl, rfl, rfl, rfl, rfl, rfl, rfl, rfl, rfl, rfl, rfl, rfl, rfl, rfl, rfl, rfl, rfl, rfl, rfl, rfl, rfl, rfl, rfl, rfl, rfl, rfl, rfl, rfl, rfl, rfl, rfl⟩

@[simp] theorem State.modThread_rest (s : State) (c t : Nat) (f : Thread → Thread) :
    (s.modThread c t f).agenda = s.agenda ∧ (s.modThread c t f).turnNo = s.turnNo ∧ (s.modThread c t f).freeNo = s.freeNo ∧
    (s.modThread c t f).loc = s.loc ∧ (s.modThread c t f).endPhase = s.endPhase ∧ (s.modThread c t f).cycle = s.cycle ∧
    (s.modThread c t f).refTick = s.refTick ∧ (s.modThread c t f).mem = s.mem ∧ (s.modThread c t f).hbmBad = s.hbmBad ∧
    (s.modThread c t f).lines = s.lines ∧ (s.modThread c t f).proxies = s.proxies ∧ (s.modThread c t f).chans = s.chans ∧
    (s.modThread c t f).slices = s.slices ∧ (s.modThread c t f).dies = s.dies ∧ (s.modThread c t f).ctrls = s.ctrls ∧
    (s.modThread c t f).phys = s.phys ∧ (s.modThread c t f).ports = s.ports ∧ (s.modThread c t f).conns = s.conns ∧
    (s.modThread c t f).wire = s.wire ∧ (s.modThread c t f).nacks = s.nacks ∧ (s.modThread c t f).rmaNext = s.rmaNext ∧
    (s.modThread c t f).graphs = s.graphs ∧ (s.modThread c t f).frozen = s.frozen ∧ (s.modThread c t f).sysq = s.sysq ∧
    (s.modThread c t f).rewrites = s.rewrites ∧ (s.modThread c t f).rangeq = s.rangeq ∧ (s.modThread c t f).invals = s.invals ∧
    (s.modThread c t f).moves = s.moves ∧ (s.modThread c t f).freezing = s.freezing ∧ (s.modThread c t f).freezeOps = s.freezeOps ∧
    (s.modThread c t f).insts = s.insts ∧ (s.modThread c t f).modl = s.modl :=
  ⟨rfl, rfl, rfl, rfl, rfl, rfl, rfl, rfl, rfl, rfl, rfl, rfl, rfl, rfl, rfl, rfl, rfl, rfl, rfl, rfl, rfl, rfl, rfl, rfl, rfl, rfl, rfl, rfl, rfl, rfl, rfl, rfl⟩

@[simp] theorem State.modHere_rest (s : State) (f : Core → Core) :
    (s.modHere f).agenda = s.agenda ∧ (s.modHere f).turnNo = s.turnNo ∧ (s.modHere f).freeNo = s.freeNo ∧ (s.modHere f).loc = s.loc ∧
    (s.modHere f).endPhase = s.endPhase ∧ (s.modHere f).cycle = s.cycle ∧ (s.modHere f).refTick = s.refTick ∧
    (s.modHere f).mem = s.mem ∧ (s.modHere f).hbmBad = s.hbmBad ∧ (s.modHere f).lines = s.lines ∧ (s.modHere f).proxies = s.proxies ∧
    (s.modHere f).chans = s.chans ∧ (s.modHere f).slices = s.slices ∧ (s.modHere f).dies = s.dies ∧ (s.modHere f).ctrls = s.ctrls ∧
    (s.modHere f).phys = s.phys ∧ (s.modHere f).ports = s.ports ∧ (s.modHere f).conns = s.conns ∧ (s.modHere f).wire = s.wire ∧
    (s.modHere f).nacks = s.nacks ∧ (s.modHere f).rmaNext = s.rmaNext ∧ (s.modHere f).graphs = s.graphs ∧
    (s.modHere f).frozen = s.frozen ∧ (s.modHere f).sysq = s.sysq ∧ (s.modHere f).rewrites = s.rewrites ∧
    (s.modHere f).rangeq = s.rangeq ∧ (s.modHere f).invals = s.invals ∧ (s.modHere f).moves = s.moves ∧
    (s.modHere f).freezing = s.freezing ∧ (s.modHere f).freezeOps = s.freezeOps ∧ (s.modHere f).insts = s.insts ∧
    (s.modHere f).modl = s.modl :=
  ⟨rfl, rfl, rfl, rfl, rfl, rfl, rfl, rfl, rfl, rfl, rfl, rfl, rfl, rfl, rfl, rfl, rfl, rfl, rfl, rfl, rfl, rfl, rfl, rfl, rfl, rfl, rfl, rfl, rfl, rfl, rfl, rfl⟩

@[simp] theorem State.modHereSite_rest (s : State) (f : Site → Site) :
    (s.modHereSite f).agenda = s.agenda ∧ (s.modHereSite f).turnNo = s.turnNo ∧ (s.modHereSite f).freeNo = s.freeNo ∧
    (s.modHereSite f).loc = s.loc ∧ (s.modHereSite f).endPhase = s.endPhase ∧ (s.modHereSite f).cycle = s.cycle ∧
    (s.modHereSite f).refTick = s.refTick ∧ (s.modHereSite f).mem = s.mem ∧ (s.modHereSite f).hbmBad = s.hbmBad ∧
    (s.modHereSite f).lines = s.lines ∧ (s.modHereSite f).proxies = s.proxies ∧ (s.modHereSite f).chans = s.chans ∧
    (s.modHereSite f).slices = s.slices ∧ (s.modHereSite f).dies = s.dies ∧ (s.modHereSite f).ctrls = s.ctrls ∧
    (s.modHereSite f).phys = s.phys ∧ (s.modHereSite f).ports = s.ports ∧ (s.modHereSite f).conns = s.conns ∧
    (s.modHereSite f).wire = s.wire ∧ (s.modHereSite f).nacks = s.nacks ∧ (s.modHereSite f).rmaNext = s.rmaNext ∧
    (s.modHereSite f).graphs = s.graphs ∧ (s.modHereSite f).frozen = s.frozen ∧ (s.modHereSite f).sysq = s.sysq ∧
    (s.modHereSite f).rewrites = s.rewrites ∧ (s.modHereSite f).rangeq = s.rangeq ∧ (s.modHereSite f).invals = s.invals ∧
    (s.modHereSite f).moves = s.moves ∧ (s.modHereSite f).freezing = s.freezing ∧ (s.modHereSite f).freezeOps = s.freezeOps ∧
    (s.modHereSite f).insts = s.insts ∧ (s.modHereSite f).modl = s.modl :=
  ⟨rfl, rfl, rfl, rfl, rfl, rfl, rfl, rfl, rfl, rfl, rfl, rfl, rfl, rfl, rfl, rfl, rfl, rfl, rfl, rfl, rfl, rfl, rfl, rfl, rfl, rfl, rfl, rfl, rfl, rfl, rfl, rfl⟩

@[simp] theorem State.modHereCtx_rest (s : State) (f : SiteCtx → SiteCtx) :
    (s.modHereCtx f).agenda = s.agenda ∧ (s.modHereCtx f).turnNo = s.turnNo ∧ (s.modHereCtx f).freeNo = s.freeNo ∧
    (s.modHereCtx f).loc = s.loc ∧ (s.modHereCtx f).endPhase = s.endPhase ∧ (s.modHereCtx f).cycle = s.cycle ∧
    (s.modHereCtx f).refTick = s.refTick ∧ (s.modHereCtx f).mem = s.mem ∧ (s.modHereCtx f).hbmBad = s.hbmBad ∧
    (s.modHereCtx f).lines = s.lines ∧ (s.modHereCtx f).proxies = s.proxies ∧ (s.modHereCtx f).chans = s.chans ∧
    (s.modHereCtx f).slices = s.slices ∧ (s.modHereCtx f).dies = s.dies ∧ (s.modHereCtx f).ctrls = s.ctrls ∧
    (s.modHereCtx f).phys = s.phys ∧ (s.modHereCtx f).ports = s.ports ∧ (s.modHereCtx f).conns = s.conns ∧
    (s.modHereCtx f).wire = s.wire ∧ (s.modHereCtx f).nacks = s.nacks ∧ (s.modHereCtx f).rmaNext = s.rmaNext ∧
    (s.modHereCtx f).graphs = s.graphs ∧ (s.modHereCtx f).frozen = s.frozen ∧ (s.modHereCtx f).sysq = s.sysq ∧
    (s.modHereCtx f).rewrites = s.rewrites ∧ (s.modHereCtx f).rangeq = s.rangeq ∧ (s.modHereCtx f).invals = s.invals ∧
    (s.modHereCtx f).moves = s.moves ∧ (s.modHereCtx f).freezing = s.freezing ∧ (s.modHereCtx f).freezeOps = s.freezeOps ∧
    (s.modHereCtx f).insts = s.insts ∧ (s.modHereCtx f).modl = s.modl :=
  ⟨rfl, rfl, rfl, rfl, rfl, rfl, rfl, rfl, rfl, rfl, rfl, rfl, rfl, rfl, rfl, rfl, rfl, rfl, rfl, rfl, rfl, rfl, rfl, rfl, rfl, rfl, rfl, rfl, rfl, rfl, rfl, rfl⟩

@[simp] theorem State.spendSite_rest (s : State) :
    (s.spendSite).agenda = s.agenda ∧ (s.spendSite).turnNo = s.turnNo ∧ (s.spendSite).freeNo = s.freeNo ∧ (s.spendSite).loc = s.loc ∧
    (s.spendSite).endPhase = s.endPhase ∧ (s.spendSite).cycle = s.cycle ∧ (s.spendSite).refTick = s.refTick ∧
    (s.spendSite).mem = s.mem ∧ (s.spendSite).hbmBad = s.hbmBad ∧ (s.spendSite).lines = s.lines ∧ (s.spendSite).proxies = s.proxies ∧
    (s.spendSite).chans = s.chans ∧ (s.spendSite).slices = s.slices ∧ (s.spendSite).dies = s.dies ∧ (s.spendSite).ctrls = s.ctrls ∧
    (s.spendSite).phys = s.phys ∧ (s.spendSite).ports = s.ports ∧ (s.spendSite).conns = s.conns ∧ (s.spendSite).wire = s.wire ∧
    (s.spendSite).nacks = s.nacks ∧ (s.spendSite).rmaNext = s.rmaNext ∧ (s.spendSite).graphs = s.graphs ∧
    (s.spendSite).frozen = s.frozen ∧ (s.spendSite).sysq = s.sysq ∧ (s.spendSite).rewrites = s.rewrites ∧
    (s.spendSite).rangeq = s.rangeq ∧ (s.spendSite).invals = s.invals ∧ (s.spendSite).moves = s.moves ∧
    (s.spendSite).freezing = s.freezing ∧ (s.spendSite).freezeOps = s.freezeOps ∧ (s.spendSite).insts = s.insts ∧
    (s.spendSite).modl = s.modl :=
  ⟨rfl, rfl, rfl, rfl, rfl, rfl, rfl, rfl, rfl, rfl, rfl, rfl, rfl, rfl, rfl, rfl, rfl, rfl, rfl, rfl, rfl, rfl, rfl, rfl, rfl, rfl, rfl, rfl, rfl, rfl, rfl, rfl⟩

@[simp] theorem State.setChan_rest (s : State) (c : Nat) (x : Chan) :
    (s.setChan c x).agenda = s.agenda ∧ (s.setChan c x).turnNo = s.turnNo ∧ (s.setChan c x).freeNo = s.freeNo ∧
    (s.setChan c x).loc = s.loc ∧ (s.setChan c x).endPhase = s.endPhase ∧ (s.setChan c x).cycle = s.cycle ∧
    (s.setChan c x).refTick = s.refTick ∧ (s.setChan c x).mem = s.mem ∧ (s.setChan c x).hbmBad = s.hbmBad ∧
    (s.setChan c x).lines = s.lines ∧ (s.setChan c x).proxies = s.proxies ∧ (s.setChan c x).slices = s.slices ∧
    (s.setChan c x).cores = s.cores ∧ (s.setChan c x).dies = s.dies ∧ (s.setChan c x).ctrls = s.ctrls ∧
    (s.setChan c x).phys = s.phys ∧ (s.setChan c x).ports = s.ports ∧ (s.setChan c x).conns = s.conns ∧
    (s.setChan c x).wire = s.wire ∧ (s.setChan c x).nacks = s.nacks ∧ (s.setChan c x).rmaNext = s.rmaNext ∧
    (s.setChan c x).graphs = s.graphs ∧ (s.setChan c x).frozen = s.frozen ∧ (s.setChan c x).sysq = s.sysq ∧
    (s.setChan c x).rewrites = s.rewrites ∧ (s.setChan c x).rangeq = s.rangeq ∧ (s.setChan c x).invals = s.invals ∧
    (s.setChan c x).moves = s.moves ∧ (s.setChan c x).freezing = s.freezing ∧ (s.setChan c x).freezeOps = s.freezeOps ∧
    (s.setChan c x).insts = s.insts ∧ (s.setChan c x).modl = s.modl :=
  ⟨rfl, rfl, rfl, rfl, rfl, rfl, rfl, rfl, rfl, rfl, rfl, rfl, rfl, rfl, rfl, rfl, rfl, rfl, rfl, rfl, rfl, rfl, rfl, rfl, rfl, rfl, rfl, rfl, rfl, rfl, rfl, rfl⟩

@[simp] theorem State.enqueue_rest (s : State) (c w : Nat) (p : Pkt) :
    (s.enqueue c w p).agenda = s.agenda ∧ (s.enqueue c w p).turnNo = s.turnNo ∧ (s.enqueue c w p).freeNo = s.freeNo ∧
    (s.enqueue c w p).loc = s.loc ∧ (s.enqueue c w p).endPhase = s.endPhase ∧ (s.enqueue c w p).cycle = s.cycle ∧
    (s.enqueue c w p).refTick = s.refTick ∧ (s.enqueue c w p).mem = s.mem ∧ (s.enqueue c w p).hbmBad = s.hbmBad ∧
    (s.enqueue c w p).lines = s.lines ∧ (s.enqueue c w p).proxies = s.proxies ∧ (s.enqueue c w p).slices = s.slices ∧
    (s.enqueue c w p).cores = s.cores ∧ (s.enqueue c w p).dies = s.dies ∧ (s.enqueue c w p).ctrls = s.ctrls ∧
    (s.enqueue c w p).phys = s.phys ∧ (s.enqueue c w p).ports = s.ports ∧ (s.enqueue c w p).conns = s.conns ∧
    (s.enqueue c w p).wire = s.wire ∧ (s.enqueue c w p).nacks = s.nacks ∧ (s.enqueue c w p).rmaNext = s.rmaNext ∧
    (s.enqueue c w p).graphs = s.graphs ∧ (s.enqueue c w p).frozen = s.frozen ∧ (s.enqueue c w p).sysq = s.sysq ∧
    (s.enqueue c w p).rewrites = s.rewrites ∧ (s.enqueue c w p).rangeq = s.rangeq ∧ (s.enqueue c w p).invals = s.invals ∧
    (s.enqueue c w p).moves = s.moves ∧ (s.enqueue c w p).freezing = s.freezing ∧ (s.enqueue c w p).freezeOps = s.freezeOps ∧
    (s.enqueue c w p).insts = s.insts ∧ (s.enqueue c w p).modl = s.modl :=
  ⟨rfl, rfl, rfl, rfl, rfl, rfl, rfl, rfl, rfl, rfl, rfl, rfl, rfl, rfl, rfl, rfl, rfl, rfl, rfl, rfl, rfl, rfl, rfl, rfl, rfl, rfl, rfl, rfl, rfl, rfl, rfl, rfl⟩

@[simp] theorem State.toHome_rest (s : State) (k : Nat) (p : Pkt) :
    (s.toHome k p).agenda = s.agenda ∧ (s.toHome k p).turnNo = s.turnNo ∧ (s.toHome k p).freeNo = s.freeNo ∧
    (s.toHome k p).loc = s.loc ∧ (s.toHome k p).endPhase = s.endPhase ∧ (s.toHome k p).cycle = s.cycle ∧
    (s.toHome k p).refTick = s.refTick ∧ (s.toHome k p).mem = s.mem ∧ (s.toHome k p).hbmBad = s.hbmBad ∧
    (s.toHome k p).lines = s.lines ∧ (s.toHome k p).proxies = s.proxies ∧ (s.toHome k p).slices = s.slices ∧
    (s.toHome k p).cores = s.cores ∧ (s.toHome k p).dies = s.dies ∧ (s.toHome k p).ctrls = s.ctrls ∧ (s.toHome k p).phys = s.phys ∧
    (s.toHome k p).ports = s.ports ∧ (s.toHome k p).conns = s.conns ∧ (s.toHome k p).wire = s.wire ∧ (s.toHome k p).nacks = s.nacks ∧
    (s.toHome k p).rmaNext = s.rmaNext ∧ (s.toHome k p).graphs = s.graphs ∧ (s.toHome k p).frozen = s.frozen ∧
    (s.toHome k p).sysq = s.sysq ∧ (s.toHome k p).rewrites = s.rewrites ∧ (s.toHome k p).rangeq = s.rangeq ∧
    (s.toHome k p).invals = s.invals ∧ (s.toHome k p).moves = s.moves ∧ (s.toHome k p).freezing = s.freezing ∧
    (s.toHome k p).freezeOps = s.freezeOps ∧ (s.toHome k p).insts = s.insts ∧ (s.toHome k p).modl = s.modl :=
  ⟨rfl, rfl, rfl, rfl, rfl, rfl, rfl, rfl, rfl, rfl, rfl, rfl, rfl, rfl, rfl, rfl, rfl, rfl, rfl, rfl, rfl, rfl, rfl, rfl, rfl, rfl, rfl, rfl, rfl, rfl, rfl, rfl⟩

@[simp] theorem State.toSlice_rest (s : State) (n : Nat) (p : Pkt) :
    (s.toSlice n p).agenda = s.agenda ∧ (s.toSlice n p).turnNo = s.turnNo ∧ (s.toSlice n p).freeNo = s.freeNo ∧
    (s.toSlice n p).loc = s.loc ∧ (s.toSlice n p).endPhase = s.endPhase ∧ (s.toSlice n p).cycle = s.cycle ∧
    (s.toSlice n p).refTick = s.refTick ∧ (s.toSlice n p).mem = s.mem ∧ (s.toSlice n p).hbmBad = s.hbmBad ∧
    (s.toSlice n p).lines = s.lines ∧ (s.toSlice n p).proxies = s.proxies ∧ (s.toSlice n p).chans = s.chans ∧
    (s.toSlice n p).cores = s.cores ∧ (s.toSlice n p).dies = s.dies ∧ (s.toSlice n p).ctrls = s.ctrls ∧
    (s.toSlice n p).phys = s.phys ∧ (s.toSlice n p).ports = s.ports ∧ (s.toSlice n p).conns = s.conns ∧
    (s.toSlice n p).wire = s.wire ∧ (s.toSlice n p).nacks = s.nacks ∧ (s.toSlice n p).rmaNext = s.rmaNext ∧
    (s.toSlice n p).graphs = s.graphs ∧ (s.toSlice n p).frozen = s.frozen ∧ (s.toSlice n p).sysq = s.sysq ∧
    (s.toSlice n p).rewrites = s.rewrites ∧ (s.toSlice n p).rangeq = s.rangeq ∧ (s.toSlice n p).invals = s.invals ∧
    (s.toSlice n p).moves = s.moves ∧ (s.toSlice n p).freezing = s.freezing ∧ (s.toSlice n p).freezeOps = s.freezeOps ∧
    (s.toSlice n p).insts = s.insts ∧ (s.toSlice n p).modl = s.modl :=
  ⟨rfl, rfl, rfl, rfl, rfl, rfl, rfl, rfl, rfl, rfl, rfl, rfl, rfl, rfl, rfl, rfl, rfl, rfl, rfl, rfl, rfl, rfl, rfl, rfl, rfl, rfl, rfl, rfl, rfl, rfl, rfl, rfl⟩

@[simp] theorem State.toCore_rest (s : State) (n : Nat) (p : Pkt) :
    (s.toCore n p).agenda = s.agenda ∧ (s.toCore n p).turnNo = s.turnNo ∧ (s.toCore n p).freeNo = s.freeNo ∧
    (s.toCore n p).loc = s.loc ∧ (s.toCore n p).endPhase = s.endPhase ∧ (s.toCore n p).cycle = s.cycle ∧
    (s.toCore n p).refTick = s.refTick ∧ (s.toCore n p).mem = s.mem ∧ (s.toCore n p).hbmBad = s.hbmBad ∧
    (s.toCore n p).lines = s.lines ∧ (s.toCore n p).proxies = s.proxies ∧ (s.toCore n p).slices = s.slices ∧
    (s.toCore n p).cores = s.cores ∧ (s.toCore n p).dies = s.dies ∧ (s.toCore n p).ctrls = s.ctrls ∧ (s.toCore n p).phys = s.phys ∧
    (s.toCore n p).ports = s.ports ∧ (s.toCore n p).conns = s.conns ∧ (s.toCore n p).wire = s.wire ∧ (s.toCore n p).nacks = s.nacks ∧
    (s.toCore n p).rmaNext = s.rmaNext ∧ (s.toCore n p).graphs = s.graphs ∧ (s.toCore n p).frozen = s.frozen ∧
    (s.toCore n p).sysq = s.sysq ∧ (s.toCore n p).rewrites = s.rewrites ∧ (s.toCore n p).rangeq = s.rangeq ∧
    (s.toCore n p).invals = s.invals ∧ (s.toCore n p).moves = s.moves ∧ (s.toCore n p).freezing = s.freezing ∧
    (s.toCore n p).freezeOps = s.freezeOps ∧ (s.toCore n p).insts = s.insts ∧ (s.toCore n p).modl = s.modl :=
  ⟨rfl, rfl, rfl, rfl, rfl, rfl, rfl, rfl, rfl, rfl, rfl, rfl, rfl, rfl, rfl, rfl, rfl, rfl, rfl, rfl, rfl, rfl, rfl, rfl, rfl, rfl, rfl, rfl, rfl, rfl, rfl, rfl⟩

@[simp] theorem State.setLine_rest (s : State) (l : Nat) (x : Line) :
    (s.setLine l x).agenda = s.agenda ∧ (s.setLine l x).turnNo = s.turnNo ∧ (s.setLine l x).freeNo = s.freeNo ∧
    (s.setLine l x).loc = s.loc ∧ (s.setLine l x).endPhase = s.endPhase ∧ (s.setLine l x).cycle = s.cycle ∧
    (s.setLine l x).refTick = s.refTick ∧ (s.setLine l x).mem = s.mem ∧ (s.setLine l x).hbmBad = s.hbmBad ∧
    (s.setLine l x).proxies = s.proxies ∧ (s.setLine l x).chans = s.chans ∧ (s.setLine l x).slices = s.slices ∧
    (s.setLine l x).cores = s.cores ∧ (s.setLine l x).dies = s.dies ∧ (s.setLine l x).ctrls = s.ctrls ∧
    (s.setLine l x).phys = s.phys ∧ (s.setLine l x).ports = s.ports ∧ (s.setLine l x).conns = s.conns ∧
    (s.setLine l x).wire = s.wire ∧ (s.setLine l x).nacks = s.nacks ∧ (s.setLine l x).rmaNext = s.rmaNext ∧
    (s.setLine l x).graphs = s.graphs ∧ (s.setLine l x).frozen = s.frozen ∧ (s.setLine l x).sysq = s.sysq ∧
    (s.setLine l x).rewrites = s.rewrites ∧ (s.setLine l x).rangeq = s.rangeq ∧ (s.setLine l x).invals = s.invals ∧
    (s.setLine l x).moves = s.moves ∧ (s.setLine l x).freezing = s.freezing ∧ (s.setLine l x).freezeOps = s.freezeOps ∧
    (s.setLine l x).insts = s.insts ∧ (s.setLine l x).modl = s.modl :=
  ⟨rfl, rfl, rfl, rfl, rfl, rfl, rfl, rfl, rfl, rfl, rfl, rfl, rfl, rfl, rfl, rfl, rfl, rfl, rfl, rfl, rfl, rfl, rfl, rfl, rfl, rfl, rfl, rfl, rfl, rfl, rfl, rfl⟩

@[simp] theorem State.modLine_rest (s : State) (l : Nat) (f : Line → Line) :
    (s.modLine l f).agenda = s.agenda ∧ (s.modLine l f).turnNo = s.turnNo ∧ (s.modLine l f).freeNo = s.freeNo ∧
    (s.modLine l f).loc = s.loc ∧ (s.modLine l f).endPhase = s.endPhase ∧ (s.modLine l f).cycle = s.cycle ∧
    (s.modLine l f).refTick = s.refTick ∧ (s.modLine l f).mem = s.mem ∧ (s.modLine l f).hbmBad = s.hbmBad ∧
    (s.modLine l f).proxies = s.proxies ∧ (s.modLine l f).chans = s.chans ∧ (s.modLine l f).slices = s.slices ∧
    (s.modLine l f).cores = s.cores ∧ (s.modLine l f).dies = s.dies ∧ (s.modLine l f).ctrls = s.ctrls ∧
    (s.modLine l f).phys = s.phys ∧ (s.modLine l f).ports = s.ports ∧ (s.modLine l f).conns = s.conns ∧
    (s.modLine l f).wire = s.wire ∧ (s.modLine l f).nacks = s.nacks ∧ (s.modLine l f).rmaNext = s.rmaNext ∧
    (s.modLine l f).graphs = s.graphs ∧ (s.modLine l f).frozen = s.frozen ∧ (s.modLine l f).sysq = s.sysq ∧
    (s.modLine l f).rewrites = s.rewrites ∧ (s.modLine l f).rangeq = s.rangeq ∧ (s.modLine l f).invals = s.invals ∧
    (s.modLine l f).moves = s.moves ∧ (s.modLine l f).freezing = s.freezing ∧ (s.modLine l f).freezeOps = s.freezeOps ∧
    (s.modLine l f).insts = s.insts ∧ (s.modLine l f).modl = s.modl :=
  ⟨rfl, rfl, rfl, rfl, rfl, rfl, rfl, rfl, rfl, rfl, rfl, rfl, rfl, rfl, rfl, rfl, rfl, rfl, rfl, rfl, rfl, rfl, rfl, rfl, rfl, rfl, rfl, rfl, rfl, rfl, rfl, rfl⟩

@[simp] theorem State.setProxy_rest (s : State) (d l : Nat) (x : Line) :
    (s.setProxy d l x).agenda = s.agenda ∧ (s.setProxy d l x).turnNo = s.turnNo ∧ (s.setProxy d l x).freeNo = s.freeNo ∧
    (s.setProxy d l x).loc = s.loc ∧ (s.setProxy d l x).endPhase = s.endPhase ∧ (s.setProxy d l x).cycle = s.cycle ∧
    (s.setProxy d l x).refTick = s.refTick ∧ (s.setProxy d l x).mem = s.mem ∧ (s.setProxy d l x).hbmBad = s.hbmBad ∧
    (s.setProxy d l x).lines = s.lines ∧ (s.setProxy d l x).chans = s.chans ∧ (s.setProxy d l x).slices = s.slices ∧
    (s.setProxy d l x).cores = s.cores ∧ (s.setProxy d l x).dies = s.dies ∧ (s.setProxy d l x).ctrls = s.ctrls ∧
    (s.setProxy d l x).phys = s.phys ∧ (s.setProxy d l x).ports = s.ports ∧ (s.setProxy d l x).conns = s.conns ∧
    (s.setProxy d l x).wire = s.wire ∧ (s.setProxy d l x).nacks = s.nacks ∧ (s.setProxy d l x).rmaNext = s.rmaNext ∧
    (s.setProxy d l x).graphs = s.graphs ∧ (s.setProxy d l x).frozen = s.frozen ∧ (s.setProxy d l x).sysq = s.sysq ∧
    (s.setProxy d l x).rewrites = s.rewrites ∧ (s.setProxy d l x).rangeq = s.rangeq ∧ (s.setProxy d l x).invals = s.invals ∧
    (s.setProxy d l x).moves = s.moves ∧ (s.setProxy d l x).freezing = s.freezing ∧ (s.setProxy d l x).freezeOps = s.freezeOps ∧
    (s.setProxy d l x).insts = s.insts ∧ (s.setProxy d l x).modl = s.modl :=
  ⟨rfl, rfl, rfl, rfl, rfl, rfl, rfl, rfl, rfl, rfl, rfl, rfl, rfl, rfl, rfl, rfl, rfl, rfl, rfl, rfl, rfl, rfl, rfl, rfl, rfl, rfl, rfl, rfl, rfl, rfl, rfl, rfl⟩

@[simp] theorem State.dropPkt_rest (s : State) (n i : Nat) :
    (s.dropPkt n i).agenda = s.agenda ∧ (s.dropPkt n i).turnNo = s.turnNo ∧ (s.dropPkt n i).freeNo = s.freeNo ∧
    (s.dropPkt n i).loc = s.loc ∧ (s.dropPkt n i).endPhase = s.endPhase ∧ (s.dropPkt n i).cycle = s.cycle ∧
    (s.dropPkt n i).refTick = s.refTick ∧ (s.dropPkt n i).mem = s.mem ∧ (s.dropPkt n i).hbmBad = s.hbmBad ∧
    (s.dropPkt n i).lines = s.lines ∧ (s.dropPkt n i).proxies = s.proxies ∧ (s.dropPkt n i).chans = s.chans ∧
    (s.dropPkt n i).cores = s.cores ∧ (s.dropPkt n i).dies = s.dies ∧ (s.dropPkt n i).ctrls = s.ctrls ∧
    (s.dropPkt n i).phys = s.phys ∧ (s.dropPkt n i).ports = s.ports ∧ (s.dropPkt n i).conns = s.conns ∧
    (s.dropPkt n i).wire = s.wire ∧ (s.dropPkt n i).nacks = s.nacks ∧ (s.dropPkt n i).rmaNext = s.rmaNext ∧
    (s.dropPkt n i).graphs = s.graphs ∧ (s.dropPkt n i).frozen = s.frozen ∧ (s.dropPkt n i).sysq = s.sysq ∧
    (s.dropPkt n i).rewrites = s.rewrites ∧ (s.dropPkt n i).rangeq = s.rangeq ∧ (s.dropPkt n i).invals = s.invals ∧
    (s.dropPkt n i).moves = s.moves ∧ (s.dropPkt n i).freezing = s.freezing ∧ (s.dropPkt n i).freezeOps = s.freezeOps ∧
    (s.dropPkt n i).insts = s.insts ∧ (s.dropPkt n i).modl = s.modl :=
  ⟨rfl, rfl, rfl, rfl, rfl, rfl, rfl, rfl, rfl, rfl, rfl, rfl, rfl, rfl, rfl, rfl, rfl, rfl, rfl, rfl, rfl, rfl, rfl, rfl, rfl, rfl, rfl, rfl, rfl, rfl, rfl, rfl⟩

@[simp] theorem State.takePkt_rest (s : State) (c i : Nat) :
    (s.takePkt c i).agenda = s.agenda ∧ (s.takePkt c i).turnNo = s.turnNo ∧ (s.takePkt c i).freeNo = s.freeNo ∧
    (s.takePkt c i).loc = s.loc ∧ (s.takePkt c i).endPhase = s.endPhase ∧ (s.takePkt c i).cycle = s.cycle ∧
    (s.takePkt c i).refTick = s.refTick ∧ (s.takePkt c i).mem = s.mem ∧ (s.takePkt c i).hbmBad = s.hbmBad ∧
    (s.takePkt c i).lines = s.lines ∧ (s.takePkt c i).proxies = s.proxies ∧ (s.takePkt c i).chans = s.chans ∧
    (s.takePkt c i).slices = s.slices ∧ (s.takePkt c i).dies = s.dies ∧ (s.takePkt c i).ctrls = s.ctrls ∧
    (s.takePkt c i).phys = s.phys ∧ (s.takePkt c i).ports = s.ports ∧ (s.takePkt c i).conns = s.conns ∧
    (s.takePkt c i).wire = s.wire ∧ (s.takePkt c i).nacks = s.nacks ∧ (s.takePkt c i).rmaNext = s.rmaNext ∧
    (s.takePkt c i).graphs = s.graphs ∧ (s.takePkt c i).frozen = s.frozen ∧ (s.takePkt c i).sysq = s.sysq ∧
    (s.takePkt c i).rewrites = s.rewrites ∧ (s.takePkt c i).rangeq = s.rangeq ∧ (s.takePkt c i).invals = s.invals ∧
    (s.takePkt c i).moves = s.moves ∧ (s.takePkt c i).freezing = s.freezing ∧ (s.takePkt c i).freezeOps = s.freezeOps ∧
    (s.takePkt c i).insts = s.insts ∧ (s.takePkt c i).modl = s.modl :=
  ⟨rfl, rfl, rfl, rfl, rfl, rfl, rfl, rfl, rfl, rfl, rfl, rfl, rfl, rfl, rfl, rfl, rfl, rfl, rfl, rfl, rfl, rfl, rfl, rfl, rfl, rfl, rfl, rfl, rfl, rfl, rfl, rfl⟩

@[simp] theorem State.modPc_rest (s : State) (c p : Nat) (f : Pc → Pc) :
    (s.modPc c p f).agenda = s.agenda ∧ (s.modPc c p f).turnNo = s.turnNo ∧ (s.modPc c p f).freeNo = s.freeNo ∧
    (s.modPc c p f).loc = s.loc ∧ (s.modPc c p f).endPhase = s.endPhase ∧ (s.modPc c p f).cycle = s.cycle ∧
    (s.modPc c p f).refTick = s.refTick ∧ (s.modPc c p f).mem = s.mem ∧ (s.modPc c p f).hbmBad = s.hbmBad ∧
    (s.modPc c p f).lines = s.lines ∧ (s.modPc c p f).proxies = s.proxies ∧ (s.modPc c p f).chans = s.chans ∧
    (s.modPc c p f).slices = s.slices ∧ (s.modPc c p f).cores = s.cores ∧ (s.modPc c p f).dies = s.dies ∧
    (s.modPc c p f).phys = s.phys ∧ (s.modPc c p f).ports = s.ports ∧ (s.modPc c p f).conns = s.conns ∧
    (s.modPc c p f).wire = s.wire ∧ (s.modPc c p f).nacks = s.nacks ∧ (s.modPc c p f).rmaNext = s.rmaNext ∧
    (s.modPc c p f).graphs = s.graphs ∧ (s.modPc c p f).frozen = s.frozen ∧ (s.modPc c p f).sysq = s.sysq ∧
    (s.modPc c p f).rewrites = s.rewrites ∧ (s.modPc c p f).rangeq = s.rangeq ∧ (s.modPc c p f).invals = s.invals ∧
    (s.modPc c p f).moves = s.moves ∧ (s.modPc c p f).freezing = s.freezing ∧ (s.modPc c p f).freezeOps = s.freezeOps ∧
    (s.modPc c p f).insts = s.insts ∧ (s.modPc c p f).modl = s.modl :=
  ⟨rfl, rfl, rfl, rfl, rfl, rfl, rfl, rfl, rfl, rfl, rfl, rfl, rfl, rfl, rfl, rfl, rfl, rfl, rfl, rfl, rfl, rfl, rfl, rfl, rfl, rfl, rfl, rfl, rfl, rfl, rfl, rfl⟩

@[simp] theorem State.send_rest (s : State) (n c t : Nat) (b : Bytes) :
    (s.send n c t b).agenda = s.agenda ∧ (s.send n c t b).turnNo = s.turnNo ∧ (s.send n c t b).freeNo = s.freeNo ∧
    (s.send n c t b).loc = s.loc ∧ (s.send n c t b).endPhase = s.endPhase ∧ (s.send n c t b).cycle = s.cycle ∧
    (s.send n c t b).refTick = s.refTick ∧ (s.send n c t b).mem = s.mem ∧ (s.send n c t b).hbmBad = s.hbmBad ∧
    (s.send n c t b).lines = s.lines ∧ (s.send n c t b).proxies = s.proxies ∧ (s.send n c t b).chans = s.chans ∧
    (s.send n c t b).slices = s.slices ∧ (s.send n c t b).cores = s.cores ∧ (s.send n c t b).dies = s.dies ∧
    (s.send n c t b).ctrls = s.ctrls ∧ (s.send n c t b).phys = s.phys ∧ (s.send n c t b).ports = s.ports ∧
    (s.send n c t b).conns = s.conns ∧ (s.send n c t b).wire = s.wire ∧ (s.send n c t b).nacks = s.nacks ∧
    (s.send n c t b).rmaNext = s.rmaNext ∧ (s.send n c t b).graphs = s.graphs ∧ (s.send n c t b).frozen = s.frozen ∧
    (s.send n c t b).sysq = s.sysq ∧ (s.send n c t b).rewrites = s.rewrites ∧ (s.send n c t b).rangeq = s.rangeq ∧
    (s.send n c t b).invals = s.invals ∧ (s.send n c t b).moves = s.moves ∧ (s.send n c t b).freezing = s.freezing ∧
    (s.send n c t b).freezeOps = s.freezeOps ∧ (s.send n c t b).insts = s.insts :=
  ⟨rfl, rfl, rfl, rfl, rfl, rfl, rfl, rfl, rfl, rfl, rfl, rfl, rfl, rfl, rfl, rfl, rfl, rfl, rfl, rfl, rfl, rfl, rfl, rfl, rfl, rfl, rfl, rfl, rfl, rfl, rfl, rfl⟩

@[simp] theorem State.setIrrev_rest (s : State) (c t : Nat) :
    (s.setIrrev c t).agenda = s.agenda ∧ (s.setIrrev c t).turnNo = s.turnNo ∧ (s.setIrrev c t).freeNo = s.freeNo ∧
    (s.setIrrev c t).loc = s.loc ∧ (s.setIrrev c t).endPhase = s.endPhase ∧ (s.setIrrev c t).cycle = s.cycle ∧
    (s.setIrrev c t).refTick = s.refTick ∧ (s.setIrrev c t).mem = s.mem ∧ (s.setIrrev c t).hbmBad = s.hbmBad ∧
    (s.setIrrev c t).lines = s.lines ∧ (s.setIrrev c t).proxies = s.proxies ∧ (s.setIrrev c t).chans = s.chans ∧
    (s.setIrrev c t).slices = s.slices ∧ (s.setIrrev c t).dies = s.dies ∧ (s.setIrrev c t).ctrls = s.ctrls ∧
    (s.setIrrev c t).phys = s.phys ∧ (s.setIrrev c t).ports = s.ports ∧ (s.setIrrev c t).conns = s.conns ∧
    (s.setIrrev c t).wire = s.wire ∧ (s.setIrrev c t).nacks = s.nacks ∧ (s.setIrrev c t).rmaNext = s.rmaNext ∧
    (s.setIrrev c t).graphs = s.graphs ∧ (s.setIrrev c t).frozen = s.frozen ∧ (s.setIrrev c t).sysq = s.sysq ∧
    (s.setIrrev c t).rewrites = s.rewrites ∧ (s.setIrrev c t).rangeq = s.rangeq ∧ (s.setIrrev c t).invals = s.invals ∧
    (s.setIrrev c t).moves = s.moves ∧ (s.setIrrev c t).freezing = s.freezing ∧ (s.setIrrev c t).freezeOps = s.freezeOps ∧
    (s.setIrrev c t).insts = s.insts ∧ (s.setIrrev c t).modl = s.modl :=
  ⟨rfl, rfl, rfl, rfl, rfl, rfl, rfl, rfl, rfl, rfl, rfl, rfl, rfl, rfl, rfl, rfl, rfl, rfl, rfl, rfl, rfl, rfl, rfl, rfl, rfl, rfl, rfl, rfl, rfl, rfl, rfl, rfl⟩

@[simp] theorem State.record_rest (s : State) (d g : Nat) (r : TraceRec) :
    (s.record d g r).agenda = s.agenda ∧ (s.record d g r).turnNo = s.turnNo ∧ (s.record d g r).freeNo = s.freeNo ∧
    (s.record d g r).loc = s.loc ∧ (s.record d g r).endPhase = s.endPhase ∧ (s.record d g r).cycle = s.cycle ∧
    (s.record d g r).refTick = s.refTick ∧ (s.record d g r).mem = s.mem ∧ (s.record d g r).hbmBad = s.hbmBad ∧
    (s.record d g r).lines = s.lines ∧ (s.record d g r).proxies = s.proxies ∧ (s.record d g r).chans = s.chans ∧
    (s.record d g r).slices = s.slices ∧ (s.record d g r).cores = s.cores ∧ (s.record d g r).ctrls = s.ctrls ∧
    (s.record d g r).phys = s.phys ∧ (s.record d g r).ports = s.ports ∧ (s.record d g r).conns = s.conns ∧
    (s.record d g r).wire = s.wire ∧ (s.record d g r).nacks = s.nacks ∧ (s.record d g r).rmaNext = s.rmaNext ∧
    (s.record d g r).graphs = s.graphs ∧ (s.record d g r).frozen = s.frozen ∧ (s.record d g r).sysq = s.sysq ∧
    (s.record d g r).rewrites = s.rewrites ∧ (s.record d g r).rangeq = s.rangeq ∧ (s.record d g r).invals = s.invals ∧
    (s.record d g r).moves = s.moves ∧ (s.record d g r).freezing = s.freezing ∧ (s.record d g r).freezeOps = s.freezeOps ∧
    (s.record d g r).insts = s.insts ∧ (s.record d g r).modl = s.modl :=
  ⟨rfl, rfl, rfl, rfl, rfl, rfl, rfl, rfl, rfl, rfl, rfl, rfl, rfl, rfl, rfl, rfl, rfl, rfl, rfl, rfl, rfl, rfl, rfl, rfl, rfl, rfl, rfl, rfl, rfl, rfl, rfl, rfl⟩

@[simp] theorem State.endOp_rest (s : State) (e : EndOp) :
    (s.endOp e).agenda = s.agenda ∧ (s.endOp e).turnNo = s.turnNo ∧ (s.endOp e).freeNo = s.freeNo ∧ (s.endOp e).loc = s.loc ∧
    (s.endOp e).endPhase = s.endPhase ∧ (s.endOp e).cycle = s.cycle ∧ (s.endOp e).refTick = s.refTick ∧ (s.endOp e).mem = s.mem ∧
    (s.endOp e).hbmBad = s.hbmBad ∧ (s.endOp e).lines = s.lines ∧ (s.endOp e).proxies = s.proxies ∧ (s.endOp e).chans = s.chans ∧
    (s.endOp e).slices = s.slices ∧ (s.endOp e).dies = s.dies ∧ (s.endOp e).ctrls = s.ctrls ∧ (s.endOp e).phys = s.phys ∧
    (s.endOp e).ports = s.ports ∧ (s.endOp e).conns = s.conns ∧ (s.endOp e).wire = s.wire ∧ (s.endOp e).nacks = s.nacks ∧
    (s.endOp e).rmaNext = s.rmaNext ∧ (s.endOp e).graphs = s.graphs ∧ (s.endOp e).frozen = s.frozen ∧ (s.endOp e).sysq = s.sysq ∧
    (s.endOp e).rewrites = s.rewrites ∧ (s.endOp e).rangeq = s.rangeq ∧ (s.endOp e).invals = s.invals ∧ (s.endOp e).moves = s.moves ∧
    (s.endOp e).freezing = s.freezing ∧ (s.endOp e).freezeOps = s.freezeOps ∧ (s.endOp e).insts = s.insts ∧
    (s.endOp e).modl = s.modl :=
  ⟨rfl, rfl, rfl, rfl, rfl, rfl, rfl, rfl, rfl, rfl, rfl, rfl, rfl, rfl, rfl, rfl, rfl, rfl, rfl, rfl, rfl, rfl, rfl, rfl, rfl, rfl, rfl, rfl, rfl, rfl, rfl, rfl⟩

@[simp] theorem State.tileWrite_rest (s : State) (d t o : Nat) (b : Bytes) (n : Nat) :
    (s.tileWrite d t o b n).agenda = s.agenda ∧ (s.tileWrite d t o b n).turnNo = s.turnNo ∧
    (s.tileWrite d t o b n).freeNo = s.freeNo ∧ (s.tileWrite d t o b n).loc = s.loc ∧ (s.tileWrite d t o b n).endPhase = s.endPhase ∧
    (s.tileWrite d t o b n).cycle = s.cycle ∧ (s.tileWrite d t o b n).refTick = s.refTick ∧ (s.tileWrite d t o b n).mem = s.mem ∧
    (s.tileWrite d t o b n).hbmBad = s.hbmBad ∧ (s.tileWrite d t o b n).lines = s.lines ∧
    (s.tileWrite d t o b n).proxies = s.proxies ∧ (s.tileWrite d t o b n).chans = s.chans ∧
    (s.tileWrite d t o b n).slices = s.slices ∧ (s.tileWrite d t o b n).dies = s.dies ∧ (s.tileWrite d t o b n).ctrls = s.ctrls ∧
    (s.tileWrite d t o b n).phys = s.phys ∧ (s.tileWrite d t o b n).ports = s.ports ∧ (s.tileWrite d t o b n).conns = s.conns ∧
    (s.tileWrite d t o b n).wire = s.wire ∧ (s.tileWrite d t o b n).nacks = s.nacks ∧ (s.tileWrite d t o b n).rmaNext = s.rmaNext ∧
    (s.tileWrite d t o b n).graphs = s.graphs ∧ (s.tileWrite d t o b n).frozen = s.frozen ∧ (s.tileWrite d t o b n).sysq = s.sysq ∧
    (s.tileWrite d t o b n).rewrites = s.rewrites ∧ (s.tileWrite d t o b n).rangeq = s.rangeq ∧
    (s.tileWrite d t o b n).invals = s.invals ∧ (s.tileWrite d t o b n).moves = s.moves ∧
    (s.tileWrite d t o b n).freezing = s.freezing ∧ (s.tileWrite d t o b n).freezeOps = s.freezeOps ∧
    (s.tileWrite d t o b n).insts = s.insts ∧ (s.tileWrite d t o b n).modl = s.modl :=
  ⟨rfl, rfl, rfl, rfl, rfl, rfl, rfl, rfl, rfl, rfl, rfl, rfl, rfl, rfl, rfl, rfl, rfl, rfl, rfl, rfl, rfl, rfl, rfl, rfl, rfl, rfl, rfl, rfl, rfl, rfl, rfl, rfl⟩

@[simp] theorem State.pinTile_rest (s : State) (h : Nat) :
    (s.pinTile h).agenda = s.agenda ∧ (s.pinTile h).turnNo = s.turnNo ∧ (s.pinTile h).freeNo = s.freeNo ∧ (s.pinTile h).loc = s.loc ∧
    (s.pinTile h).endPhase = s.endPhase ∧ (s.pinTile h).cycle = s.cycle ∧ (s.pinTile h).refTick = s.refTick ∧
    (s.pinTile h).mem = s.mem ∧ (s.pinTile h).hbmBad = s.hbmBad ∧ (s.pinTile h).lines = s.lines ∧ (s.pinTile h).proxies = s.proxies ∧
    (s.pinTile h).chans = s.chans ∧ (s.pinTile h).slices = s.slices ∧ (s.pinTile h).dies = s.dies ∧ (s.pinTile h).ctrls = s.ctrls ∧
    (s.pinTile h).phys = s.phys ∧ (s.pinTile h).ports = s.ports ∧ (s.pinTile h).conns = s.conns ∧ (s.pinTile h).wire = s.wire ∧
    (s.pinTile h).nacks = s.nacks ∧ (s.pinTile h).rmaNext = s.rmaNext ∧ (s.pinTile h).graphs = s.graphs ∧
    (s.pinTile h).frozen = s.frozen ∧ (s.pinTile h).sysq = s.sysq ∧ (s.pinTile h).rewrites = s.rewrites ∧
    (s.pinTile h).rangeq = s.rangeq ∧ (s.pinTile h).invals = s.invals ∧ (s.pinTile h).moves = s.moves ∧
    (s.pinTile h).freezing = s.freezing ∧ (s.pinTile h).freezeOps = s.freezeOps ∧ (s.pinTile h).insts = s.insts ∧
    (s.pinTile h).modl = s.modl :=
  ⟨rfl, rfl, rfl, rfl, rfl, rfl, rfl, rfl, rfl, rfl, rfl, rfl, rfl, rfl, rfl, rfl, rfl, rfl, rfl, rfl, rfl, rfl, rfl, rfl, rfl, rfl, rfl, rfl, rfl, rfl, rfl, rfl⟩

end Sys2Proof.Machine
end

