-- ==== Sys2Proof/Laws/Tables.lean ====
section
/-! SUPPORT. Reading a table or the memory after writing it, and the parts of the state after each is written. -/

namespace Sys2Proof.Machine

/-! ### Tables -/

@[simp] theorem tblGet_tblSet {α : Type} (d : α) (t : Tbl α) (k : Nat) (v : α) (j : Nat) :
    tblGet d (tblSet t k v) j = if j = k then v else tblGet d t j := by
  induction t with
  | nil => simp [tblSet, tblGet, eq_comm]
  | cons p r ih =>
    obtain ⟨i, x⟩ := p
    by_cases hik : i = k
    · subst hik
      by_cases hj : j = i
      · subst hj; simp [tblSet, tblGet]
      · simp [tblSet, tblGet, hj, Ne.symm hj]
    · by_cases hlt : k < i
      · by_cases hj : j = k
        · subst hj; simp [tblSet, tblGet, hik, hlt]
        · simp [tblSet, tblGet, hik, hlt, hj, Ne.symm hj]
      · by_cases hij : i = j
        · subst hij
          simp [tblSet, tblGet, hik, hlt]
        · simp [tblSet, tblGet, hik, hlt, hij, ih]

theorem tblGet_tblMap {α : Type} (d : α) (t : Tbl α) (f : Nat → α → α) (k : Nat) (hd : f k d = d) :
    tblGet d (tblMap t f) k = f k (tblGet d t k) := by
  induction t with
  | nil => simp [tblMap, tblGet, hd]
  | cons p r ih =>
    obtain ⟨i, x⟩ := p
    by_cases h : i = k
    · subst h; simp [tblMap, tblGet]
    · simp only [tblMap, List.map_cons, tblGet, h, if_false] at ih ⊢
      exact ih

/-! ### Memory -/

theorem Memory.wf_cons {c : Host.Cell} {r : Memory} (h : Memory.wf (c :: r) = true) : Memory.wf r = true := by
  cases r with
  | nil => rfl
  | cons d r => simp only [Memory.wf, Bool.and_eq_true] at h; exact h.2

theorem Memory.wf_head {c : Host.Cell} {r : Memory} (h : Memory.wf (c :: r) = true) : c.2 ≠ Memory.unlisted := by
  cases r with
  | nil => simpa [Memory.wf] using h
  | cons d r => simp only [Memory.wf, Bool.and_eq_true, bne_iff_ne] at h; exact h.1.1

theorem Memory.wf_lt {c : Host.Cell} {r : Memory} (h : Memory.wf (c :: r) = true) : ∀ x ∈ r, c.1 < x.1 := by
  induction r generalizing c with
  | nil => simp
  | cons d r ih =>
    intro x hx
    have hcd : c.1 < d.1 := by simp only [Memory.wf, Bool.and_eq_true, decide_eq_true_eq] at h; exact h.1.2
    rcases List.mem_cons.mp hx with rfl | hx
    · exact hcd
    · exact Nat.lt_trans hcd (ih (Memory.wf_cons h) x hx)

/-- The form from its parts. -/
theorem Memory.wf_mk {c : Host.Cell} {r : Memory} (hc : c.2 ≠ Memory.unlisted) (hr : Memory.wf r = true) (hlt : ∀ x ∈ r, c.1 < x.1) :
    Memory.wf (c :: r) = true := by
  cases r with
  | nil => simpa [Memory.wf] using hc
  | cons d r =>
    simp only [Memory.wf, Bool.and_eq_true, bne_iff_ne, decide_eq_true_eq]
    exact ⟨⟨hc, hlt d (by simp)⟩, hr⟩

theorem memGet_below {m : Memory} {a : Nat} (h : ∀ x ∈ m, a < x.1) : memGet m a = Memory.unlisted := by
  cases m with
  | nil => rfl
  | cons c r =>
    have := h c (by simp)
    simp [memGet, Nat.ne_of_gt this, this]

theorem mem_memSet {m : Memory} {a : Nat} {v : Byte} {x : Host.Cell} (h : x ∈ memSet m a v) : x.1 = a ∨ x ∈ m := by
  induction m with
  | nil =>
    simp only [memSet] at h
    split at h <;> simp_all
  | cons c r ih =>
    simp only [memSet] at h
    split at h
    · split at h
      · exact .inr (List.mem_cons_of_mem _ h)
      · rcases List.mem_cons.mp h with rfl | h
        · exact .inl rfl
        · exact .inr (List.mem_cons_of_mem _ h)
    · split at h
      · split at h
        · exact .inr h
        · rcases List.mem_cons.mp h with rfl | h
          · exact .inl rfl
          · exact .inr h
      · rcases List.mem_cons.mp h with rfl | h
        · exact .inr (by simp)
        · exact (ih h).imp_right (List.mem_cons_of_mem _)

/-- A write keeps memory's canonical form. -/
theorem memSet_wf {m : Memory} (a : Nat) (v : Byte) (h : Memory.wf m = true) : Memory.wf (memSet m a v) = true := by
  induction m with
  | nil =>
    simp only [memSet]
    split
    · rfl
    · next hv => simpa [Memory.wf] using hv
  | cons c r ih =>
    have hr := Memory.wf_cons h
    have hlt := Memory.wf_lt h
    simp only [memSet]
    split
    · next hc =>
      split
      · exact hr
      · next hv => exact Memory.wf_mk hv hr (hc ▸ hlt)
    · split
      · next hac =>
        split
        · exact h
        · next hv =>
          refine Memory.wf_mk hv h fun x hx => ?_
          rcases List.mem_cons.mp hx with rfl | hx
          · exact hac
          · exact Nat.lt_trans hac (hlt x hx)
      · refine Memory.wf_mk (Memory.wf_head h) (ih hr) fun x hx => ?_
        rcases mem_memSet hx with h1 | h1
        · omega
        · exact hlt x h1

theorem memPut_wf {m : Memory} (a : Nat) (bs : Bytes) (h : Memory.wf m = true) : Memory.wf (memPut m a bs) = true := by
  induction bs generalizing m a with
  | nil => exact h
  | cons b r ih => exact ih _ (memSet_wf a b h)

theorem wf_filter {m : Memory} (f : Host.Cell → Bool) (h : Memory.wf m = true) : Memory.wf (m.filter f) = true := by
  induction m with
  | nil => rfl
  | cons c r ih =>
    have hr := ih (Memory.wf_cons h)
    by_cases hf : f c
    · rw [List.filter_cons_of_pos hf]
      exact Memory.wf_mk (Memory.wf_head h) hr fun x hx => Memory.wf_lt h x (List.mem_of_mem_filter hx)
    · rwa [List.filter_cons_of_neg hf]

/-- A byte read after a byte was written. -/
theorem memGet_memSet {m : Memory} (a : Nat) (v : Byte) (b : Nat) (h : Memory.wf m = true) :
    memGet (memSet m a v) b = if b = a then v else memGet m b := by
  induction m with
  | nil =>
    by_cases hv : v = Memory.unlisted <;> by_cases hb : b = a
    · simp [memSet, memGet, hv]
    · simp [memSet, memGet, hv]
    · simp [memSet, memGet, hv, hb]
    · simp [memSet, memGet, hv, hb, Ne.symm hb]
  | cons c r ih =>
    have hr := Memory.wf_cons h
    have hlt := Memory.wf_lt h
    by_cases hca : c.1 = a
    · by_cases hv : v = Memory.unlisted
      · subst hca
        by_cases hb : b = c.1
        · subst hb; simp [memSet, hv, memGet_below hlt]
        · by_cases hbc : b < c.1
          · simp [memSet, hv, memGet, hb, Ne.symm hb, hbc, memGet_below fun x hx => Nat.lt_trans hbc (hlt x hx)]
          · simp [memSet, hv, memGet, hb, Ne.symm hb, hbc]
      · subst hca
        by_cases hb : b = c.1
        · subst hb; simp [memSet, hv, memGet]
        · simp [memSet, hv, memGet, hb, Ne.symm hb]
    · by_cases hac : a < c.1
      · by_cases hv : v = Memory.unlisted
        · by_cases hb : b = a
          · subst hb; simp [memSet, hv, memGet, hca, hac]
          · simp [memSet, hv, hca, hac, hb]
        · by_cases hb : b = a
          · subst hb; simp [memSet, hv, memGet, hca, hac]
          · by_cases hba : b < a
            · have : b < c.1 := Nat.lt_trans hba hac
              simp [memSet, hv, memGet, hca, hac, hb, Ne.symm hb, hba, this, Nat.ne_of_gt this]
            · simp [memSet, hv, memGet, hca, hac, hb, Ne.symm hb, hba]
      · by_cases hb : c.1 = b
        · subst hb; simp [memSet, memGet, hca, hac]
        · by_cases hbc : b < c.1
          · have : b ≠ a := by omega
            simp [memSet, memGet, hca, hac, hb, hbc, this]
          · simp [memSet, memGet, hca, hac, hb, hbc, ih hr]

/-! ### The parts of the state -/

@[simp] theorem State.core_setCore (s : State) (c : Nat) (x : Core) (k : Nat) : (s.setCore c x).core k = if k = c then x else s.core k := by
  simp [State.core, State.setCore]

@[simp] theorem State.core_modCore (s : State) (c : Nat) (f : Core → Core) (k : Nat) :
    (s.modCore c f).core k = if k = c then f (s.core c) else s.core k := by
  simp [State.modCore]

@[simp] theorem State.die_setDie (s : State) (d : Nat) (x : Die) (k : Nat) : (s.setDie d x).die k = if k = d then x else s.die k := by
  simp [State.die, State.setDie]

@[simp] theorem State.die_modDie (s : State) (d : Nat) (f : Die → Die) (k : Nat) :
    (s.modDie d f).die k = if k = d then f (s.die d) else s.die k := by
  simp [State.modDie]

@[simp] theorem State.slice_modSlice (s : State) (n : Nat) (f : Slice → Slice) (k : Nat) :
    (s.modSlice n f).slice k = if k = n then f (s.slice n) else s.slice k := by
  simp [State.slice, State.modSlice]

@[simp] theorem State.ctrl_modCtrl (s : State) (n : Nat) (f : Ctrl → Ctrl) (k : Nat) :
    (s.modCtrl n f).ctrl k = if k = n then f (s.ctrl n) else s.ctrl k := by
  simp [State.ctrl, State.modCtrl]

@[simp] theorem State.phy_modPhy (s : State) (n : Nat) (f : Phy → Phy) (k : Nat) :
    (s.modPhy n f).phy k = if k = n then f (s.phy n) else s.phy k := by
  simp [State.phy, State.modPhy]

@[simp] theorem State.port_modPort (s : State) (n : Nat) (f : Port → Port) (k : Nat) :
    (s.modPort n f).port k = if k = n then f (s.port n) else s.port k := by
  simp [State.port, State.modPort]

@[simp] theorem State.line_setLine (s : State) (l : Nat) (x : Line) (k : Nat) : (s.setLine l x).line k = if k = l then x else s.line k := by
  simp [State.line, State.setLine]

@[simp] theorem State.chan_setChan (s : State) (c : Nat) (x : Chan) (k : Nat) : (s.setChan c x).chan k = if k = c then x else s.chan k := by
  simp [State.chan, State.setChan]

@[simp] theorem State.modl_modl_ (s : State) (f : Control → Control) : (s.modl_ f).modl = f s.modl := rfl

@[simp] theorem Core.site_setSite (c : Core) (k : Nat) (x : Site) (j : Nat) : (c.setSite k x).site j = if j = k then x else c.site j := by
  simp [Core.site, Core.setSite]

@[simp] theorem Core.site_modSite (c : Core) (k : Nat) (f : Site → Site) (j : Nat) :
    (c.modSite k f).site j = if j = k then f (c.site k) else c.site j := by
  simp [Core.modSite]

@[simp] theorem Core.ctx_modCtx (c : Core) (k : Nat) (f : Ctx → Ctx) (j : Nat) :
    (c.modCtx k f).ctx j = if j = k then f (c.ctx k) else c.ctx j := by
  simp [Core.ctx, Core.modCtx]

@[simp] theorem Core.thread_modThread (c : Core) (k : Nat) (f : Thread → Thread) (j : Nat) :
    (c.modThread k f).thread j = if j = k then f (c.thread k) else c.thread j := by
  simp [Core.thread, Core.modThread]

@[simp] theorem Core.tile_modTile (c : Core) (k : Nat) (f : Tile → Tile) (j : Nat) :
    (c.modTile k f).tile j = if j = k then f (c.tile k) else c.tile j := by
  simp [Core.tile, Core.modTile]

@[simp] theorem Core.bank_modBank (c : Core) (k : Nat) (f : Bank → Bank) (j : Nat) :
    (c.modBank k f).bank j = if j = k then f (c.bank k) else c.bank j := by
  simp [Core.bank, Core.modBank]

@[simp] theorem Site.ctx_modCtx (x : Site) (k : Nat) (f : SiteCtx → SiteCtx) (j : Nat) :
    (x.modCtx k f).ctx j = if j = k then f (x.ctx k) else x.ctx j := by
  simp [Site.ctx, Site.modCtx]

@[simp] theorem Site.buf_setBuf (x : Site) (d : Nat) (b : List BufEntry) (j : Nat) :
    (x.setBuf d b).buf j = if j = d then b else x.buf j := by
  simp [Site.buf, Site.setBuf]

end Sys2Proof.Machine
end

