-- ==== Sys2Proof/Laws/Firing.lean ====
section
/-! SUPPORT. What a firing does to its site: the heads it takes, the predicates, and the result it leaves. -/

namespace Sys2Proof.Machine

/-- Two sites that differ in the buffers, and in one context in its entry buffers, latches and predicates, only. -/
structure Site.Near (x y : Site) (c : Nat) : Prop where
  flight : y.flight = x.flight
  bound : y.bound = x.bound
  wb : y.wb = x.wb
  busy : y.busy = x.busy
  lastMma : y.lastMma = x.lastMma
  starts : y.starts = x.starts
  fired : y.fired = x.fired
  others : ∀ k, k ≠ c → y.ctx k = x.ctx k
  ctx : y.ctx c = { x.ctx c with entry := (y.ctx c).entry, latch := (y.ctx c).latch, preds := (y.ctx c).preds }

theorem Site.Near.refl (x : Site) (c : Nat) : x.Near x c := ⟨rfl, rfl, rfl, rfl, rfl, rfl, rfl, fun _ _ => rfl, rfl⟩

theorem Site.Near.trans {x y z : Site} {c : Nat} (h : x.Near y c) (g : y.Near z c) : x.Near z c where
  flight := g.flight.trans h.flight
  bound := g.bound.trans h.bound
  wb := g.wb.trans h.wb
  busy := g.busy.trans h.busy
  lastMma := g.lastMma.trans h.lastMma
  starts := g.starts.trans h.starts
  fired := g.fired.trans h.fired
  others := fun k hk => (g.others k hk).trans (h.others k hk)
  ctx := by rw [g.ctx, h.ctx]

theorem Site.near_modCtx (x : Site) (c : Nat) (f : SiteCtx → SiteCtx)
    (h : f (x.ctx c) = { x.ctx c with entry := (f (x.ctx c)).entry, latch := (f (x.ctx c)).latch, preds := (f (x.ctx c)).preds }) :
    x.Near (x.modCtx c f) c where
  flight := rfl
  bound := rfl
  wb := rfl
  busy := rfl
  lastMma := rfl
  starts := rfl
  fired := rfl
  others := fun k hk => by simp [hk]
  ctx := by simpa using h

@[simp] theorem Site.ctx_setBuf (x : Site) (d : Nat) (b : List BufEntry) (j : Nat) : (x.setBuf d b).ctx j = x.ctx j := rfl

theorem Site.near_takeHead (x : Site) (now c n : Nat) : x.Near (x.takeHead now c n) c := by
  unfold Site.takeHead
  dsimp only
  split
  · exact x.near_modCtx c _ rfl
  · split
    · exact ⟨rfl, rfl, rfl, rfl, rfl, rfl, rfl, fun _ _ => rfl, rfl⟩
    · exact .refl x c

theorem latchAfter_eq (x : SiteCtx) (hs : Tbl Token) (dq : BitVec 4) :
    latchAfter x hs dq = { x with latch := (latchAfter x hs dq).latch } := by
  unfold latchAfter
  induction hs generalizing x with
  | nil => rfl
  | cons h r ih =>
    simp only [List.foldl_cons]
    rw [ih]
    split <;> rfl

theorem Site.near_dequeue (x : Site) (now c : Nat) (hs : Tbl Token) (dq : BitVec 4) : x.Near (x.dequeue now c hs dq) c := by
  unfold Site.dequeue
  simp only [List.foldl_cons, List.foldl_nil]
  have one : ∀ (y : Site) (n : Nat), y.Near (if dq.getLsbD n then y.takeHead now c n else y) c := by
    intro y n
    split
    · exact y.near_takeHead now c n
    · exact .refl y c
  refine ((((x.near_modCtx c _ ?_).trans (one _ 0)).trans (one _ 1)).trans (one _ 2)).trans (one _ 3)
  have e := latchAfter_eq (x.ctx c) hs dq
  rw [e]

/-- The site of a firing after its heads and predicates. -/
def firedSite (s : State) (w : SlotWord) (o : Ops) (f : Fire) : Site :=
  let site := s.hereSite
  let site := if f.last then site.dequeue s.cycle s.loc.ctx o.heads w.dq else site
  site.modCtx s.loc.ctx fun y =>
    { y with preds := nextPreds y.preds (if f.pu then w else { w with pu := .none }) f.mask f.vals f.res f.width f.last }

theorem firedSite_near (s : State) (w : SlotWord) (o : Ops) (f : Fire) : s.hereSite.Near (firedSite s w o f) s.loc.ctx := by
  unfold firedSite
  dsimp only
  refine Site.Near.trans ?_ (Site.near_modCtx _ _ _ rfl)
  split
  · exact Site.near_dequeue _ _ _ _ _
  · exact .refl _ _

theorem fireHeads_eq (s : State) (w : SlotWord) (o : Ops) (f : Fire) :
    fireHeads s w o f = s.setCore s.loc.core (s.here.setSite s.loc.site ((firedSite s w o f).mark s.cycle s.loc.ctx s.loc.slot)) := rfl

theorem fireHeads_rest (s : State) (w : SlotWord) (o : Ops) (f : Fire) :
    fireHeads s w o f = { s with cores := (fireHeads s w o f).cores } := rfl

@[simp] theorem fireHeads_core (s : State) (w : SlotWord) (o : Ops) (f : Fire) (k : Nat) :
    (fireHeads s w o f).core k = if k = s.loc.core then
      s.here.setSite s.loc.site ((firedSite s w o f).mark s.cycle s.loc.ctx s.loc.slot) else s.core k := by
  rw [fireHeads_eq]; simp

theorem Core.setSite_setSite (c : Core) (k : Nat) (x y : Site) : (c.setSite k x).setSite k y = c.setSite k y := by
  have h : ∀ t : Tbl Site, tblSet (tblSet t k x) k y = tblSet t k y := by
    intro t
    induction t with
    | nil => simp [tblSet]
    | cons p r ih =>
      obtain ⟨j, z⟩ := p
      simp only [tblSet]
      by_cases h1 : j = k
      · simp [h1, tblSet]
      · by_cases h2 : k < j
        · simp [h1, h2, tblSet]
        · simp [h1, h2, tblSet, ih]
  simp [Core.setSite, h]

/-- A result on its way after a firing. -/
def firedFlight (s : State) (w : SlotWord) (lat : Nat) (o : Ops) (f : Fire) : List Flight :=
  if (if f.emit then w.om else 0) = 0 ∧ w.dr = none ∧ f.flags = 0 then []
  else [flightOf s o.tid (some (s.cycle + lat)) 0 (if f.emit then w.om else 0) w.dr f.res (f.kind.getD w.ok) f.tag true f.flags]

/-- The one law of a firing of numbered latency: only its site changes, and how. -/
theorem fireWith_core (s : State) (w : SlotWord) (lat : Nat) (o : Ops) (f : Fire) (k : Nat) :
    (fireWith s w lat o f).core k = if k = s.loc.core then
      s.here.setSite s.loc.site { (firedSite s w o f).mark s.cycle s.loc.ctx s.loc.slot with
        flight := s.hereSite.flight ++ firedFlight s w lat o f } else s.core k := by
  have hn := (firedSite_near s w o f).flight
  have hfl : ((firedSite s w o f).mark s.cycle s.loc.ctx s.loc.slot).flight = s.hereSite.flight := hn
  have key : ∀ u : State, u.cores = s.cores → u.loc = s.loc → u.cycle = s.cycle →
      ((if ((if f.emit then w.om else 0) == 0 && w.dr.isNone && f.flags == 0) = true then fireHeads u w o f
        else pushFlights (fireHeads u w o f) [flightOf (fireHeads u w o f) o.tid (some ((fireHeads u w o f).cycle + lat)) 0
          (if f.emit then w.om else 0) w.dr f.res (f.kind.getD w.ok) f.tag true f.flags]).core k)
      = if k = s.loc.core then s.here.setSite s.loc.site { (firedSite s w o f).mark s.cycle s.loc.ctx s.loc.slot with
          flight := s.hereSite.flight ++ firedFlight s w lat o f } else s.core k := by
    intro u hc hl hy
    have hcore : ∀ j, u.core j = s.core j := fun j => by simp [State.core, hc]
    have hhere : u.here = s.here := by simp [State.here, hl, hcore]
    have hsite : u.hereSite = s.hereSite := by simp [State.hereSite, hhere, hl]
    have hf : firedSite u w o f = firedSite s w o f := by simp [firedSite, hsite, hl, hy]
    by_cases h0 : (if f.emit then w.om else 0) = 0 ∧ w.dr = none ∧ f.flags = 0
    · have : ((if f.emit then w.om else 0) == 0 && w.dr.isNone && f.flags == 0) = true := by
        rw [h0.1, h0.2.1, h0.2.2]; rfl
      rw [if_pos this, fireHeads_core, firedFlight, if_pos h0, List.append_nil, ← hfl, hf, hhere, hl, hy, hcore]
    · have : ¬ ((if f.emit then w.om else 0) == 0 && w.dr.isNone && f.flags == 0) = true := by
        intro hb
        rw [Bool.and_eq_true, Bool.and_eq_true, beq_iff_eq, beq_iff_eq, Option.isNone_iff_eq_none] at hb
        exact h0 ⟨hb.1.1, hb.1.2, hb.2⟩
      rw [if_neg this, firedFlight, if_neg h0]
      simp only [pushFlights, State.modHereSite, State.modSite, State.core_modCore]
      have hl2 : (fireHeads u w o f).loc = s.loc := by rw [fireHeads_rest]; exact hl
      rw [hl2]
      by_cases hk : k = s.loc.core
      · subst hk
        simp only [if_pos, fireHeads_core, hl, hf, hhere, hy, Core.modSite, Core.site_setSite, Core.setSite_setSite]
        congr 1
        rw [hfl]
        have e1 : (fireHeads u w o f).cycle = s.cycle := by rw [fireHeads_rest]; exact hy
        simp [flightOf, hl2, e1]
      · simp only [if_neg hk, fireHeads_core, hl, hcore]
  unfold fireWith
  by_cases hr : readsFreeTid s w = true
  · simp only [hr, if_true]
    exact key _ rfl rfl rfl
  · simp only [hr, Bool.false_eq_true, if_false]
    exact key _ rfl rfl rfl

theorem fireWith_rest (s : State) (w : SlotWord) (lat : Nat) (o : Ops) (f : Fire) :
    fireWith s w lat o f = { s with cores := (fireWith s w lat o f).cores, freeNo := (fireWith s w lat o f).freeNo } := by
  unfold fireWith
  by_cases hr : readsFreeTid s w = true <;>
    by_cases h0 : ((if f.emit then w.om else 0) == 0 && w.dr.isNone && f.flags == 0) = true <;>
      simp only [hr, h0, Bool.false_eq_true, if_true, if_false] <;> rfl

theorem fireOp_fires {s : State} {w : SlotWord} {lat width : Nat} {f : Ops → Fire} (h : residueFault s w = none) :
    fireOp s w lat width f = fireWith s w lat (readOps s w width) (f (readOps s w width)) := by
  simp [fireOp, h]

theorem fireOp_traps {s : State} {w : SlotWord} {lat width : Nat} {f : Ops → Fire} {p : Nat × Nat} (h : residueFault s w = some p) :
    fireOp s w lat width f = residueTrap s w p := by
  simp [fireOp, h]

end Sys2Proof.Machine
end

