-- ==== Sys2Proof/Laws/Lanes.lean ====
section
/-! SUPPORT. The lanes of a payload made from lanes, and numbers put into lanes. -/

namespace Sys2Proof.Machine

/-- The number that lanes make. -/
def lanesNum (w : Nat) (vs : List Nat) : Nat := vs.foldr (fun v acc => v % 2 ^ w + 2 ^ w * acc) 0

theorem lanesNum_lt (w : Nat) (vs : List Nat) : lanesNum w vs < 2 ^ (w * vs.length) := by
  induction vs with
  | nil => simp [lanesNum]
  | cons v r ih =>
    have h1 : v % 2 ^ w < 2 ^ w := Nat.mod_lt _ (Nat.two_pow_pos w)
    have h2 : 2 ^ (w * (r.length + 1)) = 2 ^ w * 2 ^ (w * r.length) := by rw [← pow_add]; congr 1; ring
    simp only [lanesNum, List.foldr_cons, List.length_cons, h2] at *
    calc v % 2 ^ w + 2 ^ w * List.foldr (fun v acc => v % 2 ^ w + 2 ^ w * acc) 0 r
        < 2 ^ w + 2 ^ w * List.foldr (fun v acc => v % 2 ^ w + 2 ^ w * acc) 0 r := by omega
      _ = 2 ^ w * (List.foldr (fun v acc => v % 2 ^ w + 2 ^ w * acc) 0 r + 1) := by ring
      _ ≤ 2 ^ w * 2 ^ (w * r.length) := Nat.mul_le_mul_left _ ih

theorem lanesNum_lane (w : Nat) (vs : List Nat) (i : Nat) (h : i < vs.length) :
    lanesNum w vs / 2 ^ (w * i) % 2 ^ w = vs[i] % 2 ^ w := by
  induction vs generalizing i with
  | nil => simp at h
  | cons v r ih =>
    have hp : 0 < 2 ^ w := Nat.two_pow_pos w
    cases i with
    | zero => simp [lanesNum, Nat.add_mul_mod_self_left]
    | succ i =>
      have hr : i < r.length := by simpa using h
      have e : 2 ^ (w * (i + 1)) = 2 ^ w * 2 ^ (w * i) := by rw [← pow_add]; congr 1; ring
      have e2 : lanesNum w (v :: r) = v % 2 ^ w + 2 ^ w * lanesNum w r := rfl
      rw [e, ← Nat.div_div_eq_div_mul, e2, Nat.add_mul_div_left _ _ hp, Nat.div_eq_of_lt (Nat.mod_lt _ hp), Nat.zero_add]
      simpa using ih i hr

/-- A lane of a payload made from its lanes. -/
theorem lane_ofLanes (w : Nat) (vs : List Nat) (i : Nat) (hw : w * vs.length ≤ 128) (h : i < vs.length) :
    lane (ofLanes w vs) w i = vs[i] % 2 ^ w := by
  have hlt : lanesNum w vs < 2 ^ 128 := lt_of_lt_of_le (lanesNum_lt w vs) (Nat.pow_le_pow_right (by decide) hw)
  have : (ofLanes w vs).toNat = lanesNum w vs := by
    simp only [ofLanes, BitVec.toNat_ofNat]
    exact Nat.mod_eq_of_lt hlt
  rw [lane, this]
  exact lanesNum_lane w vs i h

/-- A lane of a payload given lane by lane. -/
theorem lane_mapLanes (w : Nat) (f : Nat → Nat) (i : Nat) (h : i < 128 / w) : lane (mapLanes w f) w i = f i % 2 ^ w := by
  have hl : ((List.range (128 / w)).map f).length = 128 / w := by simp
  rw [mapLanes, lane_ofLanes w _ i (by rw [hl]; exact Nat.mul_div_le 128 w) (by rw [hl]; exact h)]
  simp

theorem lane_lt (p : Payload) (w i : Nat) : lane p w i < 2 ^ w := Nat.mod_lt _ (Nat.two_pow_pos w)

theorem wrap_lt (x : Int) (w : Nat) : wrap x w < 2 ^ w := by
  have h : (0 : Int) < ((2 ^ w : Nat) : Int) := by exact_mod_cast Nat.two_pow_pos w
  have := Int.emod_lt_of_pos x h
  have := Int.emod_nonneg x (ne_of_gt h)
  simp only [wrap]
  omega

theorem wrap_cast (x : Int) (w : Nat) : ((wrap x w : Nat) : Int) = x % ((2 ^ w : Nat) : Int) := by
  have h : (0 : Int) < ((2 ^ w : Nat) : Int) := by exact_mod_cast Nat.two_pow_pos w
  exact Int.toNat_of_nonneg (Int.emod_nonneg x (ne_of_gt h))

theorem lanePut_lt (t : Nat) (sat : Bool) (v : Int) : lanePut t sat v < 2 ^ laneWidth t := by
  simp only [lanePut, sats, satn]
  split <;> [split; skip] <;> exact wrap_lt _ _

theorem laneWidth_cases (t : Nat) : laneWidth t = 32 ∨ laneWidth t = 16 ∨ laneWidth t = 8 := by
  simp only [laneWidth]
  split <;> [simp; (split <;> simp)]

end Sys2Proof.Machine
end

