-- ==== Sys2Proof/Laws/Heads.lean ====
section
/-! SUPPORT. The heads a firing takes are gone, and the operands are the values of the heads they name. -/

namespace Sys2Proof.Machine

theorem bufFront_bufTake (now b) : bufFront now (bufTake now b) = none := by
  induction b with
  | nil => rfl
  | cons e r ih =>
    unfold bufTake
    split
    · simp [bufFront]
    · split
      · exact ih
      · rename_i g h1 h2; simp [bufFront, h1, h2]

/-- The head that input `n` had in `x` is gone in `y`: from the entry buffer if the entry buffer held it, from the link it is routed to if not. -/
def Site.Out (x y : Site) (now c n : Nat) : Prop :=
  if (bufFront now ((x.ctx c).entryBuf n)).isSome then bufFront now ((y.ctx c).entryBuf n) = none
  else ∀ j, j < 4 → routeIn (x.ctx c).route n = j + 1 → bufFront now (y.buf j) = none

theorem Site.out_takeHead_self (x : Site) (now c n : Nat) : x.Out (x.takeHead now c n) now c n := by
  unfold Site.Out Site.takeHead
  dsimp only
  split
  · simp [SiteCtx.entryBuf, SiteCtx.setEntry, bufFront_bufTake]
  · intro j hj hr
    simp [hr, hj, bufFront_bufTake]

/-- A later take keeps an emptied buffer empty. -/
theorem Site.takeHead_keeps (y : Site) (now c n m j : Nat) :
   (bufFront now ((y.ctx c).entryBuf n) = none → bufFront now (((y.takeHead now c m).ctx c).entryBuf n) = none)
   ∧ (bufFront now (y.buf j) = none → bufFront now ((y.takeHead now c m).buf j) = none) := by
  unfold Site.takeHead
  dsimp only
  split
  · constructor
    · intro h
      by_cases e : n = m
      · subst e; simp [SiteCtx.entryBuf, SiteCtx.setEntry, bufFront_bufTake]
      · simpa [SiteCtx.entryBuf, SiteCtx.setEntry, e] using h
    · exact id
  · split
    · refine ⟨id, fun h => ?_⟩
      by_cases e : j = routeIn (y.ctx c).route m - 1
      · simp [e, bufFront_bufTake]
      · simpa [e] using h
    · exact ⟨id, id⟩

theorem Site.out_takeHead (x y : Site) (now c n m : Nat) (h : x.Out y now c n) : x.Out (y.takeHead now c m) now c n := by
  unfold Site.Out at *
  split
  · rename_i h1; rw [if_pos h1] at h
    exact (Site.takeHead_keeps y now c n m 0).1 h
  · rename_i h1; rw [if_neg h1] at h
    intro j hj hr; exact (Site.takeHead_keeps y now c n m j).2 (h j hj hr)

/-- Until input `n` is taken, its route and its entry buffer are as before. -/
structure Site.Untaken (x y : Site) (now c n : Nat) : Prop where
  route : (y.ctx c).route = (x.ctx c).route
  entry : (y.ctx c).entryBuf n = (x.ctx c).entryBuf n

theorem Site.untaken_takeHead {x y : Site} {now c n m : Nat} (h : x.Untaken y now c n) (hm : n ≠ m) : x.Untaken (y.takeHead now c m) now c n := by
  constructor
  · have := (Site.near_takeHead y now c m).ctx
    rw [this]; exact h.route
  · unfold Site.takeHead
    dsimp only
    split
    · simp [SiteCtx.entryBuf, SiteCtx.setEntry, hm]; exact h.entry
    · split
      · exact h.entry
      · exact h.entry

theorem Site.out_of_untaken {x y : Site} {now c n : Nat} (h : x.Untaken y now c n) : x.Out (y.takeHead now c n) now c n := by
  have := Site.out_takeHead_self y now c n
  unfold Site.Out at this ⊢
  rwa [h.route, h.entry] at this

/-- Taking the heads that DQ names takes each of them. -/
theorem Site.out_dequeue (x : Site) (now c : Nat) (hs dq) (n) (hn : n < 4) (hd : dq.getLsbD n = true) : x.Out (x.dequeue now c hs dq) now c n := by
  unfold Site.dequeue
  have h0 : x.Untaken (x.modCtx c fun y => latchAfter y hs dq) now c n := by
    constructor
    · simp; rw [latchAfter_eq]
    · simp [SiteCtx.entryBuf]; rw [latchAfter_eq]
  simp only [List.foldl_cons, List.foldl_nil]
  have k1 : ∀ y m, n ≠ m → x.Untaken y now c n → x.Untaken (if dq.getLsbD m then y.takeHead now c m else y) now c n := by
    intro y m hm h; split; exact Site.untaken_takeHead h hm; exact h
  have k2 : ∀ y m, x.Out y now c n → x.Out (if dq.getLsbD m then y.takeHead now c m else y) now c n := by
    intro y m h; split; exact Site.out_takeHead _ _ _ _ _ _ h; exact h
  have k3 : ∀ y, x.Untaken y now c n → x.Out (if dq.getLsbD n then y.takeHead now c n else y) now c n := by
    intro y h; rw [if_pos hd]; exact Site.out_of_untaken h
  obtain rfl | rfl | rfl | rfl : n = 0 ∨ n = 1 ∨ n = 2 ∨ n = 3 := by omega
  · exact k2 _ 3 (k2 _ 2 (k2 _ 1 (k3 _ h0)))
  · exact k2 _ 3 (k2 _ 2 (k3 _ (k1 _ 0 (by decide) h0)))
  · exact k2 _ 3 (k3 _ (k1 _ 1 (by decide) (k1 _ 0 (by decide) h0)))
  · exact k3 _ (k1 _ 2 (by decide) (k1 _ 1 (by decide) (k1 _ 0 (by decide) h0)))

theorem headOf_readOps (s : State) (w : SlotWord) (k : Nat) (n : Fin 4) (h : Token) (hs : w.sa = .i n)
   (hh : s.here.head s.cycle s.loc.site s.loc.ctx n.val = some h) : headOf (readOps s w k) w.sa = some h := by
  simp only [headOf, hs, readOps]
  obtain ⟨n, hn⟩ := n
  simp only at hh
  have : ∀ a b c d : Option Token, ((([0,1,2,3] : List Nat).filterMap fun m => ((match m with |0 => a | 1 => b | 2 => c | _ => d)).map fun h => (m, h)).find? fun h => h.1 == n)
     = (match n with |0 => a | 1 => b | 2 => c | _ => d).map fun h => (n, h) := by
    intro a b c d
    obtain rfl | rfl | rfl | rfl : n = 0 ∨ n = 1 ∨ n = 2 ∨ n = 3 := by omega
    all_goals cases a <;> cases b <;> cases c <;> cases d <;> simp 
  have h2 := this (s.here.head s.cycle s.loc.site s.loc.ctx 0) (s.here.head s.cycle s.loc.site s.loc.ctx 1) (s.here.head s.cycle s.loc.site s.loc.ctx 2) (s.here.head s.cycle s.loc.site s.loc.ctx 3)
  have e : (([0,1,2,3] : List Nat).filterMap fun m => (s.here.head s.cycle s.loc.site s.loc.ctx m).map fun h => (m, h)) = (([0,1,2,3] : List Nat).filterMap fun m => ((match m with |0 => (s.here.head s.cycle s.loc.site s.loc.ctx 0) | 1 => (s.here.head s.cycle s.loc.site s.loc.ctx 1) | 2 => (s.here.head s.cycle s.loc.site s.loc.ctx 2) | _ => (s.here.head s.cycle s.loc.site s.loc.ctx 3))).map fun h => (m, h)) := by
    simp [List.filterMap_cons]
  rw [e, h2]
  obtain rfl | rfl | rfl | rfl : n = 0 ∨ n = 1 ∨ n = 2 ∨ n = 3 := by omega
  all_goals simp [hh]

theorem readOps_a_head (s : State) (w : SlotWord) (k : Nat) (n : Fin 4) (h : Token) (hs : w.sa = .i n)
   (hh : s.here.head s.cycle s.loc.site s.loc.ctx n.val = some h) : (readOps s w k).a = h.val.bits := by
  simp [readOps, hs, srcValue, hh]

theorem lane_zero_32 (r : Payload) : lane r 32 0 = (r.extractLsb' 0 32).toNat := by
  simp [lane, BitVec.extractLsb'_toNat]

theorem laneWidth_dvd (t) : laneWidth t ∣ 128 := by rcases laneWidth_cases t with h | h | h <;> simp [h]

theorem wrap_dvd (x : Int) (w : Nat) : ((2 : Int) ^ w) ∣ ((wrap x w : Nat) : Int) - x := by
  rw [wrap_cast]
  push_cast
  exact ⟨-(x / 2^w), by rw [Int.emod_def]; ring⟩

end Sys2Proof.Machine
end

