-- ==== Sys2Proof/Laws/Lines.lean ====
section
/-! SUPPORT. First-level cache lines given up and changed, and what the packets to a home leave alone. -/

namespace Sys2Proof.Machine

@[simp] theorem tblGet_tblDel {α : Type} (d : α) (t : Tbl α) (k j : Nat) :
    tblGet d (tblDel t k) j = if j = k then d else tblGet d t j := by
  induction t with
  | nil => simp [tblDel, tblGet]
  | cons p r ih =>
    obtain ⟨i, x⟩ := p
    simp only [tblDel, List.filter_cons] at ih ⊢
    by_cases h : i = k
    · subst h
      simp only [bne_self_eq_false, Bool.false_eq_true, if_false, ih, tblGet]
      by_cases hj : j = i
      · simp [hj]
      · simp [hj, Ne.symm hj]
    · have : (i != k) = true := by simpa using h
      simp only [this, if_true, tblGet]
      by_cases hj : i = j
      · subst hj; simp [h]
      · simp only [hj, if_false, ih]

@[simp] theorem l1line_setL1 (c : Core) (l : Nat) (x : L1Line) (hx : x.st = .i → x = ⟨.i, [], 0⟩) (k : Nat) :
    (c.setL1 l x).l1line k = if k = l then x else c.l1line k := by
  simp only [Core.setL1, Core.l1line]
  split
  · next h =>
    have := hx (by simpa using h)
    simp [this]
  · simp

@[simp] theorem enqueue_core (s : State) (c w : Nat) (p : Pkt) (k : Nat) : (s.enqueue c w p).core k = s.core k := rfl
@[simp] theorem toHome_core (s : State) (c : Nat) (p : Pkt) (k : Nat) : (s.toHome c p).core k = s.core k := rfl
@[simp] theorem setL1_access (c : Core) (l : Nat) (x : L1Line) (k : Nat) : (c.setL1 l x).access k = c.access k := rfl
@[simp] theorem giveUp_core_ne (s : State) (c l k : Nat) (h : k ≠ c) : (s.giveUp c l).core k = s.core k := by
  unfold State.giveUp
  dsimp only; split <;> simp [h]
theorem giveUp_core (s : State) (c l : Nat) : (s.giveUp c l).core c = (s.core c).setL1 l ⟨.i, [], 0⟩ := by
  unfold State.giveUp
  dsimp only; split <;> simp
@[simp] theorem giveUp_mem (s : State) (c l : Nat) : (s.giveUp c l).mem = s.mem := by
  unfold State.giveUp
  dsimp only; split <;> simp
theorem l1Room_core (s : State) (c l : Nat) : ((s.l1Room c l).core c).l1line l = (s.core c).l1line l ∧ ((s.l1Room c l).core c).accesses = (s.core c).accesses ∧ (s.l1Room c l).mem = s.mem := by
  unfold State.l1Room
  split
  · exact ⟨rfl, rfl, rfl⟩
  · next v vs hv =>
    simp only [State.free]
    split
    · next w hw =>
      have hm : w ∈ ((s.core c).l1.map (·.1)).filter (· != l) := by
        rw [hv]; exact List.mem_of_getElem? hw
      have hne : l ≠ w := by
        have := (List.mem_filter.1 hm).2
        simp at this; exact fun h => this h.symm
      simp only [giveUp_core, giveUp_mem]
      refine ⟨?_, rfl, trivial⟩
      rw [l1line_setL1 _ _ _ (by simp)]
      simp [hne]; rfl
    · exact ⟨rfl, rfl, rfl⟩

end Sys2Proof.Machine
end

