-- ==== Sys2Proof/Laws/PerInstr.lean ====
section
/-! SUPPORT. What holds of every instruction as syntax, one lemma per constructor. -/

/-- The encoding of an instruction (R53, R54): a slot instruction is what the decoder's opcode table gives at its own opcode, which is nonzero and
fits OP; an event has no site word. -/
def Sys2Proof.Laws.Encoding.Statement (i : Sys2Proof.Instr) : Prop :=
  match i.opcode with
  | some (op, w) => Sys2Proof.Instr.ofOpcode op w = some i ∧ 0 < op ∧ op < 512
  | none => Sys2Proof.encode i = none

open Sys2Proof Sys2Proof.Laws.Encoding

theorem Sys2Proof.Laws.Encoding.mov (w : SlotWord) : Statement (.mov w) := ⟨rfl, by decide, by decide⟩
theorem Sys2Proof.Laws.Encoding.movi (w : SlotWord) : Statement (.movi w) := ⟨rfl, by decide, by decide⟩
theorem Sys2Proof.Laws.Encoding.sel (w : SlotWord) : Statement (.sel w) := ⟨rfl, by decide, by decide⟩
theorem Sys2Proof.Laws.Encoding.selk (w : SlotWord) : Statement (.selk w) := ⟨rfl, by decide, by decide⟩
theorem Sys2Proof.Laws.Encoding.drop (w : SlotWord) : Statement (.drop w) := ⟨rfl, by decide, by decide⟩
theorem Sys2Proof.Laws.Encoding.emit (w : SlotWord) : Statement (.emit w) := ⟨rfl, by decide, by decide⟩
theorem Sys2Proof.Laws.Encoding.plog (w : SlotWord) : Statement (.plog w) := ⟨rfl, by decide, by decide⟩
theorem Sys2Proof.Laws.Encoding.pset (w : SlotWord) : Statement (.pset w) := ⟨rfl, by decide, by decide⟩
theorem Sys2Proof.Laws.Encoding.ptest (w : SlotWord) : Statement (.ptest w) := ⟨rfl, by decide, by decide⟩
theorem Sys2Proof.Laws.Encoding.lane (w : SlotWord) : Statement (.lane w) := ⟨rfl, by decide, by decide⟩
theorem Sys2Proof.Laws.Encoding.shuf (w : SlotWord) : Statement (.shuf w) := ⟨rfl, by decide, by decide⟩
theorem Sys2Proof.Laws.Encoding.pack (w : SlotWord) : Statement (.pack w) := ⟨rfl, by decide, by decide⟩
theorem Sys2Proof.Laws.Encoding.unpk (w : SlotWord) : Statement (.unpk w) := ⟨rfl, by decide, by decide⟩
theorem Sys2Proof.Laws.Encoding.gets (w : SlotWord) : Statement (.gets w) := ⟨rfl, by decide, by decide⟩
theorem Sys2Proof.Laws.Encoding.tagf (w : SlotWord) : Statement (.tagf w) := ⟨rfl, by decide, by decide⟩
theorem Sys2Proof.Laws.Encoding.add (w : SlotWord) : Statement (.add w) := ⟨rfl, by decide, by decide⟩
theorem Sys2Proof.Laws.Encoding.sub (w : SlotWord) : Statement (.sub w) := ⟨rfl, by decide, by decide⟩
theorem Sys2Proof.Laws.Encoding.addc (w : SlotWord) : Statement (.addc w) := ⟨rfl, by decide, by decide⟩
theorem Sys2Proof.Laws.Encoding.subb (w : SlotWord) : Statement (.subb w) := ⟨rfl, by decide, by decide⟩
theorem Sys2Proof.Laws.Encoding.mul (w : SlotWord) : Statement (.mul w) := ⟨rfl, by decide, by decide⟩
theorem Sys2Proof.Laws.Encoding.mulh (w : SlotWord) : Statement (.mulh w) := ⟨rfl, by decide, by decide⟩
theorem Sys2Proof.Laws.Encoding.mad (w : SlotWord) : Statement (.mad w) := ⟨rfl, by decide, by decide⟩
theorem Sys2Proof.Laws.Encoding.absd (w : SlotWord) : Statement (.absd w) := ⟨rfl, by decide, by decide⟩
theorem Sys2Proof.Laws.Encoding.min (w : SlotWord) : Statement (.min w) := ⟨rfl, by decide, by decide⟩
theorem Sys2Proof.Laws.Encoding.max (w : SlotWord) : Statement (.max w) := ⟨rfl, by decide, by decide⟩
theorem Sys2Proof.Laws.Encoding.abs (w : SlotWord) : Statement (.abs w) := ⟨rfl, by decide, by decide⟩
theorem Sys2Proof.Laws.Encoding.neg (w : SlotWord) : Statement (.neg w) := ⟨rfl, by decide, by decide⟩
theorem Sys2Proof.Laws.Encoding.avg (w : SlotWord) : Statement (.avg w) := ⟨rfl, by decide, by decide⟩
theorem Sys2Proof.Laws.Encoding.indx (w : SlotWord) : Statement (.indx w) := ⟨rfl, by decide, by decide⟩
theorem Sys2Proof.Laws.Encoding.clamp (w : SlotWord) : Statement (.clamp w) := ⟨rfl, by decide, by decide⟩
theorem Sys2Proof.Laws.Encoding.dot4 (w : SlotWord) : Statement (.dot4 w) := ⟨rfl, by decide, by decide⟩
theorem Sys2Proof.Laws.Encoding.and (w : SlotWord) : Statement (.and w) := ⟨rfl, by decide, by decide⟩
theorem Sys2Proof.Laws.Encoding.or (w : SlotWord) : Statement (.or w) := ⟨rfl, by decide, by decide⟩
theorem Sys2Proof.Laws.Encoding.xor (w : SlotWord) : Statement (.xor w) := ⟨rfl, by decide, by decide⟩
theorem Sys2Proof.Laws.Encoding.andn (w : SlotWord) : Statement (.andn w) := ⟨rfl, by decide, by decide⟩
theorem Sys2Proof.Laws.Encoding.orn (w : SlotWord) : Statement (.orn w) := ⟨rfl, by decide, by decide⟩
theorem Sys2Proof.Laws.Encoding.not (w : SlotWord) : Statement (.not w) := ⟨rfl, by decide, by decide⟩
theorem Sys2Proof.Laws.Encoding.shl (w : SlotWord) : Statement (.shl w) := ⟨rfl, by decide, by decide⟩
theorem Sys2Proof.Laws.Encoding.shr (w : SlotWord) : Statement (.shr w) := ⟨rfl, by decide, by decide⟩
theorem Sys2Proof.Laws.Encoding.sar (w : SlotWord) : Statement (.sar w) := ⟨rfl, by decide, by decide⟩
theorem Sys2Proof.Laws.Encoding.rol (w : SlotWord) : Statement (.rol w) := ⟨rfl, by decide, by decide⟩
theorem Sys2Proof.Laws.Encoding.clz (w : SlotWord) : Statement (.clz w) := ⟨rfl, by decide, by decide⟩
theorem Sys2Proof.Laws.Encoding.popc (w : SlotWord) : Statement (.popc w) := ⟨rfl, by decide, by decide⟩
theorem Sys2Proof.Laws.Encoding.brev (w : SlotWord) : Statement (.brev w) := ⟨rfl, by decide, by decide⟩
theorem Sys2Proof.Laws.Encoding.extr (w : SlotWord) : Statement (.extr w) := ⟨rfl, by decide, by decide⟩
theorem Sys2Proof.Laws.Encoding.insr (w : SlotWord) : Statement (.insr w) := ⟨rfl, by decide, by decide⟩
theorem Sys2Proof.Laws.Encoding.bsel (w : SlotWord) : Statement (.bsel w) := ⟨rfl, by decide, by decide⟩
theorem Sys2Proof.Laws.Encoding.cmpeq (w : SlotWord) : Statement (.cmpeq w) := ⟨rfl, by decide, by decide⟩
theorem Sys2Proof.Laws.Encoding.cmpne (w : SlotWord) : Statement (.cmpne w) := ⟨rfl, by decide, by decide⟩
theorem Sys2Proof.Laws.Encoding.cmplt (w : SlotWord) : Statement (.cmplt w) := ⟨rfl, by decide, by decide⟩
theorem Sys2Proof.Laws.Encoding.cmple (w : SlotWord) : Statement (.cmple w) := ⟨rfl, by decide, by decide⟩
theorem Sys2Proof.Laws.Encoding.cmpgt (w : SlotWord) : Statement (.cmpgt w) := ⟨rfl, by decide, by decide⟩
theorem Sys2Proof.Laws.Encoding.cmpge (w : SlotWord) : Statement (.cmpge w) := ⟨rfl, by decide, by decide⟩
theorem Sys2Proof.Laws.Encoding.tstz (w : SlotWord) : Statement (.tstz w) := ⟨rfl, by decide, by decide⟩
theorem Sys2Proof.Laws.Encoding.cnt (w : SlotWord) : Statement (.cnt w) := ⟨rfl, by decide, by decide⟩
theorem Sys2Proof.Laws.Encoding.cnt2 (w : SlotWord) : Statement (.cnt2 w) := ⟨rfl, by decide, by decide⟩
theorem Sys2Proof.Laws.Encoding.step (w : SlotWord) : Statement (.step w) := ⟨rfl, by decide, by decide⟩
theorem Sys2Proof.Laws.Encoding.joink (w : SlotWord) : Statement (.joink w) := ⟨rfl, by decide, by decide⟩
theorem Sys2Proof.Laws.Encoding.ordj (w : SlotWord) : Statement (.ordj w) := ⟨rfl, by decide, by decide⟩
theorem Sys2Proof.Laws.Encoding.fadd (w : SlotWord) : Statement (.fadd w) := ⟨rfl, by decide, by decide⟩
theorem Sys2Proof.Laws.Encoding.fsub (w : SlotWord) : Statement (.fsub w) := ⟨rfl, by decide, by decide⟩
theorem Sys2Proof.Laws.Encoding.fmul (w : SlotWord) : Statement (.fmul w) := ⟨rfl, by decide, by decide⟩
theorem Sys2Proof.Laws.Encoding.fma (w : SlotWord) : Statement (.fma w) := ⟨rfl, by decide, by decide⟩
theorem Sys2Proof.Laws.Encoding.fnma (w : SlotWord) : Statement (.fnma w) := ⟨rfl, by decide, by decide⟩
theorem Sys2Proof.Laws.Encoding.fms (w : SlotWord) : Statement (.fms w) := ⟨rfl, by decide, by decide⟩
theorem Sys2Proof.Laws.Encoding.fmin (w : SlotWord) : Statement (.fmin w) := ⟨rfl, by decide, by decide⟩
theorem Sys2Proof.Laws.Encoding.fmax (w : SlotWord) : Statement (.fmax w) := ⟨rfl, by decide, by decide⟩
theorem Sys2Proof.Laws.Encoding.fabs (w : SlotWord) : Statement (.fabs w) := ⟨rfl, by decide, by decide⟩
theorem Sys2Proof.Laws.Encoding.fneg (w : SlotWord) : Statement (.fneg w) := ⟨rfl, by decide, by decide⟩
theorem Sys2Proof.Laws.Encoding.fcmpeq (w : SlotWord) : Statement (.fcmpeq w) := ⟨rfl, by decide, by decide⟩
theorem Sys2Proof.Laws.Encoding.fcmplt (w : SlotWord) : Statement (.fcmplt w) := ⟨rfl, by decide, by decide⟩
theorem Sys2Proof.Laws.Encoding.fcmple (w : SlotWord) : Statement (.fcmple w) := ⟨rfl, by decide, by decide⟩
theorem Sys2Proof.Laws.Encoding.fcmpun (w : SlotWord) : Statement (.fcmpun w) := ⟨rfl, by decide, by decide⟩
theorem Sys2Proof.Laws.Encoding.fclass (w : SlotWord) : Statement (.fclass w) := ⟨rfl, by decide, by decide⟩
theorem Sys2Proof.Laws.Encoding.fscale (w : SlotWord) : Statement (.fscale w) := ⟨rfl, by decide, by decide⟩
theorem Sys2Proof.Laws.Encoding.frnd (w : SlotWord) : Statement (.frnd w) := ⟨rfl, by decide, by decide⟩
theorem Sys2Proof.Laws.Encoding.frcp (w : SlotWord) : Statement (.frcp w) := ⟨rfl, by decide, by decide⟩
theorem Sys2Proof.Laws.Encoding.frsq (w : SlotWord) : Statement (.frsq w) := ⟨rfl, by decide, by decide⟩
theorem Sys2Proof.Laws.Encoding.fsqrt (w : SlotWord) : Statement (.fsqrt w) := ⟨rfl, by decide, by decide⟩
theorem Sys2Proof.Laws.Encoding.fdiv (w : SlotWord) : Statement (.fdiv w) := ⟨rfl, by decide, by decide⟩
theorem Sys2Proof.Laws.Encoding.fexp2 (w : SlotWord) : Statement (.fexp2 w) := ⟨rfl, by decide, by decide⟩
theorem Sys2Proof.Laws.Encoding.flog2 (w : SlotWord) : Statement (.flog2 w) := ⟨rfl, by decide, by decide⟩
theorem Sys2Proof.Laws.Encoding.fsum (w : SlotWord) : Statement (.fsum w) := ⟨rfl, by decide, by decide⟩
theorem Sys2Proof.Laws.Encoding.fdot (w : SlotWord) : Statement (.fdot w) := ⟨rfl, by decide, by decide⟩
theorem Sys2Proof.Laws.Encoding.fmaxa (w : SlotWord) : Statement (.fmaxa w) := ⟨rfl, by decide, by decide⟩
theorem Sys2Proof.Laws.Encoding.cvt (w : SlotWord) : Statement (.cvt w) := ⟨rfl, by decide, by decide⟩
theorem Sys2Proof.Laws.Encoding.ftoi (w : SlotWord) : Statement (.ftoi w) := ⟨rfl, by decide, by decide⟩
theorem Sys2Proof.Laws.Encoding.itof (w : SlotWord) : Statement (.itof w) := ⟨rfl, by decide, by decide⟩
theorem Sys2Proof.Laws.Encoding.sxpk (w : SlotWord) : Statement (.sxpk w) := ⟨rfl, by decide, by decide⟩
theorem Sys2Proof.Laws.Encoding.sxup (w : SlotWord) : Statement (.sxup w) := ⟨rfl, by decide, by decide⟩
theorem Sys2Proof.Laws.Encoding.sxex (w : SlotWord) : Statement (.sxex w) := ⟨rfl, by decide, by decide⟩
theorem Sys2Proof.Laws.Encoding.alloc (w : SlotWord) : Statement (.alloc w) := ⟨rfl, by decide, by decide⟩
theorem Sys2Proof.Laws.Encoding.seal (w : SlotWord) : Statement (.seal w) := ⟨rfl, by decide, by decide⟩
theorem Sys2Proof.Laws.Encoding.release (w : SlotWord) : Statement (.release w) := ⟨rfl, by decide, by decide⟩
theorem Sys2Proof.Laws.Encoding.retain (w : SlotWord) : Statement (.retain w) := ⟨rfl, by decide, by decide⟩
theorem Sys2Proof.Laws.Encoding.tld (w : SlotWord) : Statement (.tld w) := ⟨rfl, by decide, by decide⟩
theorem Sys2Proof.Laws.Encoding.tst (w : SlotWord) : Statement (.tst w) := ⟨rfl, by decide, by decide⟩
theorem Sys2Proof.Laws.Encoding.tldw (w : SlotWord) : Statement (.tldw w) := ⟨rfl, by decide, by decide⟩
theorem Sys2Proof.Laws.Encoding.tstw (w : SlotWord) : Statement (.tstw w) := ⟨rfl, by decide, by decide⟩
theorem Sys2Proof.Laws.Encoding.tzero (w : SlotWord) : Statement (.tzero w) := ⟨rfl, by decide, by decide⟩
theorem Sys2Proof.Laws.Encoding.tinfo (w : SlotWord) : Statement (.tinfo w) := ⟨rfl, by decide, by decide⟩
theorem Sys2Proof.Laws.Encoding.tpln (w : SlotWord) : Statement (.tpln w) := ⟨rfl, by decide, by decide⟩
theorem Sys2Proof.Laws.Encoding.pool (w : SlotWord) : Statement (.pool w) := ⟨rfl, by decide, by decide⟩
theorem Sys2Proof.Laws.Encoding.acca (w : SlotWord) : Statement (.acca w) := ⟨rfl, by decide, by decide⟩
theorem Sys2Proof.Laws.Encoding.accf (w : SlotWord) : Statement (.accf w) := ⟨rfl, by decide, by decide⟩
theorem Sys2Proof.Laws.Encoding.ld (w : SlotWord) : Statement (.ld w) := ⟨rfl, by decide, by decide⟩
theorem Sys2Proof.Laws.Encoding.ldt (w : SlotWord) : Statement (.ldt w) := ⟨rfl, by decide, by decide⟩
theorem Sys2Proof.Laws.Encoding.lda (w : SlotWord) : Statement (.lda w) := ⟨rfl, by decide, by decide⟩
theorem Sys2Proof.Laws.Encoding.st (w : SlotWord) : Statement (.st w) := ⟨rfl, by decide, by decide⟩
theorem Sys2Proof.Laws.Encoding.stt (w : SlotWord) : Statement (.stt w) := ⟨rfl, by decide, by decide⟩
theorem Sys2Proof.Laws.Encoding.stl (w : SlotWord) : Statement (.stl w) := ⟨rfl, by decide, by decide⟩
theorem Sys2Proof.Laws.Encoding.pref (w : SlotWord) : Statement (.pref w) := ⟨rfl, by decide, by decide⟩
theorem Sys2Proof.Laws.Encoding.fence (w : SlotWord) : Statement (.fence w) := ⟨rfl, by decide, by decide⟩
theorem Sys2Proof.Laws.Encoding.aadd (w : SlotWord) : Statement (.aadd w) := ⟨rfl, by decide, by decide⟩
theorem Sys2Proof.Laws.Encoding.amin (w : SlotWord) : Statement (.amin w) := ⟨rfl, by decide, by decide⟩
theorem Sys2Proof.Laws.Encoding.amax (w : SlotWord) : Statement (.amax w) := ⟨rfl, by decide, by decide⟩
theorem Sys2Proof.Laws.Encoding.aand (w : SlotWord) : Statement (.aand w) := ⟨rfl, by decide, by decide⟩
theorem Sys2Proof.Laws.Encoding.aor (w : SlotWord) : Statement (.aor w) := ⟨rfl, by decide, by decide⟩
theorem Sys2Proof.Laws.Encoding.axor (w : SlotWord) : Statement (.axor w) := ⟨rfl, by decide, by decide⟩
theorem Sys2Proof.Laws.Encoding.axchg (w : SlotWord) : Statement (.axchg w) := ⟨rfl, by decide, by decide⟩
theorem Sys2Proof.Laws.Encoding.acas (w : SlotWord) : Statement (.acas w) := ⟨rfl, by decide, by decide⟩
theorem Sys2Proof.Laws.Encoding.afadd (w : SlotWord) : Statement (.afadd w) := ⟨rfl, by decide, by decide⟩
theorem Sys2Proof.Laws.Encoding.red (w : SlotWord) : Statement (.red w) := ⟨rfl, by decide, by decide⟩
theorem Sys2Proof.Laws.Encoding.flush (w : SlotWord) : Statement (.flush w) := ⟨rfl, by decide, by decide⟩
theorem Sys2Proof.Laws.Encoding.invl (w : SlotWord) : Statement (.invl w) := ⟨rfl, by decide, by decide⟩
theorem Sys2Proof.Laws.Encoding.mma (w : SlotWord) : Statement (.mma w) := ⟨rfl, by decide, by decide⟩
theorem Sys2Proof.Laws.Encoding.mmaz (w : SlotWord) : Statement (.mmaz w) := ⟨rfl, by decide, by decide⟩
theorem Sys2Proof.Laws.Encoding.accrd (w : SlotWord) : Statement (.accrd w) := ⟨rfl, by decide, by decide⟩
theorem Sys2Proof.Laws.Encoding.accrdn (w : SlotWord) : Statement (.accrdn w) := ⟨rfl, by decide, by decide⟩
theorem Sys2Proof.Laws.Encoding.accwr (w : SlotWord) : Statement (.accwr w) := ⟨rfl, by decide, by decide⟩
theorem Sys2Proof.Laws.Encoding.accz (w : SlotWord) : Statement (.accz w) := ⟨rfl, by decide, by decide⟩
theorem Sys2Proof.Laws.Encoding.acccv (w : SlotWord) : Statement (.acccv w) := ⟨rfl, by decide, by decide⟩
theorem Sys2Proof.Laws.Encoding.mtcfg (w : SlotWord) : Statement (.mtcfg w) := ⟨rfl, by decide, by decide⟩
theorem Sys2Proof.Laws.Encoding.copy (w : SlotWord) : Statement (.copy w) := ⟨rfl, by decide, by decide⟩
theorem Sys2Proof.Laws.Encoding.gath (w : SlotWord) : Statement (.gath w) := ⟨rfl, by decide, by decide⟩
theorem Sys2Proof.Laws.Encoding.scat (w : SlotWord) : Statement (.scat w) := ⟨rfl, by decide, by decide⟩
theorem Sys2Proof.Laws.Encoding.xcol (w : SlotWord) : Statement (.xcol w) := ⟨rfl, by decide, by decide⟩
theorem Sys2Proof.Laws.Encoding.engq (w : SlotWord) : Statement (.engq w) := ⟨rfl, by decide, by decide⟩
theorem Sys2Proof.Laws.Encoding.spawn (w : SlotWord) : Statement (.spawn w) := ⟨rfl, by decide, by decide⟩
theorem Sys2Proof.Laws.Encoding.taskd (w : SlotWord) : Statement (.taskd w) := ⟨rfl, by decide, by decide⟩
theorem Sys2Proof.Laws.Encoding.synca (w : SlotWord) : Statement (.synca w) := ⟨rfl, by decide, by decide⟩
theorem Sys2Proof.Laws.Encoding.synci (w : SlotWord) : Statement (.synci w) := ⟨rfl, by decide, by decide⟩
theorem Sys2Proof.Laws.Encoding.exit (w : SlotWord) : Statement (.exit w) := ⟨rfl, by decide, by decide⟩
theorem Sys2Proof.Laws.Encoding.exit2 (w : SlotWord) : Statement (.exit2 w) := ⟨rfl, by decide, by decide⟩
theorem Sys2Proof.Laws.Encoding.exits (w : SlotWord) : Statement (.exits w) := ⟨rfl, by decide, by decide⟩
theorem Sys2Proof.Laws.Encoding.done (w : SlotWord) : Statement (.done w) := ⟨rfl, by decide, by decide⟩
theorem Sys2Proof.Laws.Encoding.safe (w : SlotWord) : Statement (.safe w) := ⟨rfl, by decide, by decide⟩
theorem Sys2Proof.Laws.Encoding.trap (w : SlotWord) : Statement (.trap w) := ⟨rfl, by decide, by decide⟩
theorem Sys2Proof.Laws.Encoding.sysrd (w : SlotWord) : Statement (.sysrd w) := ⟨rfl, by decide, by decide⟩
theorem Sys2Proof.Laws.Encoding.syswr (w : SlotWord) : Statement (.syswr w) := ⟨rfl, by decide, by decide⟩
theorem Sys2Proof.Laws.Encoding.rsplit (w : SlotWord) : Statement (.rsplit w) := ⟨rfl, by decide, by decide⟩
theorem Sys2Proof.Laws.Encoding.rmerge (w : SlotWord) : Statement (.rmerge w) := ⟨rfl, by decide, by decide⟩
theorem Sys2Proof.Laws.Encoding.rinv (w : SlotWord) : Statement (.rinv w) := ⟨rfl, by decide, by decide⟩
theorem Sys2Proof.Laws.Encoding.rdisc (w : SlotWord) : Statement (.rdisc w) := ⟨rfl, by decide, by decide⟩
theorem Sys2Proof.Laws.Encoding.rmove (w : SlotWord) : Statement (.rmove w) := ⟨rfl, by decide, by decide⟩
theorem Sys2Proof.Laws.Encoding.rprobe (w : SlotWord) : Statement (.rprobe w) := ⟨rfl, by decide, by decide⟩
theorem Sys2Proof.Laws.Encoding.rwin (w : SlotWord) : Statement (.rwin w) := ⟨rfl, by decide, by decide⟩
theorem Sys2Proof.Laws.Encoding.cfgld (w : SlotWord) : Statement (.cfgld w) := ⟨rfl, by decide, by decide⟩
theorem Sys2Proof.Laws.Encoding.cfginv (w : SlotWord) : Statement (.cfginv w) := ⟨rfl, by decide, by decide⟩
theorem Sys2Proof.Laws.Encoding.eret (w : SlotWord) : Statement (.eret w) := ⟨rfl, by decide, by decide⟩
theorem Sys2Proof.Laws.Encoding.tracew (w : SlotWord) : Statement (.tracew w) := ⟨rfl, by decide, by decide⟩
theorem Sys2Proof.Laws.Encoding.freeze (w : SlotWord) : Statement (.freeze w) := ⟨rfl, by decide, by decide⟩
theorem Sys2Proof.Laws.Encoding.thaw (w : SlotWord) : Statement (.thaw w) := ⟨rfl, by decide, by decide⟩
theorem Sys2Proof.Laws.Encoding.resultPlacement (core site idx : Nat) : Statement (.resultPlacement core site idx) := rfl
theorem Sys2Proof.Laws.Encoding.passThrough (core site dir : Nat) : Statement (.passThrough core site dir) := rfl
theorem Sys2Proof.Laws.Encoding.steeredToken (core site dir : Nat) : Statement (.steeredToken core site dir) := rfl
theorem Sys2Proof.Laws.Encoding.wideBeatPlacement (core idx : Nat) : Statement (.wideBeatPlacement core idx) := rfl
theorem Sys2Proof.Laws.Encoding.tileWrite (core idx : Nat) : Statement (.tileWrite core idx) := rfl
theorem Sys2Proof.Laws.Encoding.chunkComplete (core idx : Nat) : Statement (.chunkComplete core idx) := rfl
theorem Sys2Proof.Laws.Encoding.journalCopy (core bank : Nat) : Statement (.journalCopy core bank) := rfl
theorem Sys2Proof.Laws.Encoding.allocGrant (core pool : Nat) : Statement (.allocGrant core pool) := rfl
theorem Sys2Proof.Laws.Encoding.compaction (core pool : Nat) : Statement (.compaction core pool) := rfl
theorem Sys2Proof.Laws.Encoding.compactionComplete (core : Nat) : Statement (.compactionComplete core) := rfl
theorem Sys2Proof.Laws.Encoding.allocDeadlock (core : Nat) : Statement (.allocDeadlock core) := rfl
theorem Sys2Proof.Laws.Encoding.packetSend (chan : Nat) : Statement (.packetSend chan) := rfl
theorem Sys2Proof.Laws.Encoding.getsPacket (slice : Nat) (at_ : SliceRead) : Statement (.getsPacket slice at_) := rfl
theorem Sys2Proof.Laws.Encoding.getx (slice : Nat) (at_ : SliceRead) : Statement (.getx slice at_) := rfl
theorem Sys2Proof.Laws.Encoding.store (slice : Nat) (at_ : SliceRead) : Statement (.store slice at_) := rfl
theorem Sys2Proof.Laws.Encoding.redPacket (slice : Nat) (at_ : SliceRead) : Statement (.redPacket slice at_) := rfl
theorem Sys2Proof.Laws.Encoding.wb (slice idx : Nat) : Statement (.wb slice idx) := rfl
theorem Sys2Proof.Laws.Encoding.evn (slice idx : Nat) : Statement (.evn slice idx) := rfl
theorem Sys2Proof.Laws.Encoding.disc (slice idx : Nat) : Statement (.disc slice idx) := rfl
theorem Sys2Proof.Laws.Encoding.ownerReply (slice idx : Nat) : Statement (.ownerReply slice idx) := rfl
theorem Sys2Proof.Laws.Encoding.invalidationAck (slice idx : Nat) : Statement (.invalidationAck slice idx) := rfl
theorem Sys2Proof.Laws.Encoding.invalidation (core idx : Nat) : Statement (.invalidation core idx) := rfl
theorem Sys2Proof.Laws.Encoding.recall (core idx : Nat) : Statement (.recall core idx) := rfl
theorem Sys2Proof.Laws.Encoding.proxyRequest (slice : Nat) (at_ : SliceRead) : Statement (.proxyRequest slice at_) := rfl
theorem Sys2Proof.Laws.Encoding.loadReply (core idx : Nat) : Statement (.loadReply core idx) := rfl
theorem Sys2Proof.Laws.Encoding.storeAck (core idx : Nat) : Statement (.storeAck core idx) := rfl
theorem Sys2Proof.Laws.Encoding.getxGrant (core idx : Nat) : Statement (.getxGrant core idx) := rfl
theorem Sys2Proof.Laws.Encoding.errorReply (core idx : Nat) : Statement (.errorReply core idx) := rfl
theorem Sys2Proof.Laws.Encoding.hbmReadComplete (line : Nat) (fail retryFail : BitVec 4) (onDie corrected : Nat) : Statement (.hbmReadComplete line fail retryFail onDie corrected) := rfl
theorem Sys2Proof.Laws.Encoding.refreshInterval (chan pc : Nat) : Statement (.refreshInterval chan pc) := rfl
theorem Sys2Proof.Laws.Encoding.refpb (chan pc : Nat) : Statement (.refpb chan pc) := rfl
theorem Sys2Proof.Laws.Encoding.refab (chan pc : Nat) : Statement (.refab chan pc) := rfl
theorem Sys2Proof.Laws.Encoding.temperatureChange (stack : Nat) (hot : Bool) : Statement (.temperatureChange stack hot) := rfl
theorem Sys2Proof.Laws.Encoding.patrolScrub (line : Nat) (fail : ReadFail) (corrected : Corrections) : Statement (.patrolScrub line fail corrected) := rfl
theorem Sys2Proof.Laws.Encoding.rangeTableMiss (die : Nat) : Statement (.rangeTableMiss die) := rfl
theorem Sys2Proof.Laws.Encoding.walkInstall (die idx : Nat) : Statement (.walkInstall die idx) := rfl
theorem Sys2Proof.Laws.Encoding.invalidationComplete (idx : Nat) : Statement (.invalidationComplete idx) := rfl
theorem Sys2Proof.Laws.Encoding.rmoveCopyComplete (idx : Nat) : Statement (.rmoveCopyComplete idx) := rfl
theorem Sys2Proof.Laws.Encoding.engineJobAccept (queue : Nat) : Statement (.engineJobAccept queue) := rfl
theorem Sys2Proof.Laws.Encoding.linear (die : Nat) (at_ : JobTurn) : Statement (.linear die at_) := rfl
theorem Sys2Proof.Laws.Encoding.toplanes (die : Nat) (at_ : JobTurn) : Statement (.toplanes die at_) := rfl
theorem Sys2Proof.Laws.Encoding.fromplanes (die : Nat) (at_ : JobTurn) : Statement (.fromplanes die at_) := rfl
theorem Sys2Proof.Laws.Encoding.gather (die : Nat) (at_ : JobTurn) : Statement (.gather die at_) := rfl
theorem Sys2Proof.Laws.Encoding.scatter (die : Nat) (at_ : JobTurn) : Statement (.scatter die at_) := rfl
theorem Sys2Proof.Laws.Encoding.allreduce (die : Nat) (at_ : JobTurn) : Statement (.allreduce die at_) := rfl
theorem Sys2Proof.Laws.Encoding.reduce (die : Nat) (at_ : JobTurn) : Statement (.reduce die at_) := rfl
theorem Sys2Proof.Laws.Encoding.bcast (die : Nat) (at_ : JobTurn) : Statement (.bcast die at_) := rfl
theorem Sys2Proof.Laws.Encoding.allgather (die : Nat) (at_ : JobTurn) : Statement (.allgather die at_) := rfl
theorem Sys2Proof.Laws.Encoding.reducescatter (die : Nat) (at_ : JobTurn) : Statement (.reducescatter die at_) := rfl
theorem Sys2Proof.Laws.Encoding.rget (die : Nat) (at_ : JobTurn) (remote : RemoteReply) : Statement (.rget die at_ remote) := rfl
theorem Sys2Proof.Laws.Encoding.rput (die : Nat) (at_ : JobTurn) (remote : RemoteReply) : Statement (.rput die at_ remote) := rfl
theorem Sys2Proof.Laws.Encoding.collectiveInstanceFill (group seq : Nat) (remote : List RankData) : Statement (.collectiveInstanceFill group seq remote) := rfl
theorem Sys2Proof.Laws.Encoding.engineJobComplete (die idx : Nat) : Statement (.engineJobComplete die idx) := rfl
theorem Sys2Proof.Laws.Encoding.engineActivation (core : Nat) : Statement (.engineActivation core) := rfl
theorem Sys2Proof.Laws.Encoding.blockDemand (core graph block : Nat) : Statement (.blockDemand core graph block) := rfl
theorem Sys2Proof.Laws.Encoding.prefetchDemand (core : Nat) : Statement (.prefetchDemand core) := rfl
theorem Sys2Proof.Laws.Encoding.blockValidationComplete (core ctx : Nat) : Statement (.blockValidationComplete core ctx) := rfl
theorem Sys2Proof.Laws.Encoding.staleContextRetire (core ctx : Nat) : Statement (.staleContextRetire core ctx) := rfl
theorem Sys2Proof.Laws.Encoding.vectorFetch (core : Nat) : Statement (.vectorFetch core) := rfl
theorem Sys2Proof.Laws.Encoding.selectorChoice (core : Nat) : Statement (.selectorChoice core) := rfl
theorem Sys2Proof.Laws.Encoding.selectorQuantumExpiry (core : Nat) : Statement (.selectorQuantumExpiry core) := rfl
theorem Sys2Proof.Laws.Encoding.threadInjection (core : Nat) : Statement (.threadInjection core) := rfl
theorem Sys2Proof.Laws.Encoding.exitComplete (core tid : Nat) : Statement (.exitComplete core tid) := rfl
theorem Sys2Proof.Laws.Encoding.gateRegistration (die idx : Nat) : Statement (.gateRegistration die idx) := rfl
theorem Sys2Proof.Laws.Encoding.threadFault (core tid : Nat) (err : Option SoftErr) : Statement (.threadFault core tid err) := rfl
theorem Sys2Proof.Laws.Encoding.freezePropagation (core space : Nat) : Statement (.freezePropagation core space) := rfl
theorem Sys2Proof.Laws.Encoding.safeDistance (core tid : Nat) : Statement (.safeDistance core tid) := rfl
theorem Sys2Proof.Laws.Encoding.timerExpiry (core : Nat) : Statement (.timerExpiry core) := rfl
theorem Sys2Proof.Laws.Encoding.preemptionRequest (core : Nat) : Statement (.preemptionRequest core) := rfl
theorem Sys2Proof.Laws.Encoding.threadPark (core tid : Nat) : Statement (.threadPark core tid) := rfl
theorem Sys2Proof.Laws.Encoding.saveImage (core : Nat) : Statement (.saveImage core) := rfl
theorem Sys2Proof.Laws.Encoding.resumption (core : Nat) : Statement (.resumption core) := rfl
theorem Sys2Proof.Laws.Encoding.resumeInjection (core tid : Nat) : Statement (.resumeInjection core tid) := rfl
theorem Sys2Proof.Laws.Encoding.taskDecrement (die idx : Nat) : Statement (.taskDecrement die idx) := rfl
theorem Sys2Proof.Laws.Encoding.taskDispatch (die : Nat) : Statement (.taskDispatch die) := rfl
theorem Sys2Proof.Laws.Encoding.taskComplete (die slot : Nat) : Statement (.taskComplete die slot) := rfl
theorem Sys2Proof.Laws.Encoding.syncArrival (die idx : Nat) : Statement (.syncArrival die idx) := rfl
theorem Sys2Proof.Laws.Encoding.syncInit (die idx : Nat) : Statement (.syncInit die idx) := rfl
theorem Sys2Proof.Laws.Encoding.syncCacheFill (die index : Nat) : Statement (.syncCacheFill die index) := rfl
theorem Sys2Proof.Laws.Encoding.boundaryTokenDelivery (core be : Nat) : Statement (.boundaryTokenDelivery core be) := rfl
theorem Sys2Proof.Laws.Encoding.mtStartGrant (die : Nat) : Statement (.mtStartGrant die) := rfl
theorem Sys2Proof.Laws.Encoding.laneRetrain (port lane : Nat) (errs : LaneErrs) : Statement (.laneRetrain port lane errs) := rfl
theorem Sys2Proof.Laws.Encoding.laneHandback (port lane : Nat) : Statement (.laneHandback port lane) := rfl
theorem Sys2Proof.Laws.Encoding.laneSignalLoss (port lane : Nat) : Statement (.laneSignalLoss port lane) := rfl
theorem Sys2Proof.Laws.Encoding.linkTraining (port : Nat) (trelpin : Bool) : Statement (.linkTraining port trelpin) := rfl
theorem Sys2Proof.Laws.Encoding.remoteRmaWrite (port : Nat) (at_ : RmaPiece) (data : List Byte) : Statement (.remoteRmaWrite port at_ data) := rfl
theorem Sys2Proof.Laws.Encoding.remoteRmaRead (port : Nat) (at_ : RmaPiece) (len : Nat) : Statement (.remoteRmaRead port at_ len) := rfl
theorem Sys2Proof.Laws.Encoding.hello (flow : Nat) (key : List Byte) : Statement (.hello flow key) := rfl
theorem Sys2Proof.Laws.Encoding.prove (flow : Nat) (sig : List Byte) : Statement (.prove flow sig) := rfl
theorem Sys2Proof.Laws.Encoding.claim (session : Nat) : Statement (.claim session) := rfl
theorem Sys2Proof.Laws.Encoding.handover (session target : Nat) : Statement (.handover session target) := rfl
theorem Sys2Proof.Laws.Encoding.accept (session : Nat) : Statement (.accept session) := rfl
theorem Sys2Proof.Laws.Encoding.beat (session : Nat) : Statement (.beat session) := rfl
theorem Sys2Proof.Laws.Encoding.status (session : Nat) : Statement (.status session) := rfl
theorem Sys2Proof.Laws.Encoding.telem (session : Nat) : Statement (.telem session) := rfl
theorem Sys2Proof.Laws.Encoding.trace (session die offset len : Nat) : Statement (.trace session die offset len) := rfl
theorem Sys2Proof.Laws.Encoding.quote (session : Nat) (nonce : List Byte) (space : Nat) : Statement (.quote session nonce space) := rfl
theorem Sys2Proof.Laws.Encoding.space (session : Nat) (req : SpaceReq) : Statement (.space session req) := rfl
theorem Sys2Proof.Laws.Encoding.queue (session space : Nat) (create : Bool) : Statement (.queue session space create) := rfl
theorem Sys2Proof.Laws.Encoding.admitGraph (session graph dir : Nat) (sig : List Byte) : Statement (.admitGraph session graph dir sig) := rfl
theorem Sys2Proof.Laws.Encoding.mgmt (session addr : Nat) (value : BitVec 64) : Statement (.mgmt session addr value) := rfl
theorem Sys2Proof.Laws.Encoding.launch (session queue port : Nat) (records : List (List Byte)) (map : List Byte) : Statement (.launch session queue port records map) := rfl
theorem Sys2Proof.Laws.Encoding.ownershipTimeout : Statement (.ownershipTimeout) := rfl
theorem Sys2Proof.Laws.Encoding.sessionClose (session : Nat) : Statement (.sessionClose session) := rfl
theorem Sys2Proof.Laws.Encoding.telemetrySample (die iavg pavg pmax : Nat) : Statement (.telemetrySample die iavg pavg pmax) := rfl
theorem Sys2Proof.Laws.Encoding.traceRecordAppend (die : Nat) : Statement (.traceRecordAppend die) := rfl
theorem Sys2Proof.Laws.Encoding.moduleReset (cause : ResetCause) (cfg : BootInputs) : Statement (.moduleReset cause cfg) := rfl
theorem Sys2Proof.Laws.Encoding.dieReset (idx : Nat) : Statement (.dieReset idx) := rfl
theorem Sys2Proof.Laws.Encoding.coreReset (idx : Nat) : Statement (.coreReset idx) := rfl
theorem Sys2Proof.Laws.Encoding.dcbootClear (idx : Nat) : Statement (.dcbootClear idx) := rfl
theorem Sys2Proof.Laws.Encoding.serviceCoreRelease (idx : Nat) : Statement (.serviceCoreRelease idx) := rfl
theorem Sys2Proof.Laws.Encoding.readSweep (idx : Nat) : Statement (.readSweep idx) := rfl
theorem Sys2Proof.Laws.Encoding.writeSweep (idx : Nat) : Statement (.writeSweep idx) := rfl
theorem Sys2Proof.Laws.Encoding.patternTest (idx : Nat) : Statement (.patternTest idx) := rfl
theorem Sys2Proof.Laws.Encoding.phyCommandComplete (slice : Nat) (eyes : List (BitVec 16)) (errs : Nat) : Statement (.phyCommandComplete slice eyes errs) := rfl
theorem Sys2Proof.Laws.Encoding.phrepWrite (idx : Nat) : Statement (.phrepWrite idx) := rfl
theorem Sys2Proof.Laws.Encoding.trainedWrite (idx : Nat) : Statement (.trainedWrite idx) := rfl
theorem Sys2Proof.Laws.Encoding.pcInitComplete (chan pc : Nat) : Statement (.pcInitComplete chan pc) := rfl
theorem Sys2Proof.Laws.Encoding.registerWrite (idx : Nat) : Statement (.registerWrite idx) := rfl
theorem Sys2Proof.Laws.Encoding.fabricClockChange (core : Nat) : Statement (.fabricClockChange core) := rfl
theorem Sys2Proof.Laws.Encoding.hbmWriteComplete (line : Nat) : Statement (.hbmWriteComplete line) := rfl
theorem Sys2Proof.Laws.Encoding.connectionSetup (port : Nat) (features : List Feature) : Statement (.connectionSetup port features) := rfl
end

