-- ==== Sys2Proof/Tests/Slice0.lean ====
section
/-! SUPPORT. Tests: words decoded as the manual's tables have them, ill-formed words refused, and for each statement with hypotheses states that
meet them. -/

namespace Sys2Proof.Tests

open Sys2Proof Sys2Proof.Machine Sys2Proof.Says

set_option Elab.async false

/-! ### Decoding -/

/-- A word whose fields are all zero but for the codes that R55 and R56 give to no source (14) and to no register (8). -/
def plain : SlotWord :=
  { pm := 0, pv := 0, cg3 := .off, cg2 := .off, cg1 := .off, cg0 := .off, fmt := .raw, mod := 0, sa := .zero, sb := .zero, sc := .zero
    dr := none, om := 0, ok := .dat, dq := 0, pd := 0, pu := .none, sq := .none, ps := 0, imm := 0 }

/-- The same by R53: OP in [99:91], SA in [83:78], SB in [77:72], SC in [71:66], DR in [65:62]. -/
def plainBits (op : Nat) : Nat := op * 2 ^ 91 + 14 * 2 ^ 78 + 14 * 2 ^ 72 + 14 * 2 ^ 66 + 8 * 2 ^ 62

/-- R70: the opcodes of this family, as the opcode map has them. -/
theorem test_decode_moves : ([
  (0x001, .mov), (0x002, .movi), (0x003, .sel), (0x004, .selk), (0x005, .drop), (0x006, .emit), (0x007, .plog), (0x008, .pset),
  (0x009, .ptest), (0x00A, .lane), (0x00B, .shuf), (0x00C, .pack), (0x00D, .unpk), (0x00E, .gets), (0x00F, .tagf)] : List (Nat × (SlotWord → Instr))).all
    (fun p => decide (decodeTableWord 128 (plainBits p.1) = some (p.2 plain))) = true := by decide +kernel

/-- R70: the opcodes of this family, as the opcode map has them. -/
theorem test_decode_integer : ([
  (0x020, .add), (0x021, .sub), (0x022, .addc), (0x023, .subb), (0x024, .mul), (0x025, .mulh), (0x026, .mad), (0x027, .absd),
  (0x028, .min), (0x029, .max), (0x02A, .abs), (0x02B, .neg), (0x02C, .avg), (0x02D, .indx), (0x02E, .clamp), (0x02F, .dot4),
  (0x030, .and), (0x031, .or), (0x032, .xor), (0x033, .andn), (0x034, .orn), (0x035, .not), (0x036, .shl), (0x037, .shr),
  (0x038, .sar), (0x039, .rol), (0x03A, .clz), (0x03B, .popc), (0x03C, .brev), (0x03D, .extr), (0x03E, .insr), (0x03F, .bsel),
  (0x040, .cmpeq), (0x041, .cmpne), (0x042, .cmplt), (0x043, .cmple), (0x044, .cmpgt), (0x045, .cmpge), (0x046, .tstz)] : List (Nat × (SlotWord → Instr))).all
    (fun p => decide (decodeTableWord 128 (plainBits p.1) = some (p.2 plain))) = true := by decide +kernel

/-- R70: the opcodes of this family, as the opcode map has them. -/
theorem test_decode_counters : ([
  (0x050, .cnt), (0x051, .cnt2), (0x052, .step), (0x053, .joink), (0x054, .ordj)] : List (Nat × (SlotWord → Instr))).all
    (fun p => decide (decodeTableWord 128 (plainBits p.1) = some (p.2 plain))) = true := by decide +kernel

/-- R70: the opcodes of this family, as the opcode map has them. -/
theorem test_decode_float : ([
  (0x060, .fadd), (0x061, .fsub), (0x062, .fmul), (0x063, .fma), (0x064, .fnma), (0x065, .fms), (0x066, .fmin), (0x067, .fmax),
  (0x068, .fabs), (0x069, .fneg), (0x06A, .fcmpeq), (0x06B, .fcmplt), (0x06C, .fcmple), (0x06D, .fcmpun), (0x06E, .fclass),
  (0x06F, .fscale), (0x070, .frnd), (0x071, .frcp), (0x072, .frsq), (0x073, .fsqrt), (0x074, .fdiv), (0x075, .fexp2),
  (0x076, .flog2), (0x077, .fsum), (0x078, .fdot), (0x079, .cvt), (0x07A, .ftoi), (0x07B, .itof), (0x07C, .sxpk), (0x07D, .sxup),
  (0x07E, .sxex), (0x07F, .fmaxa)] : List (Nat × (SlotWord → Instr))).all
    (fun p => decide (decodeTableWord 128 (plainBits p.1) = some (p.2 plain))) = true := by decide +kernel

/-- R70: the opcodes of this family, as the opcode map has them. -/
theorem test_decode_tiles : ([
  (0x0A0, .alloc), (0x0A1, .seal), (0x0A2, .release), (0x0A3, .retain), (0x0A4, .tld), (0x0A5, .tst), (0x0A6, .tldw),
  (0x0A7, .tstw), (0x0A8, .tzero), (0x0A9, .tinfo), (0x0AA, .tpln), (0x0AB, .pool), (0x0AC, .acca), (0x0AD, .accf)] : List (Nat × (SlotWord → Instr))).all
    (fun p => decide (decodeTableWord 128 (plainBits p.1) = some (p.2 plain))) = true := by decide +kernel

/-- R70: the opcodes of this family, as the opcode map has them. -/
theorem test_decode_memory : ([
  (0x0C0, .ld), (0x0C1, .st), (0x0C2, .lda), (0x0C3, .stl), (0x0C4, .ldt), (0x0C5, .stt), (0x0C6, .pref), (0x0C7, .fence),
  (0x0C8, .aadd), (0x0C9, .amin), (0x0CA, .amax), (0x0CB, .aand), (0x0CC, .aor), (0x0CD, .axor), (0x0CE, .axchg), (0x0CF, .acas),
  (0x0D0, .afadd), (0x0D1, .red), (0x0D2, .flush), (0x0D3, .invl)] : List (Nat × (SlotWord → Instr))).all
    (fun p => decide (decodeTableWord 128 (plainBits p.1) = some (p.2 plain))) = true := by decide +kernel

/-- R70: the opcodes of this family, as the opcode map has them. -/
theorem test_decode_matrix : ([
  (0x0E0, .mma), (0x0E1, .mmaz), (0x0E2, .accrd), (0x0E3, .accrdn), (0x0E4, .accwr), (0x0E5, .accz), (0x0E6, .acccv),
  (0x0E7, .mtcfg)] : List (Nat × (SlotWord → Instr))).all
    (fun p => decide (decodeTableWord 128 (plainBits p.1) = some (p.2 plain))) = true := by decide +kernel

/-- R70: the opcodes of this family, as the opcode map has them. -/
theorem test_decode_engines : ([
  (0x100, .copy), (0x101, .gath), (0x102, .scat), (0x103, .xcol), (0x104, .engq), (0x105, .spawn), (0x106, .taskd),
  (0x107, .synca), (0x108, .synci)] : List (Nat × (SlotWord → Instr))).all
    (fun p => decide (decodeTableWord 128 (plainBits p.1) = some (p.2 plain))) = true := by decide +kernel

/-- R70: the opcodes of this family, as the opcode map has them. -/
theorem test_decode_threads : ([
  (0x120, .exit), (0x121, .exit2), (0x122, .exits), (0x123, .done), (0x124, .safe), (0x125, .trap)] : List (Nat × (SlotWord → Instr))).all
    (fun p => decide (decodeTableWord 128 (plainBits p.1) = some (p.2 plain))) = true := by decide +kernel

/-- R70: the opcodes of this family, as the opcode map has them. -/
theorem test_decode_privileged : ([
  (0x180, .sysrd), (0x181, .syswr), (0x182, .rsplit), (0x183, .rmerge), (0x184, .rinv), (0x185, .rdisc), (0x186, .rmove),
  (0x187, .rprobe), (0x188, .rwin), (0x189, .cfgld), (0x18A, .cfginv), (0x18B, .eret), (0x18C, .tracew), (0x18D, .freeze),
  (0x18E, .thaw)] : List (Nat × (SlotWord → Instr))).all
    (fun p => decide (decodeTableWord 128 (plainBits p.1) = some (p.2 plain))) = true := by decide +kernel

/-- R53: every field of a word in its own place: each holds a value that no neighbour holds. -/
theorem test_decode_fields : decodeTableWord 128
    (0xA5 * 2 ^ 120 + 0x85 * 2 ^ 112 + 7 * 2 ^ 109 + 2 * 2 ^ 106 + 1 * 2 ^ 103 + 6 * 2 ^ 100 + 0x020 * 2 ^ 91 + 5 * 2 ^ 88 + 11 * 2 ^ 84
      + 3 * 2 ^ 78 + 9 * 2 ^ 72 + 15 * 2 ^ 66 + 7 * 2 ^ 62 + 10 * 2 ^ 58 + 4 * 2 ^ 55 + 6 * 2 ^ 51 + 5 * 2 ^ 48 + 2 * 2 ^ 46 + 3 * 2 ^ 44
      + 6 * 2 ^ 41 + 0xDEADBEEF)
    = some (.add { pm := 0xA5, pv := 0x85, cg3 := .kind .ord, cg2 := .kind .dat, cg1 := .any, cg0 := .kind .bnd, fmt := .sx7, mod := 11
                   sa := .d 3, sb := .i 1, sc := .lit, dr := some 7, om := 10, ok := .bnd, dq := 6, pd := 5, pu := .any, sq := .tog, ps := 6
                   imm := 0xDEADBEEF }) := by decide +kernel

/-- R54 to R56: reserved codes are no instruction: OP 0x010, bit 32, SA 24, DR 9, OK 6. -/
theorem test_decode_reserved :
    [plainBits 0x010, plainBits 0x020 + 2 ^ 32, plainBits 0x020 + 10 * 2 ^ 78, plainBits 0x020 + 2 ^ 62, plainBits 0x020 + 6 * 2 ^ 55].all
      (fun x => decide (decodeTableWord 128 x = none)) = true := by decide +kernel

/-! ### Well-formedness (R65, R71) -/

/-- ADD at a processing element, reading i0 and i1 and taking them: accepted. -/
def goodAdd : SlotWord := { plain with sa := .i 0, sb := .i 1, cg0 := .any, cg1 := .any, dq := 3, om := 1 }

/-- LD at a memory element: its address in i0, its ordering token in i1 (R136). -/
def goodLd : SlotWord := { plain with sa := .i 0, sc := .i 1, cg0 := .any, cg1 := .kind .ord, dq := 3, om := 1 }

/-- EXIT to block 5 (R319). -/
def goodExit : SlotWord := { plain with sa := .i 0, sb := .lit, cg0 := .any, dq := 1, imm := 5 }

/-- The words that the others below differ from are accepted. -/
theorem test_wellFormed_accepts :
    ([(17, false, .add goodAdd), (64, false, .ld goodLd), (17, false, .exit goodExit), (17, true, .eret { goodExit with sb := .zero, imm := 0 })]
      : List (Nat × Bool × Instr)).all (fun p => p.2.2.wfAt p.1 p.2.1) = true := by decide +kernel

/-- R65: one ill-formed word for each check that every instruction has: PV outside PM, PD without PU, PS without SQ, OK without OM, OM without a
head, PU on a latency other than 1 (R206), an IMM that nothing reads, a wide source, FMT, MOD's type code 6, .sat where there is none, a source
that the form has not, and the kind of site. -/
theorem test_wellFormed_refuses_common :
    ([(17, false, .add { goodAdd with pv := 1 }), (17, false, .add { goodAdd with pd := 1 }), (17, false, .add { goodAdd with ps := 1 }),
      (17, false, .add { goodAdd with om := 0, ok := .scl }), (17, false, .add { goodAdd with sa := .zero, sb := .zero, dq := 0 }),
      (17, false, .mul { goodAdd with pu := .lane0 }), (17, false, .add { goodAdd with imm := 1 }), (17, false, .add { goodAdd with sa := .wa }),
      (17, false, .add { goodAdd with fmt := .f32 }), (17, false, .add { goodAdd with mod := 6 }), (17, false, .addc { goodAdd with mod := 8 }),
      (17, false, .mul { goodAdd with sc := .i 2 }), (64, false, .add goodAdd)]
      : List (Nat × Bool × Instr)).all (fun p => !p.2.2.wfAt p.1 p.2.1) = true := by decide +kernel

/-- Ill-formed words of single instructions: no ordering token (R136), a scope of FLUSH (R132), a literal past its field (R319, R178), ALLOC of pool
15 (R176), CNT without a guard (R253), an exit that leaves its head (R319), a lane type of DOT4 (R220), RETAIN of kind eor, SEAL of no
consumer (R185), and a privileged word in an image that is not (R65). -/
theorem test_wellFormed_refuses_own :
    ([(64, false, .ld { goodLd with dq := 1 }), (64, false, .ld { goodLd with cg1 := .any }), (64, false, .flush { goodLd with ok := .ord }),
      (17, false, .exit { goodExit with imm := 0x1000 }), (17, false, .exit { goodExit with dq := 0 }),
      (64, false, .alloc { goodExit with sa := .lit, imm := 0x1F, om := 1 }), (17, false, .cnt { goodAdd with sb := .zero }),
      (17, false, .dot4 { goodAdd with mod := 3 }), (64, false, .retain { goodAdd with sb := .zero, ok := .eor }),
      (64, false, .seal { goodAdd with sb := .lit, imm := 0 }), (17, false, .eret { goodExit with sb := .zero, imm := 0 }),
      (17, false, .copy goodAdd), (17, false, .mma goodAdd)]
      : List (Nat × Bool × Instr)).all (fun p => !p.2.2.wfAt p.1 p.2.1) = true := by decide +kernel

/-! ### States and words for the witnesses -/

/-- Thread 5 of a part of space 0 stands in context 0 of core 0; site 17 has a head of it at each input, of kind dat and tag F32. -/
def headTok (n : Nat) : Token := { val := mkVal (n + 1), kind := .dat, tag := .f32, ctx := 0, tid := 5 }

def siteHeads : SiteCtx :=
  { SiteCtx.empty with route := 0xFF00000000000000, entry := [0, 1, 2, 3].map fun n => (n, [⟨headTok n, 0, none⟩]) }

def part0 : RunPart :=
  { task := 0, part := 0, level := 0, graph := 0, space := 0, priv := true, session := 0, count := 6, slots := 0, entry := 0, args := 0, pools := []
    map := [], started := 0 }

def core0 : Core :=
  { Core.reset with
    part := some part0, ctxs := [(0, { Ctx.empty with validFrom := some 0 })], threads := [(5, { Thread.none with st := .inBlock })]
    sites := [(17, { Site.empty with ctxs := [(0, siteHeads)] })] }

/-- The state with a core 0, at the firing of slot 0 of context 0 of site 17 of it. -/
def onCore (c : Core) : State := { State.reset with loc := ⟨0, 17, 0, 0⟩, cores := [(0, c)] }

def st0 : State := onCore core0

/-- A word that reads and takes i0. -/
def w0 : SlotWord := { plain with sa := .i 0, cg0 := .any, dq := 1, om := 1 }

/-- One that takes all four. -/
def w4 : SlotWord := { plain with cg0 := .kind .dat, cg1 := .kind .dat, cg2 := .kind .dat, cg3 := .kind .dat, dq := 15 }

/-- A counter's bound slot: it reads i0 and emits nothing. -/
def wBound : SlotWord := { w0 with cg0 := .kind .bnd, om := 0 }

/-- The residues of the heads are good, and those of a d-register whose value has been changed are not. -/
def stBad : State := onCore { core0 with
  sites := [(17, { Site.empty with ctxs := [(0, { siteHeads with dreg := [(0, ⟨1, 0⟩)] })] })] }

/-! ### An image for the loader's checks -/

/-- An image that holds one word, at site 17, with its digest as R61 has it. -/
def imageOf (x : Nat) : Bytes :=
  let b := leBytes 0x4B424D4C 4 ++ leBytes 0 4 ++ leBytes 1 16 ++ leBytes (2 ^ 17) 32 ++ leBytes 0 8
    ++ leBytes x 16 ++ List.replicate 240 0 ++ leBytes 0xFF00000000000000 8
  putSlice b 0x38 ((sha512 b).take 8)

/-- MUL with PU 1, and DOT4 with type code 3. -/
def mulPu : Nat := 0x024 * 2 ^ 91 + 14 * 2 ^ 78 + 14 * 2 ^ 72 + 14 * 2 ^ 66 + 8 * 2 ^ 62 + 2 ^ 46
def dotThree : Nat := 0x02F * 2 ^ 91 + 3 * 2 ^ 84 + 14 * 2 ^ 78 + 14 * 2 ^ 72 + 14 * 2 ^ 66 + 8 * 2 ^ 62

/-- The image passes the checks before those of its words. -/
def passesFive (b : Bytes) : Bool :=
  let m := readImage b
  m.headerOk b && m.block == 0 && m.graph == 0 && m.digestOk b && m.tablesOk m.slots && m.entriesOk

theorem witness_WordsThatAreRefused_image :
    passesFive (imageOf mulPu) = true ∧ HasWord (readImage (imageOf mulPu)) (fun i w => w.pu ≠ .none ∧ i.latency ≠ .num 1 ∧ ∀ v, i ≠ .cnt v ∧ i ≠ .cnt2 v) := by
  refine ⟨by decide +kernel, ⟨17, BitVec.ofNat 128 mulPu :: List.replicate 15 0, 0xFF00000000000000⟩, by decide +kernel, BitVec.ofNat 128 mulPu, by decide +kernel,
    .mul { plain with pu := .lane0 }, 0x024, { plain with pu := .lane0 }, by decide +kernel, rfl, by decide, by decide, fun v => ⟨nofun, nofun⟩⟩

theorem witness_ArithmeticAndCompareResults_dot4 :
    passesFive (imageOf dotThree) = true ∧ HasWord (readImage (imageOf dotThree)) (fun i _ => ∃ v, i = .dot4 v ∧ ltype v ≠ 4 ∧ ltype v ≠ 5) := by
  refine ⟨by decide +kernel, ⟨17, BitVec.ofNat 128 dotThree :: List.replicate 15 0, 0xFF00000000000000⟩, by decide +kernel, BitVec.ofNat 128 dotThree,
    by decide +kernel, .dot4 { plain with mod := 3 }, 0x02F, { plain with mod := 3 }, by decide +kernel, rfl, { plain with mod := 3 }, rfl, by decide, by decide⟩

/-! ### Witnesses: firings that compute -/

theorem witness_WordsAndInstructionsAgree : encode (.add plain) = some (BitVec.ofNat 128 (plainBits 0x020))
    ∧ decodeWord (BitVec.ofNat 128 (plainBits 0x020)) = .ok (.add plain) := by decide +kernel

theorem witness_BadResidueGivesNoResult : computes (.add { plain with sa := .d 0 }) = some { plain with sa := .d 0 }
    ∧ residueFault stBad { plain with sa := .d 0 } = some (2, 0) := by decide +kernel

/-- Such a firing without a thread, of thread 5, and of thread 5 with a chunk of it in flight. -/
theorem witness_BadResidueGivesNoResult_threads : firingTid stBad { plain with sa := .d 0 } = none
    ∧ residueFault stBad { w0 with sa := .d 0 } = some (2, 0) ∧ firingTid stBad { w0 with sa := .d 0 } = some 5 ∧ (5 : Nat) ≠ noTid
    ∧ (stBad.here.chunks.any fun k => k.tid == 5) = false
    ∧ (let k : Chunk := { site := 35, fired := 0, due := 3, bank := 8, zero := false, reads := 3, tile := 5, tid := 5, q := [], flags := 0 };
      let s := onCore { stBad.here with chunks := [k] };
      residueFault s { w0 with sa := .d 0 } = some (2, 0) ∧ (s.here.chunks.any fun k => k.tid == 5) = true) := by decide +kernel

theorem witness_ComputingFiringsTouchOnlyTheirSite : computes (.add w0) = some w0 ∧ residueFault st0 w0 = none
    ∧ ∃ t, exec (.add w0) st0 = .next t := ⟨rfl, by decide +kernel, _, rfl⟩

theorem witness_ArithmeticAndCompareResults : (∃ lat sat f, arithmetic (.add w0) = some (w0, lat, sat, f)) ∧ (∃ rel, Says.compare (.cmpeq w0) = some (w0, rel))
    ∧ ltype { w0 with mod := 4 } = 4 ∧ residueFault st0 { w0 with mod := 5 } = none := ⟨⟨_, _, _, rfl⟩, ⟨_, rfl⟩, by decide, by decide +kernel⟩

theorem witness_LogicAndShiftResults : (∃ f, logic (.bsel w0) = some (w0, f)) ∧ (∃ f, shifts (.rol w0) = some (w0, f)) ∧ residueFault st0 w0 = none :=
  ⟨⟨_, rfl⟩, ⟨_, rfl⟩, by decide +kernel⟩

theorem witness_MoveResults : residueFault st0 w0 = none ∧ w0.sa = .i 0 ∧ st0.here.head st0.cycle st0.loc.site st0.loc.ctx 0 = some (headTok 0)
    ∧ lane (srcL st0 w0).a (lwidth w0) 0 ≠ 0 ∧ lane (srcL st0 plain).a (lwidth plain) 0 = 0 := by decide +kernel

/-- MOV with PU on predicate 0 and none, and with SQ on another. -/
def wPu : SlotWord := { w0 with pu := .lane0 }
def wSq : SlotWord := { w0 with sq := .tog, ps := 1 }

theorem witness_HeadsAndPredicates : residueFault st0 w0 = none ∧ Instr.add w0 ≠ .pset w0
    ∧ (bufFront st0.cycle (st0.hereCtx.entryBuf 0)).isSome = true := by decide +kernel

theorem witness_HeadsAndPredicates_pu : residueFault st0 wPu = none ∧ wPu.pu = .lane0 ∧ wPu.sq = .none
    ∧ residueFault st0 wSq = none ∧ wSq.pu = .none ∧ wSq.sq = .tog ∧ wSq.pd ≠ wSq.ps := by decide +kernel

theorem witness_EmitAndStep : residueFault st0 { w0 with imm := 2 } = none ∧ emitCount st0 { w0 with imm := 1 } = 1 ∧ emitCount st0 { w0 with imm := 2 } = 2 := by
  decide +kernel

theorem witness_PassesAndJoins : residueFault st0 w0 = none ∧ isBound w0 = false ∧ isBound wBound = true ∧ firingTid st0 w0 = some 5
    ∧ (tblGet (⟨0, 0⟩ : Join) st0.hereCtx.join 0).count + 1 = ({ w0 with imm := 1 } : SlotWord).imm.toNat := by decide +kernel

theorem witness_FloatLaneResults : (∃ lat g f, floatLane (.fadd w0) = some (w0, lat, g, f)) ∧ (∃ g r, floatCompare (.fcmplt w0) = some (w0, g, r))
    ∧ residueFault st0 w0 = none := ⟨⟨_, _, _, rfl⟩, ⟨_, _, rfl⟩, by decide +kernel⟩

theorem witness_SpecialSumsAndRounding : (Machine.Num.nan true).isNaN = true ∧ (∃ p q, Machine.Num.inf true = .inf p ∧ Machine.Num.fin false 0 3 = .fin q 0 3)
    ∧ ((1 : Int) ≤ 1) ∧ ((0 : Int) < 1) := ⟨rfl, ⟨_, _, rfl, rfl⟩, by decide, by decide⟩

theorem witness_ReductionResults : residueFault st0 { w0 with sb := .i 1 } = none ∧ ({ w0 with sb := .i 1 } : SlotWord).sa ≠ .zero
    ∧ ({ w0 with sb := .i 1 } : SlotWord).sb ≠ .zero := by decide +kernel

theorem witness_ConversionResults : residueFault st0 { w0 with fmt := .bf16, imm := 1 } = none ∧ (headTok 0).tag = .f32
    ∧ st0.here.head st0.cycle st0.loc.site st0.loc.ctx 0 = some (headTok 0) ∧ 1 < 128 / fpWidth { w0 with fmt := .bf16 } / (128 / (fpOf .f32).width)
    ∧ (fpDecode fpF32 0x7FC00000).isNaN = true := by decide +kernel

/-- CVT of as many lanes, of twice as many to a half of the result, and of a head that has no floating-point tag. -/
theorem witness_ConversionResults_quarters : (128 / fpWidth { w0 with fmt := .f32 } = 128 / (fpOf .f32).width ∧ (w0.imm.extractLsb' 0 2).toNat = 0)
    ∧ (128 / fpWidth { w0 with fmt := .f32 } < 128 / (fpOf .e4m3).width
      ∧ (({ w0 with imm := 3 } : SlotWord).imm.extractLsb' 0 2).toNat < 128 / (fpOf .e4m3).width / (128 / fpWidth { w0 with fmt := .f32 }))
    ∧ Fmt.raw ≠ .f32 ∧ Fmt.raw ≠ .bf16 ∧ Fmt.raw ≠ .e4m3 ∧ Fmt.raw ≠ .e5m2 := by decide +kernel

/-- A latch of input 0 for thread 5, and for another. -/
def stLatch (u : Nat) : State := onCore { core0 with
  sites := [(17, { Site.empty with ctxs := [(0, { siteHeads with latch := [(0, ⟨127, 0, u⟩)] })] })] }

theorem witness_SharedExponentBlocks :
    ((readOps st0 w4 32).heads.map (fun h => (h.1, h.2.val)) = [(0, mkVal 1), (1, mkVal 2), (2, mkVal 3), (3, mkVal 4)]
      ∧ ∀ h ∈ (readOps st0 w4 32).heads, h.2.tid = 5)
    ∧ (residueFault (stLatch 5) w0 = none ∧ firingTid (stLatch 5) w0 = some 5
      ∧ ((stLatch 5).hereCtx.latch.find? fun l => l.1 == 0).map (·.2) = some ⟨127, 0, 5⟩)
    ∧ (∀ l, ((stLatch 6).hereCtx.latch.find? fun l => l.1 == 0).map (·.2) = some l → l.tid ≠ 5) := by
  refine ⟨by decide +kernel, by decide +kernel, ?_⟩
  rintro l h; cases h; decide

/-! ### Witnesses: tiles, banks and matrix tiles -/

/-- Site 17 with the heads of `siteHeads` and d0, d1 and d2 at the values given. -/
def siteD (a b c : Nat) : SiteCtx :=
  { siteHeads with dreg := [(0, mkVal (BitVec.ofNat 128 a)), (1, mkVal (BitVec.ofNat 128 b)), (2, mkVal (BitVec.ofNat 128 c))] }

/-- Core 0 with those registers, and a beat of thread 5 at the front of the wide buffer. -/
def coreD (a b c : Nat) : Core :=
  { core0 with sites := [(17, { Site.empty with ctxs := [(0, siteD a b c)], wb := List.replicate 8 ⟨List.replicate 128 0, 0, 5, 0, none⟩ })] }

/-- A word that reads d0, d1 and d2 and takes i0, so that it is thread 5's. -/
def wD : SlotWord := { plain with sa := .d 0, sb := .d 1, sc := .d 2, cg0 := .any, dq := 1, om := 1 }

/-- Entry 5 is a tile of n granules in a state, thread 5's, with a count of consumers; d1 is an offset. -/
def stTile (st : TileState) (n cons off : Nat) : State :=
  onCore { coreD 5 off 0 with tiles := [(5, { Tile.empty with state := st, owner := 5, size := n, cons })] }

theorem names_tile (st : TileState) (n cons off : Nat) (h : residueFault (stTile st n cons off) wD = none ∧ entryNo (stTile st n cons off) wD = 5
    ∧ handle (stTile st n cons off) wD = 5 ∧ (src (stTile st n cons off) wD).tid = 5) (l : Option Nat) (hl : l = none ∨ l = some 0) :
    NamesTile (stTile st n cons off) wD l st := by
  obtain ⟨h1, h2, h3, h4⟩ := h
  have ht : tileHere (stTile st n cons off) wD = { Tile.empty with state := st, owner := 5, size := n, cons } := by unfold tileHere; rw [h2]; rfl
  refine ⟨h1, by rw [ht], by rw [ht, h3]; rfl, by rw [ht]; rfl, ?_, rfl, fun _ => by rw [ht, h4]⟩
  rintro k rfl
  obtain hl | hl := hl
  · cases hl
  · cases hl; rw [ht]; rfl

/-- Sealing with no consumer, one, 255 and 256 of them. -/
theorem witness_HandlesAndTheirCounts_seal : (∀ n ∈ [0, 1, 255, 256], NamesTile (stTile .filling 1 0 n) wD none .filling)
    ∧ (∀ n ∈ [0, 1, 255, 256], lane (src (stTile .filling 1 0 n) wD).b 32 0 = n) := by
  refine ⟨fun n h => names_tile _ _ _ _ ?_ _ (.inl rfl), by decide +kernel⟩
  have : ∀ n ∈ [0, 1, 255, 256], residueFault (stTile .filling 1 0 n) wD = none ∧ entryNo (stTile .filling 1 0 n) wD = 5
    ∧ handle (stTile .filling 1 0 n) wD = 5 ∧ (src (stTile .filling 1 0 n) wD).tid = 5 := by decide +kernel
  exact this n h

/-- A release and a retain with one consumer left and with 254; and a handle of an EMPTY entry. -/
theorem witness_HandlesAndTheirCounts : (∀ c ∈ [1, 254], NamesTile (stTile .ready 1 c 0) wD none .ready ∧ (tileHere (stTile .ready 1 c 0) wD).cons ≠ 255)
    ∧ tileNeeds (.tld wD) = some (wD, some (layoutOf wD), .ready) ∧ (tileHere (stTile .empty 1 0 0) wD).state = .empty
    ∧ residueFault (stTile .empty 1 0 0) wD = none := by
  refine ⟨fun c h => ⟨names_tile _ _ _ _ ?_ _ (.inl rfl), ?_⟩, rfl, by decide +kernel, by decide +kernel⟩
  · have : ∀ c ∈ [1, 254], residueFault (stTile .ready 1 c 0) wD = none ∧ entryNo (stTile .ready 1 c 0) wD = 5
      ∧ handle (stTile .ready 1 c 0) wD = 5 ∧ (src (stTile .ready 1 c 0) wD).tid = 5 := by decide +kernel
    exact this c h
  · have : ∀ c ∈ [1, 254], (tileHere (stTile .ready 1 c 0) wD).cons ≠ 255 := by decide +kernel
    exact this c h

/-- The tiles before and after: FILLING, and READY with one, two and 254 consumers, with and without a write-out. -/
theorem witness_TileAndBankStateChanges : ∀ c ∈ [1, 2, 254], ∀ o ∈ [true, false],
    let k : Core := { Core.reset with tiles := [(5, { Tile.empty with state := .ready, cons := c, wout := o })] }
    (6 : Nat) ≠ 5 ∧ (k.tile 5).state = .ready ∧ (k.tile 5).cons = c ∧ (k.tile 5).wout = o ∧ c < 255 := by decide +kernel

/-- A tile of one granule read at its last word, a tile past its end, and a beat of a tile of four. -/
theorem witness_TileReadsBeatsAndPools : NamesTile (stTile .ready 1 1 16) wD (some (layoutOf wD)) .ready
    ∧ lane (src (stTile .ready 1 1 16) wD).b 32 0 / 16 * 16 + 16 = 32 * (tileHere (stTile .ready 1 1 16) wD).size
    ∧ NamesTile (stTile .ready 1 1 32) wD (some (layoutOf wD)) .ready
    ∧ 32 * (tileHere (stTile .ready 1 1 32) wD).size < lane (src (stTile .ready 1 1 32) wD).b 32 0 / 16 * 16 + 16
    ∧ NamesTile (stTile .ready 4 1 0) wD (some (layoutOf wD)) .ready
    ∧ lane (src (stTile .ready 4 1 0) wD).b 32 0 / 128 * 128 + 128 = 32 * (tileHere (stTile .ready 4 1 0) wD).size
    ∧ (∃ ds, (stTile .ready 4 1 0).here.tldwDests 0 0 17 = some ds) :=
  ⟨names_tile _ _ _ _ (by decide +kernel) _ (.inr rfl), by decide +kernel, names_tile _ _ _ _ (by decide +kernel) _ (.inr rfl), by decide +kernel,
    names_tile _ _ _ _ (by decide +kernel) _ (.inr rfl), by decide +kernel, _, rfl⟩

/-- POOL fires, and its report finds the site as it left it. -/
theorem witness_TileReadsBeatsAndPools_pool : residueFault st0 w0 = none ∧ w0.om ≠ 0
    ∧ ∃ u, exec (.pool w0) st0 = .next u ∧ u.cycle = st0.cycle ∧ (u.core 0).site 17 = siteOf st0 u := ⟨by decide +kernel, by decide, _, rfl, rfl, rfl⟩

/-- TPLN of the first slab of a sub-block of SX2, in a tile of sixteen granules. -/
def wPlane : SlotWord := { wD with fmt := .sx2, mod := 2 }

theorem witness_TileReadsBeatsAndPools_planes :
    let s := onCore { coreD 5 0 0 with tiles := [(5, { Tile.empty with state := .ready, owner := 5, size := 16, layout := 2 })] }
    residueFault s wPlane = none ∧ (tileHere s wPlane).state = .ready ∧ layoutOf wPlane = (tileHere s wPlane).layout
      ∧ (slabOff wPlane.fmt (lane (src s wPlane).b 32 1)).isSome = true ∧ lane (src s wPlane).b 32 2 ≤ 7 := by decide +kernel

/-- TST at the last word of a tile, TSTW of a tile of one beat, TZERO of one granule. -/
theorem witness_TileWritesStart : NamesTile (stTile .filling 1 0 16) wD (some (layoutOf wD)) .filling
    ∧ NamesTile (stTile .filling 4 0 0) wD (some (layoutOf wD)) .filling ∧ (frontBeat (stTile .filling 4 0 0) wD).isSome = true
    ∧ NamesTile (stTile .filling 1 0 0) wD none .filling :=
  ⟨names_tile _ _ _ _ (by decide +kernel) _ (.inr rfl), names_tile _ _ _ _ (by decide +kernel) _ (.inr rfl), by decide +kernel,
    names_tile _ _ _ _ (by decide +kernel) _ (.inl rfl)⟩

/-- A grant held by slot 0 of site 17 for thread 5, of a tile and of banks; none, with sizes at the edges; and banks held. -/
def stGrant (k : ReqKind) : State := onCore { coreD 0 0 0 with grants := [⟨k, 5, 7⟩] }

theorem witness_Allocations_granted : heldGrant (stGrant (.alloc 17 0 0 0)) 5 false = some ⟨.alloc 17 0 0 0, 5, 7⟩
    ∧ heldGrant (stGrant (.acca 17 0 0)) 5 true = some ⟨.acca 17 0 0, 5, 7⟩ ∧ residueFault (stGrant (.acca 17 0 0)) wD = none
    ∧ (src (stGrant (.acca 17 0 0)) wD).tid = 5 := by decide +kernel

theorem witness_Allocations : ∀ m ∈ [0, 1, 192, 193], let s := onCore (coreD 0 m 0)
    residueFault s wD = none ∧ heldGrant s 5 false = none ∧ heldGrant s 5 true = none ∧ hasReq s 5 = false ∧ lane (src s wD).b 32 0 = m
      ∧ allocOk s wD (src s wD) = false := by decide +kernel

/-- A request of all that a pool's reserve allows, with nothing granted and nothing asked. -/
theorem witness_Allocations_asked : let s := onCore { coreD 0 4 0 with pools := [(0, ⟨0, 8, 4⟩)] }
    residueFault s wD = none ∧ heldGrant s 5 false = none ∧ hasReq s 5 = false ∧ allocOk s wD (src s wD) = true ∧ s.commitWaits 0 5 = false := by decide +kernel

/-- An entry of the thread's area waits to be sent until an earlier one is acknowledged (R154). -/
theorem witness_Allocations_waits :
    let e : AreaEntry := { oper := 0, scope := 0, signed := false, sent := false, mask := 1, pwa := 0, data := 0, id := 0, node := 0
                           held := false, go := false, vas := [] };
    let s := onCore { coreD 0 4 0 with
      pools := [(0, ⟨0, 8, 4⟩)], threads := [(5, { Thread.none with st := .inBlock, runs := [(0, 4)], area := [{ e with sent := true, go := true }, { e with id := 1, oper := 1, scope := 2 }] })] };
    residueFault s wD = none ∧ heldGrant s 5 false = none ∧ hasReq s 5 = false ∧ allocOk s wD (src s wD) = true ∧ s.commitWaits 0 5 = true := by
  decide +kernel

/-- Banks 8 and 9 are thread 5's, with nothing in flight on them, and their journals are taken. -/
def stBank (b : Nat) : State :=
  onCore { coreD b 0 0 with banks := [(8, { Bank.empty with holder := some 5, first := 8, count := 2, journal := some [] }),
    (9, { Bank.empty with holder := some 5, first := 8, count := 2, journal := some [] })] }

theorem witness_Allocations_accf : ((stBank 8).here.bank 8).holder = some (src (stBank 8) wD).tid ∧ ((stBank 8).here.bank 8).first = 8
    ∧ (stBank 8).here.chunks = [] ∧ lane (src (stBank 8) wD).a 32 0 = 8 ∧ ((stBank 9).here.bank 9).first ≠ 9
    ∧ ((stBank 10).here.bank 10).holder ≠ some (src (stBank 10) wD).tid := by decide +kernel

theorem witness_MatrixTilesAndBanks : HasBank (stBank 8) wD ∧ Drained (stBank 8) wD ∧ ((stBank 8).here.bank 8).journal.isSome = true
    ∧ residueFault (stBank 192) wD = none ∧ ¬ (lane (src (stBank 192) wD).a 32 0 ≤ 191) :=
  ⟨by unfold HasBank; decide +kernel, by unfold Drained; decide +kernel, by decide +kernel, by decide +kernel, by decide +kernel⟩

/-- MMA of E4M3 by E4M3: SC holds sub-block 0, the handle of tile 5 and bank 8. -/
def wMma : SlotWord := { wD with sa := .wa, sb := .wb, fmt := .e4m3, mod := 3 }

def stMma : State :=
  let s := onCore { coreD 0 0 (5 * 2 ^ 32 + 8 * 2 ^ 64) with
    banks := (stBank 8).here.banks, tiles := [(5, { Tile.empty with state := .ready, cons := 1, layout := 2, size := 32 })] }
  { s with cores := [(0, s.here.modSite 17 fun x => { x with lastMma := some 0 })] }

theorem witness_MatrixMultiplies :
    let s := stMma
    let o := src s wMma
    residueFault s wMma = none ∧ (o.c.extractLsb' 32 16).toNat = 5 ∧ lane o.c 32 2 = 8 ∧ o.tid = 5
      ∧ (lane o.c 32 0 + 1) * subBlock (aFmt wMma) = 32 * (s.here.tile 5).size
      ∧ (s.here.bank 8).holder = some o.tid ∧ (s.here.bank 9).holder = some o.tid ∧ (chunkBeats s wMma o.tid).isSome = true
      ∧ s.hereSite.busy ≤ s.cycle ∧ s.here.chunks = [] ∧ (s.here.bank 8).journal.isSome = true ∧ (s.here.bank 9).journal.isSome = true
      ∧ s.hereSite.lastMma = some 0 := by decide +kernel

theorem witness_MatrixMultiplies_tile : tileUse stMma 5 (some 2) false 5 = .ok := by rfl

/-! ### Witnesses: memory elements -/

/-- A range of space 0 from 0x1000 to 0x2000 with permissions p, mapped to itself, its window open (R93). -/
def range0 (p : Nat) : Desc := ⟨0x1000, 0x2000 + BitVec.ofNat 64 p, 0, 0x10⟩

/-- Core 0 with d0 a virtual address, d1 and d2, that range in its table, line 32 in a state, and the areas of thread 5. -/
def coreMem (a b c p : Nat) (cs : CopyState) (area : List AreaEntry) : Core :=
  { coreD a b c with
    rtab := [⟨some 0, range0 p⟩], l1 := [(32, ⟨cs, List.replicate 128 0, 0⟩)]
    threads := [(5, { Thread.none with st := .inBlock, runs := [(0, 1)], area })] }

/-- Die 0 with SPTBASE.EN set, so that its cores translate. -/
def onDie (c : Core) : State := { onCore c with dies := [(0, { Die.reset with sptBase := 1 })] }

/-- A memory word: the address in d0, thread 5's. -/
def wMem : SlotWord := { wD with om := 1 }
def wOrd : SlotWord := { wD with ok := .ord }

theorem fresh_number (a b c p : Nat) (cs : CopyState) (area : List AreaEntry) : FreshNumber (onDie (coreMem a b c p cs area)) :=
  ⟨fun _ h => (nomatch h), fun _ h => (nomatch h)⟩

/-- The range is in no entry of the table. -/
theorem witness_AccessChecksAndMisses : translated (onDie { coreMem 0x1000 0 0 0x1F .i [] with rtab := [] }) (.lda wMem) = some (wMem, .lda, .read, 0x1000, 4)
    ∧ residueFault (onDie { coreMem 0x1000 0 0 0x1F .i [] with rtab := [] }) wMem = none
    ∧ xlate (onDie { coreMem 0x1000 0 0 0x1F .i [] with rtab := [] }).here.rtab true 0 false .read 0x1000 4 = .miss 0x1000
    ∧ (onDie (coreMem 0x1000 0 0 0x1F .i [])).xlateOn 0 = true ∧ (onDie (coreMem 0x1000 0 0 0x1F .i [])).hereSpace = 0 := by
  refine ⟨by rfl, by decide +kernel, by decide +kernel, by decide +kernel, by decide +kernel⟩

/-- A read without the permission R, of a PREF and of an LDA; and a load of a line that the core does not hold. -/
theorem noEarlier (a b c p : Nat) (cs : CopyState) (area : List AreaEntry) (pa : Nat) : NoEarlierLoad (onDie (coreMem a b c p cs area)) pa :=
  fun _ h => (nomatch h)

theorem witness_AccessChecksAndMisses_fail :
    translated (onDie (coreMem 0x1000 0 0 0x1D .i [])) (.pref wMem) = some (wMem, .pref, .read, 0x1000, 1)
    ∧ (∃ code bad detail, xlate (onDie (coreMem 0x1000 0 0 0x1D .i [])).here.rtab true 0 false .read 0x1000 1 = .fail code bad detail)
    ∧ (∃ table, Translates (onDie (coreMem 0x1FFC 0 0 0x1F .i [])) .read 0x1FFC 4 0x1FFC table)
    ∧ (copyAt (onDie (coreMem 0x1FFC 0 0 0x1F .i [])) 0x1FFC).st = .i ∧ (threadHere (onDie (coreMem 0x1FFC 0 0 0x1F .i [])) wMem).area = []
    ∧ NoEarlierLoad (onDie (coreMem 0x1FFC 0 0 0x1F .i [])) 0x1FFC := by
  refine ⟨by rfl, ⟨_, _, _, by rfl⟩, ⟨_, rfl, by decide⟩, by decide +kernel, by decide +kernel, noEarlier _ _ _ _ _ _ _⟩

/-- A firing of no thread that fails the check, as an event's: its word takes no head. -/
theorem witness_AccessChecksAndMisses_nobody :
    let w : SlotWord := { wMem with cg0 := .off, dq := 0 };
    let s := onDie (coreMem 0x1000 0 0 0x1D .i []);
    translated s (.lda w) = some (w, .lda, .read, 0x1000, 4) ∧ residueFault s w = none ∧ (src s w).tid = noTid
      ∧ (∃ code bad detail, xlate s.here.rtab true 0 false .read 0x1000 4 = .fail code bad detail) :=
  ⟨by rfl, by decide +kernel, by decide +kernel, _, _, _, by rfl⟩

/-- A line that the core holds E: loads of it, an atomic on it, and their tokens of kind dat. -/
theorem witness_HeldLinesAnswer : (∃ table, Translates (onDie (coreMem 0x1004 0 0 0x1F .e [])) .read 0x1004 4 0x1004 table)
    ∧ (∃ table, Translates (onDie (coreMem 0x1000 0 0 0x1F .e [])) .read 0x1000 16 0x1000 table)
    ∧ (∃ table, Translates (onDie (coreMem 0x1000 0 0 0x1F .e [])) .atomic 0x1000 4 0x1000 table)
    ∧ Readable (copyAt (onDie (coreMem 0x1004 0 0 0x1F .e [])) 0x1004) ∧ (copyAt (onDie (coreMem 0x1004 0 0 0x1F .e [])) 0x1004).st = .e
    ∧ (threadHere (onDie (coreMem 0x1004 0 0 0x1F .e [])) wMem).area = [] ∧ wMem.ok ≠ .ord
    ∧ (∃ tag f, atomics (.acas wMem) = some (wMem, tag, f)) ∧ wordVa (onDie (coreMem 0x1003 0 0 0x1F .e [])) wMem = 0x1000
    ∧ NoEarlierLoad (onDie (coreMem 0x1004 0 0 0x1F .e [])) 0x1004 ∧ (copyAt (onDie (coreMem 0x1004 0 0 0x1F .m [])) 0x1004).st = .m := by
  refine ⟨⟨_, rfl, by decide⟩, ⟨_, rfl, by decide⟩, ⟨_, rfl, by decide⟩, ?_, by decide +kernel, by decide +kernel, by decide,
    ⟨_, _, rfl⟩, by decide +kernel, noEarlier _ _ _ _ _ _ _, by decide +kernel⟩
  exact ⟨by decide +kernel, by decide +kernel, by decide +kernel⟩

/-- A PREF of a held line; a FENCE of an empty area; FLUSH of no bytes, and of all of a line that is shared or dirty. -/
theorem witness_PrefetchFlushInvalidate : (∃ table, Translates (onDie (coreMem 0x1000 0 0 0x1F .s [])) .read 0x1000 1 0x1000 table)
    ∧ (copyAt (onDie (coreMem 0x1000 0 0 0x1F .s [])) 0x1000).st = .s ∧ lane (src (onDie (coreMem 0x1000 0 0 0x1F .s [])) wMem).b 32 0 = 0
    ∧ (∀ cs ∈ [CopyState.i, .s, .e, .m, .o], scopeOf wMem < 2 ∧ lane (src (onDie (coreMem 0x1000 128 0 0x1F cs [])) wMem).b 32 0 = 128
        ∧ va (onDie (coreMem 0x1000 128 0 0x1F cs [])) wMem % 128 = 0 ∧ (copyAt (onDie (coreMem 0x1000 128 0 0x1F cs [])) 0x1000).st = cs)
    ∧ (∃ table, flushCheck (onDie (coreMem 0x1000 128 0 0x1F .m [])).here.rtab true 0 false 0x1000 128 3 [] = .ok [⟨0x1000, 0, 128, none⟩] false table) :=
  ⟨⟨_, rfl, by decide⟩, by decide +kernel, by decide +kernel, by decide +kernel, ⟨_, by rfl⟩⟩

/-- FLUSH and INVL of scope .die and .sys on a line that no proxy has: held M, E or not at all, with its WB on its way home or not. -/
theorem witness_PrefetchFlushInvalidate_scopes : (∀ sc ∈ [2#4, 4#4], 2 ≤ scopeOf { wMem with mod := sc })
    ∧ (∀ cs ∈ [CopyState.m, .e, .i], let s := onDie (coreMem 0x1000 128 0 0x1F cs []);
        s.comesHome 32 = false ∧ s.proxies = [] ∧ (((holdersOf 0 2).filter fun k => ((s.core k).l1line 32).st.dirty) = if cs = .m then [0] else []))
    ∧ ({ onDie (coreMem 0x1000 128 0 0x1F .i []) with slices := [(0, { Slice.empty with inbox := [Pkt.mk0 .wb 32 0 0] })] } : State).comesHome 32 = true
    ∧ (let s := { onDie (coreMem 0x1000 128 0 0x1F .i []) with
        lines := [(32, { Line.absent with data := some (List.replicate 128 0), dirty := true })] };
      let y := s.line 32;
      y.dirty = true ∧ y.data.isSome = true ∧ y.poison = 0) := by decide +kernel

/-- An area of one entry with no room, and one with room whose entry is of another word. -/
def entryAt (pwa id : Nat) : AreaEntry :=
  { oper := 0, scope := 0, signed := false, sent := false, mask := 1, pwa, data := 0, id, node := 0
    held := false, go := false, vas := [] }

theorem witness_StoresCommit : (∃ table, Translates (onDie (coreMem 0x100F 0 0 0x1F .i [])) .write 0x100F 1 0x100F table)
    ∧ (∃ table, Translates (onDie (coreMem 0x1000 0 0 0x1F .i [])) .write 0x1000 16 0x1000 table)
    ∧ (threadHere (onDie (coreMem 0x1000 0 0 0x1F .i [])) wOrd).standing < (threadHere (onDie (coreMem 0x1000 0 0 0x1F .i [])) wOrd).cap
    ∧ (threadHere (onDie (coreMem 0x1000 0 0 0x1F .i [])) wOrd).area = [] ∧ (copyAt (onDie (coreMem 0x1000 0 0 0x1F .i [])) 0x1000).st = .i
    ∧ ((entryAt 0x100 2).oper = 0 ∧ (entryAt 0x100 2).sent = false ∧ (entryAt 0x100 2).held = false ∧ (entryAt 0x100 3).pwa = (entryAt 0x100 2).pwa ∧ ∀ x ∈ [entryAt 0x101 1], x.id ≠ 2) :=
  ⟨⟨_, rfl, by decide⟩, ⟨_, rfl, by decide⟩, by decide +kernel, by decide +kernel, by decide +kernel, by decide +kernel⟩

/-- A RED to a word that the area holds already. -/
theorem witness_StoresCommit_red :
    let c := coreMem 0x1000 0 0 0x1F .i [];
    let s := onDie { c with threads := [(5, { c.thread 5 with runs := [(0, 2)], area := [entryAt 0x100 1] })] };
    (∃ table, Translates s .atomic (wordVa s wOrd) 4 0x1000 table) ∧ (threadHere s wOrd).standing < (threadHere s wOrd).cap
      ∧ ∃ e ∈ (threadHere s wOrd).area, e.pwa = 0x1000 / 16 :=
  ⟨⟨_, rfl, by decide⟩, by decide +kernel, by decide +kernel⟩

/-! ### Witnesses: engines, exits, faults -/

theorem witness_EngineCommandsQueueTheirMessage : FourHeads st0 w4 5 1 2 3 4 ∧ engineCommand (.copy w4) = some (w4, false, none)
    ∧ 0 < st0.queueRoom (portQueue st0 false)
    ∧ (let s := onCore { core0 with queues := [(portQueue st0 false, [])] }; 0 < s.queueRoom (portQueue s true)) := by
  refine ⟨⟨by decide +kernel, by decide +kernel, by decide +kernel⟩, rfl, by decide +kernel, by decide +kernel⟩

/-- ENGQ fires, and its report finds the site as it left it. -/
theorem witness_EngineCommandsQueueTheirMessage_engq : residueFault st0 w0 = none ∧ w0.om ≠ 0
    ∧ ∃ t, exec (.engq w0) st0 = .next t ∧ t.cycle = st0.cycle ∧ (t.core 0).site 17 = siteOf st0 t := ⟨by decide +kernel, by decide, _, rfl, rfl, rfl⟩

/-- SYNCA's sync id at the ends of its range. -/
theorem witness_SpawnsAndCommands_none : (({ w0 with imm := 0xFFFF } : SlotWord).imm.extractLsb' 0 16).toNat = 0xFFFF
    ∧ (({ w0 with imm := 0xFFFE } : SlotWord).imm.extractLsb' 0 16).toNat = 0xFFFE := by decide

/-- A core whose heads hold a task record: ENGINE kind 1 with no opcode of a copy engine is malformed; kind 4 with DEPS 1 is good. -/
def coreRec (a : Payload) : Core :=
  { core0 with sites := [(17, { Site.empty with ctxs := [(0, { siteHeads with
      entry := [0, 1, 2, 3].map fun n => (n, [⟨{ headTok n with val := mkVal (if n = 0 then a else 0) }, 0, none⟩]) })] })] }

theorem witness_SpawnsAndCommands :
    (FourHeads (onCore (coreRec 1)) w4 5 1 0 0 0 ∧ recordOk (fourHeads (src (onCore (coreRec 1)) w4)) = false
      ∧ recSpace (fourHeads (src (onCore (coreRec 1)) w4)) = (onCore (coreRec 1)).hereSpace ∧ recPrio (fourHeads (src (onCore (coreRec 1)) w4)) < 56)
    ∧ (FourHeads (onCore (coreRec (4 + 63 * 256 + 2 ^ 32))) w4 5 (4 + 63 * 256 + 2 ^ 32) 0 0 0
      ∧ (onCore (coreRec (4 + 63 * 256))).herePriv = false ∧ ¬ recPrio (fourHeads (src (onCore (coreRec (4 + 63 * 256 + 2 ^ 32))) w4)) < 56) := by
  refine ⟨⟨⟨by decide +kernel, by decide +kernel, by decide +kernel⟩, by decide +kernel⟩, ⟨by decide +kernel, by decide +kernel, by decide +kernel⟩, by decide +kernel⟩

/-- A good record with one dependency, its lists empty, in a table with a free slot; and a table with none. -/
theorem witness_SpawnsAndCommands_ok :
    let s := onCore (coreRec (4 + 55 * 256 + 2 ^ 32))
    let r := fourHeads (src s w4)
    recordOk r = true ∧ recPrio r = 55 ∧ recDeps r = 1 ∧ s.freeSlot 0 = some 0 ∧ (s.readLists (s.hereActor (recSpace r)) r = .lists ⟨[], [], []⟩ s) := by
  refine ⟨by decide +kernel, by decide +kernel, by decide +kernel, by decide +kernel, by rfl⟩

/-- A context with safe point 1, whose resume route is input 0 of site 17; what the core wants, and the handler of TRAP, as given. -/
def coreSafe (pre : Option PreemptFor) (hnd : Tbl (BitVec 64)) : Core :=
  { core0 with
    ctxs := [(0, { Ctx.empty with validFrom := some 0, safes := [⟨1, 17, 0, none, 0, []⟩] })], preempt := pre, hnd }

def wSafe : SlotWord := { plain with sa := .i 0, sb := .lit, cg0 := .any, dq := 1, imm := 0x0201 }

theorem witness_SafePointsAndExits : wSafe.sa = .i 0 ∧ residueFault (onCore (coreSafe none [])) wSafe = none
    ∧ ((onCore (coreSafe none [])).here.ctx 0).safe (wSafe.imm.extractLsb' 0 8).toNat = some ⟨1, 17, 0, none, 0, []⟩
    ∧ (onCore (coreSafe none [])).here.wantsPark = false ∧ (onCore (coreSafe none [])).here.takesTimer 5 = false
    ∧ (onCore (coreSafe (some .distributor) [])).here.wantsPark = true
    ∧ ((onCore (coreSafe none [])).here.thread 5).handler = false ∧ ((onCore (coreSafe none [])).here.thread 5).area = [] := by decide +kernel

/-- An exit with nothing in its area, one with a staged live-out of slot 3 of a part with four, and one of a thread that holds a bank. -/
theorem witness_SafePointsAndExits_exits : (∃ act, exits (.exit w0) st0 = some (w0, act)) ∧ st0.here.holdsBanks (src st0 w0).tid = false
    ∧ (st0.here.thread 5).rstep ≠ .stub ∧ (stBank 8).here.holdsBanks (src (stBank 8) wD).tid = true
    ∧ (let s := onCore { core0 with part := some { part0 with slots := 4 }
                                    threads := [(5, { Thread.none with st := .inBlock, exiting := some (.next 7, 0), area := [{ entryAt 3 1 with oper := 8 }] })] }
      (∀ e ∈ (s.here.thread 5).area, e.oper = 8) ∧ (s.here.thread 5).handler = false ∧ 3 < s.here.liveSlots
        ∧ (s.here.thread 5).exiting.isSome = true ∧ exitFollows (.exit w0) .stub (.next 7) = .stubEnd ∧ gateOf (.gated 7 65535 0) = some 65535) :=
  ⟨⟨_, rfl⟩, by decide +kernel, by decide +kernel, by decide +kernel, by decide +kernel⟩

/-- EXITS with the sync id that is none, and with the one below it. -/
theorem witness_SafePointsAndExits_none : exits (.exits { w0 with imm := 0xFFFF007 }) st0 = some ({ w0 with imm := 0xFFFF007 }, .next 7)
    ∧ exits (.exits { w0 with imm := 0xFFFE007 }) st0 = some ({ w0 with imm := 0xFFFE007 }, .gated 7 0xFFFE 0)
    ∧ gateOf (.next 7) = none := by decide +kernel

theorem witness_TrapAndEret :
    let s := onCore (coreSafe none [(0x33, 0x8000000000002007)])
    wSafe.sa = .i 0 ∧ (s.here.ctx 0).safe (wSafe.imm.extractLsb' 0 8).toNat = some ⟨1, 17, 0, none, 0, []⟩ ∧ (src s wSafe).tid ≠ noTid
      ∧ s.here.wantsPark = false ∧ s.here.handlerOf 0x33 = some ⟨2, 7⟩ ∧ s.here.chunks = [] ∧ residueFault s wSafe = none := by decide +kernel

theorem witness_TrapAndEret_eret : ∀ a ∈ [none, some 4],
    let s := onCore { core0 with threads := [(5, { Thread.none with st := .inBlock, handler := true, activation := a })] }
    residueFault s w0 = none ∧ (s.here.thread (src s w0).tid).handler = true ∧ (s.here.thread (src s w0).tid).area = []
      ∧ (s.here.thread (src s w0).tid).activation = a ∧ (st0.here.thread (src st0 w0).tid).handler = false := by decide +kernel

/-- A code of each class, a handler registered and none, a thread in a handler and not. -/
theorem witness_TakingAFault : faultClass 0x40 = .violation ∧ faultClass 0x13 = .parked ∧ faultClass 0x14 = .parked ∧ faultClass 0x20 = .handled
    ∧ faultClass 0x32 = .restartable ∧ (coreSafe none [(0x20, 0x8000000000002007)]).handlerOf 0x20 = some ⟨2, 7⟩
    ∧ core0.handlerOf 0x20 = none ∧ (core0.thread 5).handler = false ∧ FaultRec.zero.persist = false ∧ FaultRec.zero.irrev = false := by decide +kernel

/-- SAFE_DISTANCE where the core's threads are to park, and where not; and a RANGE_TRANSIT whose range has come to rest, and one whose range moves. -/
theorem witness_TakingAFault_owed : faultClass 0x30 = .handled ∧ (coreSafe (some .distributor) []).preempt.isSome = true ∧ (coreSafe none []).preempt = none
    ∧ (coreSafe none []).standsFrozen = false ∧ faultClass 0x13 = .parked ∧ ({ FaultRec.zero with code := 0x13, detail := 1 } : FaultRec).detail = 1
    ∧ FaultRec.zero.detail ≠ 1 := by decide +kernel

/-! ### Witnesses: ranges and registers -/

/-- A line that its slice holds, of the bytes given and zeros. -/
def held (bs : Bytes) : Line := { Line.absent with data := some (bs ++ List.replicate (128 - bs.length) 0) }

/-- The slices hold space 0's entry of a space table at 0, its directory at 0x100, and in it one range from 0x1000 to 0x2000. -/
def onMem (c : Core) : State :=
  { onDie c with lines := [(0, held (leBytes 0x101 8 ++ leBytes 1 8)), (2, held (range0 0x1F).bytes)] }

theorem fresh_onMem (a b c : Nat) : FreshNumber (onMem (coreD a b c)) := ⟨fun _ h => (nomatch h), fun _ h => (nomatch h)⟩

/-- What a search of the directory finds. -/
def foundIn (r : FindRes) : Option Found := match r with
  | .found f _ => some f
  | _ => none

theorem witness_RangeInstructions_found : foundIn ((onMem (coreD 0 0x1000 0)).findRange 0 0 0x1000) = some ⟨0x100, 1, 0, range0 0x1F⟩ := by decide +kernel

/-- The range of space 0 that holds 0x1000, and the ends of what SA may name. -/
theorem witness_RangeInstructions : (∃ w, rangeInstr (.rsplit wD) (onMem (coreD 0 0x1000 0)) = some (w, 0, 0)) ∧ (onMem (coreD 0 0x1000 0)).rangeq = []
    ∧ lane (src (onMem (coreD 4095 0 0)) wD).a 32 0 = 4095 ∧ lane (src (onMem (coreD 4096 0 0)) wD).a 32 0 = 4096
    ∧ (0x1F00 % 256 = 0 ∧ 0x1F00 ≠ (range0 0x1F).vbase ∧ (range0 0x1F).transit = false ∧ (range0 0x1F).vbase < 0x1F00 ∧ 0x1F00 < (range0 0x1F).limit)
    ∧ ((range0 0x1F).len / 256 = 16 ∧ inHbm 0x4000 = true ∧ inHbm (0x4000 + (range0 0x1F).len - 1) = true ∧ (range0 0x1F).phys 0x1000 + (range0 0x1F).len ≤ 0x4000)
    ∧ (onMem (coreD 0 0x1000 0)).quietSpan 0x100 32 = true :=
  ⟨⟨_, rfl⟩, rfl, by decide +kernel, by decide +kernel, by decide +kernel, by decide +kernel, by decide +kernel⟩

/-- Nothing of the space is under way; an RDISC's invalidation of it; and a directory whose line is poisoned. -/
def badIn (r : FindRes) : Option Nat := match r with
  | .bad a => some a
  | _ => none

theorem witness_RangeInstructions_turn : MayBegin (onMem (coreD 0 0x1000 0)) 0
    ∧ (let q : RangeOp := ⟨⟨1, 0, 17, 0⟩, 2, 0, 0x1000, 0, 0, 5⟩;
      ¬ MayBegin { onMem (coreD 0 0x1000 0) with rangeq := [q] } 0 ∧ q.kind < 5)
    ∧ (badIn ({ onMem (coreD 0 0x1000 0) with lines := [(0, { held [] with poison := 3 })] }.findRange 0 0 0x1000)).isSome = true := by
  refine ⟨⟨fun _ h => (nomatch h), fun _ h => (nomatch h)⟩, ⟨fun h => h.1 _ (List.mem_singleton.2 rfl) (.inl (by decide)) rfl, by decide⟩, by decide +kernel⟩

/-- Nothing stands before a range instruction of the space; and a move of the very range, which an RDISC waits for. -/
theorem firstOf_onMem (a b c kind sp arg : Nat) (h : residueFault (onMem (coreD a b c)) wD = none
    ∧ lane (src (onMem (coreD a b c)) wD).a 32 0 = sp ∧ sp < 4096) : FirstOf (onMem (coreD a b c)) wD kind sp arg :=
  ⟨h.1, fresh_onMem a b c, h.2.1, h.2.2, ⟨fun _ h => (nomatch h), fun _ h => (nomatch h)⟩, fun _ h => (nomatch h)⟩

theorem witness_RangeInstructions_first : (∀ k ∈ [0, 1, 2, 3, 4], FirstOf (onMem (coreD 0 0x1000 0)) wD k 0 0)
    ∧ foundIn (foundRange (onMem (coreD 0 0x1000 0)) wD 0) = some ⟨0x100, 1, 0, range0 0x1F⟩
    ∧ ((onMem (coreD 0 0x1000 0)).here.thread 5).st = .inBlock ∧ ((onMem (coreD 0 0x1000 0)).here.thread 5).from_ ≤ (onMem (coreD 0 0x1000 0)).here.nextId
    ∧ (badIn (foundRange { onMem (coreD 0 0x1000 0) with lines := [(0, { held [] with poison := 3 })] } wD 0)).isSome = true
    ∧ (let m : Move := ⟨⟨9, 0, 17, 0⟩, 5, 0, 0, 0x1000, 0x1000, 0x1000, 0x4000, 0, 16, 0⟩;
      (rangeOp (onMem (coreD 0 0x1000 0)) wD 2 0 0).meets m = true) :=
  ⟨fun _ _ => firstOf_onMem _ _ _ _ _ _ (by decide +kernel), by decide +kernel, by decide +kernel, by decide +kernel, by decide +kernel,
    by decide +kernel⟩

/-- Two ranges side by side, whose windows are all of them: what RMERGE joins; and the tail of the directory, which RSPLIT and RMERGE move. -/
def twoRanges : State :=
  { onMem (coreD 0 0x2000 0) with lines := [(0, held (leBytes 0x101 8 ++ leBytes 2 8)), (2, held ((range0 0x1F).bytes ++ ((range0 0x1F).setVbase 0x2000 |>.setLimit 0x3000).bytes))] }

def movesTail (s : State) (f : Found) (i j : Nat) : Bool := match s.moveTail f i j with
  | .ok _ => true
  | .error _ => false

theorem witness_RangeInstructions_merge :
    (foundIn (foundRange twoRanges wD 0)).isSome = true
    ∧ (match foundRange twoRanges wD 0 with
      | .found f u =>
        match u.descAt f.base (f.idx - 1) with
        | .ok (a, v) => decide (f.d.vbase = 0x2000 ∧ f.idx ≠ 0 ∧ a.wf (some 0) = true ∧ a.limit = 0x2000 ∧ a.transit = false ∧ f.d.transit = false
            ∧ a.flags = f.d.flags ∧ a.perm = f.d.perm ∧ a.offset = f.d.offset ∧ a.len + f.d.len ≤ 0xFFFFFFFF00 ∧ joinWin a f.d = some (0, 32))
            && movesTail v f (f.idx + 1) f.idx
        | .error _ => false
      | _ => false) = true
    ∧ (∀ i ∈ [0, 1], movesTail (onMem (coreD 0 0x1000 0)) ⟨0x100, 1, 0, range0 0x1F⟩ i (i + 1) = true)
    ∧ joinWin ((range0 0x1F).setWin (0, 4)) ((range0 0x1F).setWin (4, 8)) = none := by decide +kernel

/-- The line of the directory, and the firing's result that waits for its report. -/
theorem witness_RangeInstructions_written : ((onMem (coreD 0 0x1000 0)).line 2).data.isSome = true ∧ ((onMem (coreD 0 0x1000 0)).line 2).data.map (·.length) = some 128
    ∧ (onMem (coreD 0 0x1000 0)).dirtyCore 2 = none ∧ (onMem (coreD 0 0x1000 0)).dirtyProxy 2 = none ∧ (0x100 + 32 * 0) % 32 = 0 ∧ (0x100 + 32 * 0) / 128 = 2
    ∧ (let s := onMem (coreD 0 0x1000 0);
      ∃ f ∈ ((begun s wD).core 0 |>.site 17).flight, f.key = (opHere s).key ∧ f.tok.kind ≠ .ord) := by decide +kernel

/-- The first and the last address of the windows, and the addresses beside them; a part, and blocks named and not. -/
theorem witness_RegistersAndContexts :
    (∀ pa ∈ [0xF00000000000, 0xF03FFFFFFFF8, 0xFF0000000000, 0xFFFFFFFFFFF8], (src (onCore (coreD pa 0 0)) wD).a.toNat % 2 ^ 64 = pa ∧ pa % 8 = 0
      ∧ ((0xF00000000000 ≤ pa ∧ pa < 0xF04000000000) ∨ (0xFF0000000000 ≤ pa ∧ pa < 2 ^ 48)))
    ∧ (∀ pa ∈ [0xF00000000004, 0xEFFFFFFFFFF8, 0xF04000000000], ¬ (pa % 8 = 0 ∧ ((0xF00000000000 ≤ pa ∧ pa < 0xF04000000000) ∨ (0xFF0000000000 ≤ pa ∧ pa < 2 ^ 48))))
    ∧ (onCore (coreD 0 0 0)).sysq = [] ∧ (onCore (coreD 0 0 0)).here.part = some part0
    ∧ (onCore (coreD 0 1 0)).here.residence ⟨0, 0⟩ = some 0 ∧ (2 < (onCore (coreD 0 1 0)).here.unpinned)
    ∧ (onCore (coreD 4095 1 0)).here.residence ⟨0, 4095⟩ = none ∧ ((begun (onCore (coreD 4095 1 0)) wD).here.freeCtx 0).isSome = true
    ∧ lane (src (onCore (coreD 4096 2 0)) wD).b 32 0 = 2
    ∧ (onCore (coreD 0 1 0)).here.mayPin = true ∧ ((onCore (coreD 0 1 0)).here.ctx 0).pinned = false ∧ ((onCore (coreD 0 1 0)).here.ctx 0).loading = false := by
  decide +kernel

/-- A demand that finds another before it. -/
theorem witness_RegistersAndContexts_demands : (onCore (coreD 4095 1 0)).here.demands = []
    ∧ (let s := onCore { coreD 4095 1 0 with demands := [⟨0, 7⟩] };
      s.here.demands ≠ [] ∧ s.here.residence ⟨0, 4095⟩ = none ∧ ((begun s wD).here.freeCtx s.cycle).isSome = true) := by decide +kernel

/-- Six contexts pinned leave no pin; and a block that is being loaded. -/
theorem witness_RegistersAndContexts_pins :
    (let c := { coreD 0 1 0 with ctxs := (List.range 6).map fun k => (k + 1, { Ctx.empty with validFrom := some 0, pinned := true, blk := ⟨0, k + 1⟩ }) };
      c.mayPin = false ∧ (c.residence ⟨0, 1⟩).isSome = true ∧ c.residence ⟨0, 0⟩ = none ∧ c.pinAsked ⟨0, 0⟩ = false)
    ∧ (let c := { coreD 0 1 0 with ctxs := [(0, { Ctx.empty with loading := true })] };
      c.residence ⟨0, 0⟩ = some 0 ∧ (c.ctx 0).loading = true) := by decide +kernel

/-- Space 0 exists and space 1 does not; a space frozen and one not; a table with an entry and one without; and a span that wraps. -/
def isOk (r : Except (Option Nat) Bool) (b : Bool) : Bool := match r with
  | .ok x => x == b
  | .error _ => false

theorem isOk_eq {r : Except (Option Nat) Bool} {b : Bool} (h : isOk r b = true) : r = .ok b := by
  cases r with
  | ok x => simp [isOk] at h; rw [h]
  | error _ => simp [isOk] at h

theorem witness_PartsOfSpaces : (begun (onMem (coreD 0 0 0)) wD).spaceActive 0 0 = .ok true ∧ (begun (onMem (coreD 1 0 0)) wD).spaceActive 0 1 = .ok false
    ∧ NamesSpace (onMem (coreD 0 0 0)) wD 0 ∧ NamesSpace (onMem (coreD 4095 0 0)) wD 4095 ∧ (onMem (coreD 0 0 0)).frozen = []
    ∧ (∀ sp ∈ [0, 4095, 4096, 8191, 8192], lane (src (onMem (coreD sp 0 0)) wD).a 32 0 = sp)
    ∧ lane (src (onMem (coreD 0 3 0)) wD).b 32 0 = 3 ∧ (begun (onMem (coreD 0 0 0)) wD).hasParked 0 = false := by
  refine ⟨isOk_eq (by decide +kernel), isOk_eq (by decide +kernel), by unfold NamesSpace; decide +kernel, by unfold NamesSpace; decide +kernel, rfl, by decide +kernel, by decide +kernel, by decide +kernel⟩

/-- A move of a range that RINV's interval meets, and one that it does not meet. -/
theorem witness_PartsOfSpaces_moved :
    let m : Move := ⟨⟨9, 0, 17, 0⟩, 5, 0, 0, 0x1000, 0x1000, 0x1000, 0x4000, 0, 16, 0⟩;
    (rangeOp (onMem (coreD 0 0x1FFF 1)) wD 7 0 1).meets m = true ∧ (rangeOp (onMem (coreD 0 0x2000 1)) wD 7 0 1).meets m = false
      ∧ (onMem (coreD 0 0x1FFF 1)).moves = [] := by decide +kernel

theorem witness_PartsOfSpaces_probe : (rtabFind (coreMem 0 0x1FFF 0 0x1F .i []).rtab 0 0x1FFF).isSome = true ∧ rtabFind (coreMem 0 0x2000 0 0x1F .i []).rtab 0 0x2000 = none
    ∧ (∃ v : Nat, 2 ^ 64 < v + (src (onDie (coreMem 0 (2 ^ 64 - 1) 2 0x1F .i [])) wMem).c.toNat % 2 ^ 64 ∧ v = va (onDie (coreMem (2 ^ 64 - 1) 0 0 0x1F .i [])) wMem)
    ∧ (onDie (coreMem 7 0 0 0x1F .i [])).herePriv = false ∧ (7 : Nat) ≠ (onDie (coreMem 7 0 0 0x1F .i [])).hereSpace :=
  ⟨by decide +kernel, by decide +kernel, ⟨2 ^ 64 - 1, by decide +kernel, by decide +kernel⟩, by decide +kernel, by decide +kernel⟩

/-! ### Witnesses: events of the fabric, the allocator and the matrix tiles -/

/-- The end of cycle 3, with a core. -/
def endOf (c : Core) : State := { onCore c with cycle := 3, endPhase := true }

/-- A result of site 17 for link 1 and register 7, due now. -/
def flight0 : Flight :=
  { slot := 0, ctx := 0, tid := 5, due := some 3, ready := true, key := 0, om := 1, tok := headTok 0, dr := some 7, room := true, flags := 1 }

theorem witness_TokensAndEffectsArrive_result :
    let c : Core := { core0 with sites := [(17, { Site.empty with ctxs := [(0, { siteHeads with route := 0xFF00010000000000 })], flight := [flight0] })] }
    ((endOf c).core 0).placeable 3 17 0 flight0 = true ∧ (((endOf c).core 0).site 17).flight[0]? = some flight0 ∧ flight0.dr = some 7 := by decide +kernel

/-- The front of the buffer from the north passes through to the south; and a head of a format that its input does not accept is steered. -/
theorem witness_TokensAndEffectsArrive_pass :
    let s := onCore { core0 with sites := [(17, { Site.empty with
      bufs := [(0, [⟨headTok 0, 0, none⟩])], ctxs := [(0, { SiteCtx.empty with route := 0xFF00050000000000 ||| (5 <<< 40) })] })] }
    ((s.core 0).passDue 0 17 0).isSome = true ∧ s.endPhase = false := by decide +kernel

theorem witness_TokensAndEffectsArrive :
    let w : WideSend := ⟨3, 64, [17, 34], ⟨List.replicate 128 0, 0, 5, 4, none⟩⟩
    let x : TileWrite := ⟨3, 5, 0, List.replicate 16 0, 5⟩
    let k : Chunk := { site := 35, fired := 0, due := 3, bank := 8, zero := false, reads := 3, tile := 5, tid := 5, q := [], flags := 0 }
    let s := endOf { core0 with wide := [w], writes := [x], chunks := [k], copies := [(8, 3, 5)] }
    (s.core 0).wide[0]? = some w ∧ w.due ≤ s.cycle ∧ w.dests.Nodup ∧ (s.core 0).writes[0]? = some x ∧ x.due ≤ s.cycle
      ∧ (s.core 0).chunks[0]? = some k ∧ k.due ≤ s.cycle ∧ (s.core 0).copies.find? (fun p => p.1 == 8) = some (8, 3, 5) ∧ s.endPhase = true := by decide +kernel

/-- A request for two granules of pool 0, which has four; and one for two banks. -/
def poolCore (r : Req) : Core := { core0 with pools := [(0, ⟨0, 4, 4⟩)], waiting := [r] }

theorem witness_GrantsAndCompaction :
    ((onCore (poolCore ⟨.alloc 64 0 0 1, 5, 0, 2, 0⟩)).core 0).grantable 0 0 = some (⟨.alloc 64 0 0 1, 5, 0, 2, 0⟩, 0, 0)
    ∧ (onCore (poolCore ⟨.alloc 64 0 0 1, 5, 0, 2, 0⟩)).allAsked 0 = true
    ∧ ((onCore (poolCore ⟨.acca 64 0 0, 5, 16, 192, 0⟩)).core 0).grantable 0 16 = some (⟨.acca 64 0 0, 5, 16, 192, 0⟩, 0, 0) := by decide +kernel

/-- Tiles in granules 1 and 3 of a pool of four leave no run of two, though two granules are free; then their move, ended; and a core that has
granted nothing for 1,024 cycles. -/
def splitCore : Core :=
  { poolCore ⟨.alloc 64 0 0 1, 5, 0, 2, 0⟩ with
    runs := [(1, 1), (3, 1)], tiles := [(5, { Tile.empty with state := .ready, cons := 1, size := 1, base := 1 }),
      (6, { Tile.empty with state := .ready, cons := 1, size := 1, base := 3 })] }

theorem witness_GrantsAndCompaction_compact : ((onCore splitCore).core 0).mayCompact 0 0 = true ∧ (onCore splitCore).allAsked 0 = true
    ∧ (let k : Compaction := ⟨0, 0, [(5, 0), (6, 1)]⟩
      (k.moves.map (·.1)).Nodup ∧ (∀ m ∈ k.moves, (splitCore.tile m.1).state ≠ .empty) ∧ k.ends ≤ 0 ∧ k.pool < 15)
    ∧ splitCore.deadlocked 1024 = true ∧ splitCore.deadVictim = some (5, 0, 64, 0) := by decide +kernel

theorem witness_GrantsAndCompaction_start :
    let s := { onCore core0 with dies := [(0, { Die.reset with starts := [⟨0, 0, 35, 0, 0, 5⟩] })], cycle := 9 }
    s.startGrantDue 0 = true ∧ s.endPhase = false := by decide +kernel

/-! ### Witnesses: events of the crossbar, the slices and main memory -/

/-- Line 5 of die 0 with a packet of core 0 at the front of its home slice. -/
def pkt (k : PktKind) : Pkt := { Pkt.mk0 k 5 0 0 with id := 1, tid := 5 }
def atHome (x : Line) (p : Pkt) : State := { st0 with lines := [(5, x)], slices := [(homeSlice 5, { Slice.empty with inbox := [p] })] }

theorem witness_RequestsAtTheHome : (∀ k ∈ [PktKind.gets, .getx, .store, .red 0],
      (atHome (held []) (pkt k)).homeReq (homeSlice 5) 0 (· == k) = some (pkt k, held [])) ∧ FromHere (homeSlice 5) (pkt .gets)
    ∧ (held []).st.owns = false ∧ (held []).poison = 0 ∧ (held []).sharers = 0 ∧ (239 : Nat) < 240 ∧ GoodRead ⟨0, .corrected⟩
    ∧ (held []).data.isSome = true ∧ (held []).dirty = false ∧ (held []).copy.owns = false := by
  refine ⟨by decide +kernel, ⟨by decide +kernel, by decide +kernel⟩, by decide +kernel, by decide +kernel, by decide +kernel, by decide +kernel,
    fun _ h => (nomatch h), by decide +kernel⟩

/-- Line 5 that core 0 owns, and one with an acknowledgement of cluster 0 or of two clusters outstanding. -/
def owned : Line := { held [] with st := .m, owner := 0 }
def acking (l : List Nat) : Line := { held [] with pend := some ⟨false, false, false, false, l, none⟩ }

theorem witness_OwnersAndSharers : (∀ k ∈ [PktKind.wb, .evn], OwnersTurn (atHome owned { pkt k with id := 0 }) (homeSlice 5) 0 { pkt k with id := 0 } k
      ∧ (atHome owned { pkt k with id := 0 }).ownerTurn 0 (homeSlice 5) 0 { pkt k with id := 0 } = true)
    ∧ OwnersTurn (atHome owned (pkt .ownerData)) (homeSlice 5) 0 (pkt .ownerData) .ownerData
    ∧ (atHome (held []) (pkt .disc)).homeReq (homeSlice 5) 0 (· == .disc) = some (pkt .disc, held [])
    ∧ (∀ l ∈ [[0], [0, 1]], ((atHome (acking l) (pkt .invAck)).line 5).pend = some ⟨false, false, false, false, l, none⟩)
    ∧ (pkt .invAck).dirty = false := by
  unfold OwnersTurn; exact ⟨by decide +kernel, by decide +kernel, by decide +kernel, by decide +kernel, rfl⟩

/-- The four requests find line 5 shared by cluster 0; and owned, by core 0 or by die 1's proxy, not by who asks. -/
theorem witness_RequestsAtTheHome_others :
    (∀ k ∈ [PktKind.getx, .store, .red 0], let x := { held [] with st := CopyState.s, sharers := 1 };
      (atHome x (pkt k)).homeReq (homeSlice 5) 0 (· == k) = some (pkt k, x) ∧ x.st.owns = false ∧ x.data.isSome = true ∧ x.sharers ≠ 0 ∧ x.poison = 0)
    ∧ (∀ o ∈ [0, 385], ∀ k ∈ [PktKind.gets, .getx, .store, .red 0], let x := { held [] with st := CopyState.m, owner := o };
      let p := { pkt k with src := 4 };
      (atHome x p).homeReq (homeSlice 5) 0 (· == k) = some (p, x) ∧ x.st.owns = true ∧ x.owner ≠ p.src
        ∧ ((x.owner < 384 ∧ dieOf x.owner = homeSlice 5 / 32) ∨ (384 ≤ x.owner ∧ x.owner - 384 < 4 ∧ x.owner - 384 ≠ homeSlice 5 / 32))
        ∧ p.src < 384 ∧ dieOf p.src = homeSlice 5 / 32) := by decide +kernel

/-- A slice that is full of lines which wait to be written to HBM, and the WB of a line that it does not hold. -/
def fullLine : Line := { held [] with hbmWrite := [(0, 0)] }
def full (n : Nat) : State :=
  { atHome owned { pkt .wb with id := 0 } with
    lines := (5, { owned with data := none }) :: List.replicate n (5, fullLine) }

theorem full_held (n : Nat) : (full n).heldAt (homeSlice 5) = n := by
  have h : (full n).proxies = [] := rfl
  have hl : (full n).lines = (5, { owned with data := none }) :: List.replicate n (5, fullLine) := rfl
  rw [State.heldAt, h, hl, List.filter_cons, List.filter_replicate, if_neg (by decide +kernel), if_pos (by decide +kernel), List.length_replicate]; rfl

theorem full_victims (n : Nat) : (full n).victims (homeSlice 5) = [] := by
  have h : (full n).proxies = [] := rfl
  have hl : (full n).lines = (5, { owned with data := none }) :: List.replicate n (5, fullLine) := rfl
  rw [State.victims, h, hl, List.filter_cons, List.filter_replicate, if_neg (by simp), if_neg (by simp [fullLine])]; rfl

theorem witness_OwnersAndSharers_full : (full 16384).roomAt (homeSlice 5) = false ∧ ((full 16384).line 5).data = none
    ∧ OwnersTurn (full 16384) (homeSlice 5) 0 { pkt .wb with id := 0 } .wb
    ∧ (full 16384).ownerTurn 0 (homeSlice 5) 0 { pkt .wb with id := 0 } = true := by
  refine ⟨?_, rfl, ⟨rfl, rfl, rfl, rfl, rfl⟩, rfl⟩
  rw [State.roomAt, State.roomBut, State.victimsBut, full_held, full_victims]; rfl

/-- A core with a packet for line 32 at the front of its inbox, holding it in a state, with a load of it in progress. -/
def load0 : Access :=
  { id := 1, site := 64, ctx := 0, slot := 0, tid := 5, op := .ld, word := w0, va := 0, n := 4, data := 0, scope := 0
    parts := [⟨0x1000, 0, 4, none⟩], fwd := [], stage := .wait, left := 1, noL1 := false, bound := 0, entry := 0
    getx := 0, old := false, gone := false }
def atCore (k : PktKind) (cs : CopyState) : State :=
  onCore { coreMem 0 0 0 0x1F cs [] with inbox := [{ pkt k with line := 32, hasData := true, lineData := List.replicate 128 1 }], accesses := [load0] }

theorem witness_PacketsAndProxies : (∀ k ∈ [PktKind.inval, .loadReply, .storeAck, .grant, .error], ((atCore k .s).corePkt 0 0 (· == k)).isSome = true)
    ∧ (∀ k ∈ [PktKind.recall, .ask], ((atCore k .m).corePkt 0 0 (fun k => k == .recall || k == .ask)).isSome = true)
    ∧ (((atCore .inval .s).core 0).l1line 32).st.owns = false ∧ (((atCore .recall .m).core 0).l1line 32).st.dirty = true
    ∧ (((atCore .recall .e).core 0).l1line 32).st = .e ∧ ((atCore .loadReply .i).core 0).access 1 = some load0
    ∧ (∀ q ∈ giveLine 32 (List.replicate 128 1) load0.parts, q.got.isSome = true) ∧ (pkt .error).keep = false ∧ load0.op ≠ .pref := by decide +kernel

/-- A grant with data, one of a line that the core owns, and one of a line that it does not; with an atomic that waits by the GETX and with none;
a discard of an owned line; and an error that is an atomic's, another of which waits by the same GETX. -/
def atomic0 : Access := { load0 with op := .aadd, getx := 1 }
def granted (d : Bool) (cs : CopyState) (as : List Access) : State :=
  onCore { coreMem 0 0 0 0x1F cs [] with inbox := [{ pkt .grant with line := 32, hasData := d, lineData := List.replicate 128 1 }], accesses := as }

theorem witness_PacketsAndProxies_grants :
    (∀ q ∈ [(true, CopyState.i), (false, .o), (false, .i)], ∀ as ∈ [[], [atomic0]], ((granted q.1 q.2 as).corePkt 0 0 (· == .grant)).isSome = true
      ∧ (((granted q.1 q.2 as).core 0).l1line 32).st = q.2 ∧ ((granted q.1 q.2 as).core 0).served 32 1 = as)
    ∧ CopyState.o.owns = true ∧ CopyState.i.owns = false
    ∧ (let s := onCore { coreMem 0 0 0 0x1F .e [] with inbox := [{ pkt .inval with line := 32, dirty := true }] };
      (s.corePkt 0 0 (· == .inval)).isSome = true ∧ ((s.core 0).l1line 32).st.owns = true)
    ∧ (let s := onCore { coreMem 0 0 0 0x1F .i [] with inbox := [{ pkt .error with line := 32, keep := true }], accesses := [atomic0] };
      (s.corePkt 0 0 (· == .error)).isSome = true ∧ (s.core 0).access 1 = some atomic0 ∧ atomic0.op ≠ .pref ∧ atomic0.gone = false
        ∧ atomic0.tid ≠ noTid) := by decide +kernel

/-- Two parts of a load on different lines, one of which the reply does not give; and an entry whose thread has no access. -/
theorem witness_PacketsAndProxies_parts : (∃ q ∈ giveLine 32 (List.replicate 128 1) [⟨0x1000, 0, 4, none⟩, ⟨0x1080, 4, 4, none⟩], q.got = none)
    ∧ ((onCore (coreMem 0 0 0 0x1F .i [{ entryAt 0x100 2 with sent := true }])).core 0 |>.thread 5).area = [{ entryAt 0x100 2 with sent := true }] :=
  ⟨by decide +kernel, by decide +kernel⟩

/-- A proxy of die 0 for the first line of die 1, with the line and without; and the home's reply to it. -/
def atProxy (x : Line) (p : Pkt) : State :=
  { st0 with proxies := [(dieLines * 4, x)], slices := [(0, { Slice.empty with inbox := [{ p with line := dieLines }] })] }

theorem witness_PacketsAndProxies_proxy : lineDie dieLines ≠ 0 / 32 ∧ ((atProxy (held []) (pkt .gets)).proxy 0 dieLines) = held []
    ∧ (held []).pend = none ∧ (held []).st.owns = false ∧ ((atProxy Line.absent (pkt .gets)).proxy 0 dieLines).data = none
    ∧ ((atProxy Line.absent { pkt .loadReply with dst := 384 }).slice 0).inbox[0]? = some { pkt .loadReply with dst := 384, line := dieLines }
    ∧ (atProxy Line.absent { pkt .loadReply with dst := 384 }).heldAt 0 < 16384
    ∧ (let s := onCore { core0 with inbox := [{ pkt .storeAck with tid := noTid }] };
      s.corePkt 0 0 (· == .storeAck) = some { pkt .storeAck with tid := noTid }) := by decide +kernel

/-- Pseudo-channels trained and initialised, and a line that waits for HBM. -/
def served : State :=
  { atHome { Line.absent with pend := some ⟨true, false, false, false, [], none⟩ } (pkt .gets) with
    ctrls := [(lineChan 5, { Ctrl.reset with pc0 := { Pc.reset with init := true }, pc1 := { Pc.reset with init := true } })]
    dies := [(0, { Die.reset with boot := false })]
    phys := (List.range 18).map fun k => (18 * lineChan 5 + k, { Phy.reset with trained := true }) }

theorem witness_MainMemoryEvents : (served.line 5).pend = some ⟨true, false, false, false, [], none⟩ ∧ served.pcServes 5 = true ∧ served.badBursts 5 = 0
    ∧ (findIdx (served.slice (homeSlice 5)).inbox (fun p => p.line == 5)) = some (0, pkt .gets) ∧ served.heldAt (homeSlice 5) + 1 < 16384
    ∧ ((0 : BitVec 4) &&& 3 = 0) ∧ (served.ctrl (lineChan 5)).scrub = true ∧ ((served.ctrl (lineChan 5)).pc 0).init = true
    ∧ (let p := (served.ctrl (lineChan 5)).pc 0; p.forced = false ∧ p.pbUntil ≤ served.refTick ∧ p.abUntil ≤ served.refTick) := by decide +kernel

/-- A line that no packet asks for, and its bank while it is refreshed. -/
theorem witness_MainMemoryEvents_device :
    let s := { served with lines := [] };
    (s.line 5).pend = none ∧ (s.line 5).data = none ∧ (s.line 5).dev = none ∧ inHbm (128 * 5) = true ∧ s.hbmAnswer 5 = .serve ∧ s.refreshing 5 = false
      ∧ s.pcServes 5 = true ∧ s.heldAt (homeSlice 5) < 16384
      ∧ (let t := { s with ctrls := [(lineChan 5, { Ctrl.reset with
            pc0 := { Pc.reset with init := true, abUntil := 9 }, pc1 := { Pc.reset with init := true, abUntil := 9 } })] };
        t.refreshing 5 = true ∧ t.hbmAnswer 5 = .serve) := by decide +kernel

theorem witness_MainMemoryEvents_write :
    let s := { served with lines := [(5, { held [] with dirty := true, hbmWrite := [(0, 1)] })] }
    (s.line 5).hbmWrite = [(0, 1)] ∧ (s.line 5).data.map (·.length) = some 128 ∧ (s.line 5).dirty = true ∧ (s.line 5).poison = 0
      ∧ s.pcServes 5 = true ∧ s.mem.wf = true := by
  decide +kernel

/-! ### Witnesses: walks, engines and registers -/

/-- A walk of core 0 asked for and not begun, and one begun for the slot of a site and for an access. -/
def walk0 (a : Bool) (w : WalkFor) : Walk := ⟨0, 0, 0x1000, [w], 0, a⟩
def walking (a : Bool) (w : WalkFor) : State := { onMem core0 with dies := [(0, { Die.reset with sptBase := 1, walks := [walk0 a w] })] }

theorem witness_WalksAndInvalidations : findIdx ((walking false (.access 1)).die 0).walks (fun w => !w.active) = some (0, walk0 false (.access 1))
    ∧ (((walking true (.access 1)).die 0).walks.filter fun w => w.active).length < 4
    ∧ (match (walking true (.slot 64 0 0 5 false false)).walk 0 0 0x1000 with
      | .found sp d _ _ => decide (sp = some 0 ∧ d = range0 0x1F)
      | _ => false) = true
    ∧ (match ({ walking true (.access 1) with lines := [] } : State).walk 0 0 0x1000 with
      | .none u => decide ((u.core 0).access 1 = none)
      | _ => false) = true := by decide +kernel

/-- The access that a walk answers with nothing. -/
theorem witness_WalksAndInvalidations_none :
    let s := { walking true (.access 1) with lines := [], cores := [(0, { core0 with accesses := [load0] })] };
    (match s.walk 0 0 0x1000 with
      | .none u => decide ((u.core 0).access 1 = some load0)
      | _ => false) = true ∧ load0.op ≠ .pref ∧ load0.gone = false ∧ load0.tid ≠ noTid := by decide +kernel

/-- An invalidation with nothing to wait for, that reports, that discards, and that goes on with a move. -/
def inval0 (n : Nat) (m : Option (Nat × Nat × Nat)) : Inval :=
  { die := 0, cores := [0], space := some 0, lo := 0x1000, hi := 0x2000, waitAcc := [], waitEnt := [], next := n, op := some ⟨1, 0, 17, 0⟩, span := (0x1000, 0x1000), move := m }
def move0 : Move := { op := ⟨1, 0, 17, 0⟩, die := 0, space := 0, vbase := 0x1000, len := 0x1000, oldPa := 0x1000, newPa := 0x4000, lo := 0, hi := 16, phase := 0, tid := 5 }

theorem witness_WalksAndInvalidations_done : (∀ n ∈ [0, 1], ({ st0 with invals := [inval0 n none] } : State).invalDone (inval0 n none) = true)
    ∧ st0.heldLines 0x1000 0x1000 = [] ∧ ({ st0 with lines := [(32, held [])] } : State).heldLines 0x1000 0x1000 = [32]
    ∧ ({ st0 with invals := [inval0 2 (some (1, 0, 17))], moves := [move0] } : State).moves.find? (fun m => (inval0 2 (some (1, 0, 17))).move == some (m.op.key, m.op.core, m.op.site))
      = some move0 := by decide +kernel

/-- LINEAR of 32 bytes from tile 5 to tile 6, both of core 0 and thread 5. -/
def msgTile (opc : Nat) : Bytes := leBytes opc 1 ++ List.replicate 63 0
def job0 (opc : Nat) : Job :=
  { msg := msgTile opc, opc, queue := 0, core := 0, space := 0, priv := false, tid := 5, block := 0, graph := 0, task := none, map := [], held := false, revoked := false
    transit := false, frozen := false, moved := false, attached := false, cb := [], flags := 0, seq := 0, scope := 0, move := none
    begun := false, waits := [], target := none, arrived := false, got := [], scat := none }
def withJob (j : Job) : State := { st0 with dies := [(0, { Die.reset with jobs := [j], jobSeq := 1 })] }

/-- The copy of a move of a piece of 256 bytes, whose job stands in the order unit, and an invalidation that goes on with it. -/
theorem witness_WalksAndInvalidations_copy :
    let m : Move := { move0 with phase := 1, hi := 1 }
    let j : Job := { job0 0 with move := some m.copy }
    let s : State := { onMem core0 with
      moves := [m], dies := [(0, { Die.reset with sptBase := 1, jobs := [j], jobSeq := 1 })]
      lines := (onMem core0).lines ++ [32, 33, 128, 129].map fun l => (l, held []) }
    (findIdx (s.die 0).jobs (fun j => j.core == 0 && decide (m.phase = 1) && j.move == some m.copy) = some (0, j) ∧ s.jobReady 0 0 j = true)
      ∧ (match s.moveCopy m.oldPa m.newPa (m.lo * 256) ((m.hi - m.lo) * 256) with
        | some (.ok u) => (match u.findRange m.die m.space m.vbase with
          | .found f v => v.quietSpan (f.base + 32 * f.idx) 32
          | _ => false)
        | _ => false) = true
      ∧ ({ s with invals := [inval0 2 (some (1, 0, 17))] } : State).moveBlocked (inval0 2 (some (1, 0, 17))) = false := by decide +kernel

theorem witness_EngineAndCollectiveJobs : (∀ opc ∈ [1, 2, 3, 0x10, 0x11], JobRuns (withJob (job0 opc)) 0 ⟨0, none⟩ (job0 opc))
    ∧ (∀ opc ∈ [0x28, 0x29], let j := { job0 opc with target := some (0, 0) }; JobRuns (withJob j) 0 ⟨0, none⟩ j)
    ∧ ({ st0 with cores := [(0, { core0 with queues := [(0, [job0 1])] })] } : State).jobQueue 0 = [job0 1]
    ∧ ((withJob (job0 1)).die 0).jobs.length < 256 ∧ ({ job0 1 with moved := true } : Job).cb = []
    ∧ (∃ next body, jobBody (.linear 0 ⟨0, none⟩) st0 = some (0, ⟨0, none⟩, 1, next, body))
    ∧ collectiveOf (.allreduce 0 ⟨0, none⟩) = some (0, ⟨0, none⟩, 0x20)
    ∧ (withJob (job0 0x20)).jobReady 0 0 (job0 0x20) = true := by
  refine ⟨?_, ?_, by decide +kernel, by decide +kernel, rfl, ⟨_, _, rfl⟩, rfl, by decide +kernel⟩ <;> (unfold JobRuns; decide +kernel)

/-- A region that lies in a tile. -/
def tileRegion (tile len : Nat) (w : Bool) : Bytes := leBytes tile 8 ++ leBytes (len + 2 ^ 30 + w.toNat * 2 ^ 31) 4

/-- A control block (R297) of group 0, rank 0, occurrence 7, with a count of elements of type 0. -/
def block0 (count : Nat) : Bytes := leBytes (count * 2 ^ 64) 16 ++ leBytes (7 * 2 ^ 32) 16

/-- A job of 16 bytes with its control block in tile 7, its source tile 5 and its destination tile 6; group 0, of one rank, lies at 0, and
its map at 0x100. -/
def jobColl (opc : Nat) : Job :=
  { job0 opc with
    msg := leBytes (opc + 3 * 256) 16 ++ tileRegion 7 32 false ++ tileRegion 5 16 false ++ tileRegion 6 16 true ++ List.replicate 12 0 }
def withColl (j : Job) (count : Nat) : State :=
  let t := fun (st : TileState) (base : Nat) => { Tile.empty with state := st, owner := 5, size := 1, base, cons := 1 }
  let c := { core0 with tiles := [(5, t .ready 0), (6, t .filling 1), (7, t .ready 2)] }.tilePut (t .ready 2) 0 (block0 count)
  { onCore c with
    dies := [(0, { Die.reset with jobs := [j], jobSeq := 1 })]
    lines := [(0, held (leBytes (0x8000 + 2 ^ 16) 8 ++ leBytes 0x100 8)), (2, held [])] }

theorem witness_EngineAndCollectiveJobs_control : (∀ p ∈ [(0x20, 4), (0x28, 0)],
      let j := jobColl p.1
      let s := withColl j p.2
      s.jobReady 0 0 j = true ∧ (match s.readControl 0 j with
        | .ok (b, _, r, _) => decide (b = block0 p.2 ∧ r = (0, 0))
        | .error _ => false) = true)
    ∧ (match ({ withColl (jobColl 0x20) 4 with cores := [] } : State).readControl 0 (jobColl 0x20) with
        | .error (.fault _ _) => true
        | _ => false) = true
    ∧ (jobColl 0x20).tileError (some (1, true)) ≠ none ∧ (jobColl 0x20).tileError none = none := by decide +kernel

/-- The job has read its block, and arrives first, or finds an arrival that differs from it. -/
def jobRead : Job := { jobColl 0x20 with cb := block0 4, begun := true }

theorem witness_EngineAndCollectiveJobs_arrive :
    (let s := withColl jobRead 4;
      jobRead.cb ≠ [] ∧ jobRead.arrived = false ∧ s.jobReady 0 0 jobRead = true ∧ s.tileChecks 0 jobRead = .ok
        ∧ s.arrivals (cbGroup jobRead.cb) (cbSeq jobRead.cb) = [] ∧ s.insts = [])
    ∧ (let s := withColl jobRead 4;
      let k := { jobRead with seq := 1, cb := block0 8, arrived := true };
      let t := { s with dies := [(0, { s.die 0 with jobs := [jobRead, k] })] };
      t.arrivals (cbGroup jobRead.cb) (cbSeq jobRead.cb) = [(0, k)] ∧ cbKey k.opc k.cb ≠ cbKey 0x20 jobRead.cb) := by decide +kernel

/-- The job has arrived; then it has read what it brings, and its occurrence fills; then its occurrence has filled. -/
theorem witness_EngineAndCollectiveJobs_fill :
    (let j : Job := { jobRead with arrived := true };
      let s := withColl j 4;
      s.jobReady 0 0 j = true ∧ s.insts = [] ∧ (match s.readOn 0 Job.collectPiece j j.readBound with
        | (_, k, none) => k.got.length == 16
        | _ => false) = true)
    ∧ (let j : Job := { jobRead with arrived := true, got := List.replicate 16 0 };
      let s := withColl j 4;
      (s.arrivals 0 7 = [(0, j)] ∧ s.jobFrozen j = false ∧ (match s.readGroup 0 0 with
          | .got g u => decide (g.n = 1) && (match u.gatherRanks g [(0, j)] [] 16 (List.range 1) [] with
            | .got ranks _ => ranks.length == 1
            | _ => false)
          | _ => false) = true)
      ∧ (let t := { s with insts := [⟨0, 7, [⟨0, 0x20, 4, 0, 0, 0, List.replicate 16 0⟩]⟩] };
        (t.insts.find? fun x => x.group == cbGroup j.cb && x.seq == cbSeq j.cb).isSome = true ∧ t.earlierSeq 0 j = false
          ∧ (match t.regPut j 2 0 (List.replicate 16 0) with
            | .ok _ => true
            | .error _ => false) = true)) := by decide +kernel

/-- LINEAR from tile 5 to tile 6: the job runs, reads all of its source, and then writes. -/
theorem witness_EngineAndCollectiveJobs_linear :
    let j : Job := { job0 1 with msg := leBytes (1 + 2 * 256) 16 ++ tileRegion 5 16 false ++ tileRegion 6 16 true ++ List.replicate 24 0 }
    JobRuns (withColl j 4) 0 ⟨0, none⟩ j ∧ (msgRegion j.msg 0).tile = true ∧ (msgRegion j.msg 1).tile = true ∧ j.got = []
      ∧ (match ((withColl j 4).attach 0 j).readOn 0 readsFirst j j.readBound with
        | (t, k, none) => k.got.length == 16 && match t.regPut k 1 0 k.got with
          | .ok _ => true
          | .error _ => false
        | _ => false) = true := by unfold JobRuns; decide +kernel

/-- GATHER and SCATTER of one element of four bytes, whose index, 0, lies in tile 5: the table is tile 6, or is written in tile 7. -/
theorem witness_EngineAndCollectiveJobs_gather : ∀ opc ∈ [0x10, 0x11],
    let t := fun (st : TileState) (base : Nat) => { Tile.empty with state := st, owner := 5, size := 1, base, cons := 1 }
    let j : Job := { job0 opc with msg := leBytes (opc + 3 * 256) 16 ++ tileRegion 5 4 false ++ tileRegion 6 4 false ++ tileRegion 7 4 true ++ List.replicate 12 0 }
    let s : State := { withColl j 4 with cores := [(0, { core0 with tiles := [(5, t .ready 0), (6, t .ready 1), (7, t .filling 2)] })] }
    JobRuns s 0 ⟨0, none⟩ j ∧ j.got = [] ∧ (msgRegion j.msg 0).tile = true ∧ (msgRegion j.msg 1).tile = true ∧ (msgRegion j.msg 2).tile = true
      ∧ (msgRegion j.msg 0).len = 4 ∧ leNat (regionTile s j 0 0 4) = 0 := by unfold JobRuns; decide +kernel

theorem witness_EngineAndCollectiveJobs_activation :
    let s := onCore { core0 with activations := [⟨{ FaultRec.zero with code := 0x20 }, job0 1⟩], hnd := [(0x20, 0x8000000000002007)] }
    (s.core 0).activations = [⟨{ FaultRec.zero with code := 0x20 }, job0 1⟩] ∧ (s.core 0).freeTid = some 0 ∧ (s.core 0).handlerOf 0x20 = some ⟨2, 7⟩ := by
  decide +kernel

/-- Register k of PHY slice 0 of channel 0 of stack 0 of die 0 (R88, R406). -/
def phyAddr (k : Nat) : Nat := 0xF00000000000 + 0x000100000000 + 0x800 + 8 * k

/-- One write in the register queue. -/
def written (addr v : Nat) : State := { st0 with sysq := [⟨.session 0, addr, some (BitVec.ofNat 64 v), false⟩] }

/-- The registers by their addresses: SLEW of die 0, PHY slice 0's command, map and TRAINED. -/
theorem witness_RegisterEvents : (((written 0xF0000B000010 1).sysWrite 0).map fun p => p.2.2) = some .plain
    ∧ (∀ c ∈ [1, 2, 3], (((written (phyAddr 0) c).sysWrite 0).map fun p => p.2.2) = some (.command 0 c)) ∧ (st0.phy 0).busy = none
    ∧ (((written (phyAddr 5) 0x10001).sysWrite 0).map fun p => p.2.2) = some (.repair 0)
    ∧ (((written (phyAddr 7) 1).sysWrite 0).map fun p => p.2.2) = some (.trained 0) := by decide +kernel


/-! ### Witnesses: blocks and threads -/

/-- DONE on i0 guarded for an ord token, at site 17, with the route of the entry ord to its i0: a valid image of block 0 of graph 0. -/
def doneBits : Nat := 7 * 2 ^ 100 + 0x123 * 2 ^ 91 + 8 * 2 ^ 78 + 14 * 2 ^ 72 + 14 * 2 ^ 66 + 8 * 2 ^ 62 + 2 ^ 51

def goodImage : Bytes :=
  let b := leBytes 0x4B424D4C 4 ++ leBytes 0 4 ++ leBytes (1 + 2 ^ 112) 16 ++ leBytes (2 ^ 17) 32 ++ leBytes 0 8
    ++ leBytes (17 + 0x40 * 256) 16 ++ leBytes doneBits 16 ++ List.replicate 240 0 ++ leBytes (0xFF00000000000000 + 5 * 2 ^ 28) 8
  putSlice b 0x38 ((sha512 b).take 8)

/-- Graph 0's directory at 0x10000 names one block, an image of six units at 0x20000; the slices hold both. -/
def imageLine (k : Nat) : Line := held ((goodImage.drop (128 * k)).take 128)
def onBlock (c : Core) : State :=
  { onCore c with
    graphs := [(0, ⟨0x10000, [], none, 0, 0, []⟩)]
    lines := [(512, held (leBytes (1 + 0x20000 + 6 * 2 ^ 48) 8)), (1024, imageLine 0), (1025, imageLine 1), (1026, imageLine 2)] }

theorem witness_BlocksAndChoices_demand :
    (let s := onBlock { core0 with demands := [⟨0, 0⟩], ctxs := [] };
      (s.core 0).demands = [⟨0, 0⟩] ∧ (s.core 0).freeCtx s.cycle = some 0)
    ∧ let s := onBlock { core0 with ctxs := [(0, { Ctx.empty with loading := true, reading := true })] };
    (s.core 0).demands.contains ⟨0, 0⟩ = false ∧ tblHas s.graphs 0 = true
      ∧ ((List.range 8).find? fun k => ((s.core 0).ctx k).reading && ((s.core 0).ctx k).blk == ⟨0, 0⟩) = some 0
      ∧ (match s.imageBytes (s.graph 0).dir 0 with
        | .got bs _ => !bit (imgNum bs 9 1) 0 && (match validate bs 0 0 with
          | .ok _ => true
          | .error _ => false)
        | _ => false) = true := by decide +kernel

/-- Thread 5 waits to enter block 0 of graph 0, which context 0 holds; the selector has made it active. -/
def waiter : Thread := { Thread.none with st := .waiting, resume := ⟨⟨0, 0⟩, none⟩ }
def entry0 : RouteEntry := ⟨17, 1, 0, 0⟩
def waiting (x : Ctx) (t : Thread) : Core :=
  { core0 with
    threads := [(5, t)], ctxs := [(0, { x with validFrom := some 0, fresh := true })], sites := [], active := some ⟨0, 0⟩, cached := [⟨0, 0⟩]
    part := some { part0 with slots := 2 } }
def atWait (c : Core) : State := { onCore c with cycle := 100 }

theorem witness_BlocksAndChoices_context :
    let x : Ctx := { Ctx.empty with validFrom := some 0 }
    let s := onCore { core0 with ctxs := [(1, { x with validFrom := none, loading := true }), (2, { x with stale := true })] };
    ((s.core 0).ctx 1).loading = true ∧ ((s.core 0).ctx 1).reading = false ∧ ((s.core 0).ctx 1).refusal = none ∧ ((s.core 0).ctx 1).loadEnd ≤ s.cycle
      ∧ s.cycle < (({ core0 with ctxs := [(1, { x with loadEnd := 5 })] } : Core).ctx 1).loadEnd ∧ ((s.core 0).ctx 2).stale = true
      ∧ ((s.core 0).ctx 2).validFrom.isSome = true ∧ ((s.core 0).ctx 2).loading = false ∧ (s.core 0).ctxBusy s.cycle 2 = false := by decide +kernel

/-- No block active; another block whose waiters the quantum lets in; and a block that is not in any context. -/
theorem witness_BlocksAndChoices :
    (let c := { waiting Ctx.empty waiter with active := none };
      c.top 100 = some ⟨0, 0⟩ ∧ c.choiceDue 100 = true)
    ∧ (let c := { waiting Ctx.empty waiter with qNow := 0, threads := [(5, waiter), (6, { waiter with blk := ⟨0, 1⟩ })] };
      (c.top 100).isSome = true ∧ c.quantumOver 100 = true ∧ c.choiceDue 100 = false)
    ∧ (let s := onBlock { waiting Ctx.empty waiter with ctxs := [], active := none, preFound := some ⟨0, 0⟩ };
      (s.core 0).preFound = some ⟨0, 0⟩ ∧ (s.core 0).selecting = true ∧ (s.core 0).prefetch = none ∧ ((s.core 0).freeCtx s.cycle).isSome = true
        ∧ (s.core 0).residence ⟨0, 0⟩ = none ∧ (s.core 0).demands = [])
    ∧ (let c := { waiting Ctx.empty waiter with cached := [] };
      c.active = some ⟨0, 0⟩ ∧ c.cached.contains ⟨0, 0⟩ = false) := by decide +kernel

/-- A vector whose area lacks its bits, and one whose area, two lines at 0, has them. -/
theorem witness_BlocksAndChoices_vectors :
    (let s := onBlock { waiting Ctx.empty waiter with cached := [] };
      (s.core 0).lags ⟨0, 0⟩ = true ∧ spanInHbm ((s.core 0).vectorAt ⟨0, 0⟩) 256 = true ∧ s.quietSpan ((s.core 0).vectorAt ⟨0, 0⟩) 256 = true)
    ∧ (let s := { onBlock { waiting Ctx.empty waiter with cached := [], vecs := [(⟨0, 0⟩, ⟨0, 0, 32⟩)] } with lines := [(0, held []), (1, held [])] };
      (s.core 0).lags ⟨0, 0⟩ = false ∧ (match s.devRead ((s.core 0).vectorAt ⟨0, 0⟩) 256 with
        | .got _ _ => true
        | _ => false) = true) := by decide +kernel

theorem witness_ThreadsStart :
    let s := atWait (waiting { Ctx.empty with routes := [entry0] } waiter);
    let c := s.core 0;
    c.injectDue s.cycle = some (⟨0, 0⟩, 0, 5) ∧ (c.thread 5).rstep = .none ∧ (c.ctx 0).commit = 0 ∧ c.entryRoom s.cycle 0 (c.ctx 0).entries = true
      ∧ c.badSlot 5 (c.ctx 0).entries = none ∧ ((c.ctx 0).entries.map fun e => (e.site, e.ch)).Nodup := by decide +kernel

/-- The waiter's block has a commit area of one granule, and no request of it waits. -/
theorem witness_ThreadsStart_area :
    ((atWait (waiting { Ctx.empty with routes := [entry0], commit := 1 } waiter)).core 0).areaWanted 100 = some (5, 0) := by decide +kernel

/-- A thread that resumes at safe point 1 of block 0, whose stub is block 3, in context 1. -/
def desc1 : SafeDesc := ⟨1, 17, 0, some 3, 1, []⟩
def resuming (r : ResumeStep) : State :=
  let c := waiting { Ctx.empty with routes := [⟨17, 0, 1, 0⟩], safes := [desc1] } { waiter with resume := ⟨⟨0, 0⟩, some 1⟩, rstep := r };
  atWait { c with ctxs := c.ctxs ++ [(1, { Ctx.empty with validFrom := some 0, blk := ⟨0, 3⟩, stub := true })] }

theorem witness_ThreadsStart_resume :
    (let s := resuming .stub;
      let c := s.core 0;
      c.injectDue s.cycle = some (⟨0, 0⟩, 0, 5) ∧ (c.thread 5).resume.k.bind (c.ctx 0).safe = some desc1 ∧ (c.thread 5).rstep = .stub
        ∧ c.resident s.cycle ⟨0, 3⟩ = some 1 ∧ c.needsArea 1 5 = false ∧ c.entryRoom s.cycle 1 (c.ctx 1).entries = true
        ∧ c.badSlot 5 (c.ctx 1).entries = none)
    ∧ (let s := resuming .main;
      let c := s.core 0;
      let es := (c.ctx 0).entries.filter fun e => e.kind == 0 && (desc1.lvmask ||| (c.thread 5).stubOut).getLsbD e.slot;
      c.injectDue s.cycle = some (⟨0, 0⟩, 0, 5) ∧ (c.thread 5).rstep = .main ∧ (c.ctx 0).fresh = true
        ∧ c.needsArea 0 5 = false ∧ c.entryRoom s.cycle 0 es = true ∧ c.badSlot 5 es = none)
    ∧ (let s := resuming .stub;
      let c := { s.core 0 with ctxs := [(0, { (s.core 0).ctx 0 with safes := [{ desc1 with stub := none }] })] };
      c.injectDue s.cycle = some (⟨0, 0⟩, 0, 5) ∧ ((c.thread 5).resume.k.bind (c.ctx 0).safe).map (·.stub) = some none
        ∧ (c.thread 5).rstep = .stub ∧ (c.ctx 0).fresh = true) := by decide +kernel

/-- A thread whose exit was fired at cycle 3; it is now cycle 100. -/
def leaving (a : ExitAct) : State := atWait { core0 with threads := [(5, { Thread.none with st := .inBlock, exiting := some (a, 3) })] }

theorem witness_ThreadsLeave : (∀ a ∈ [ExitAct.done, .stubEnd, .next 7, .gated 7 65535 0], ExitDue (leaving a) 0 5 a) ∧ ((leaving .done).core 0).takesTimer 5 = false := by
  refine ⟨?_, by decide +kernel⟩
  intro a h
  simp only [List.mem_cons, List.not_mem_nil, or_false] at h
  rcases h with rfl | rfl | rfl | rfl <;> exact ⟨by decide +kernel, 3, by decide +kernel⟩

/-- A fault waits for a thread's chunks, and none is left; a soft error meets a firing; a pass of 99 cycles, of a block with MAXSAFE 97, is too long; a
timer of 64 cycles with a handler; a freeze on its way; and a thread held at a SAFE while a pre-emption waits. -/
theorem witness_ThreadsLeave_faults :
    (let s := onCore { core0 with threads := [(5, { Thread.none with st := .inBlock, pending := some FaultRec.zero })] };
      ((s.core 0).thread 5).pending = some FaultRec.zero ∧ ∀ k ∈ (s.core 0).chunks, k.tid ≠ 5)
    ∧ ((st0.core 0).thread 5).st = .inBlock ∧ ((st0.core 0).thread 5).exiting = none ∧ ((st0.core 0).l1line 2).st = .i
    ∧ (∀ z ∈ [CopyState.s, CopyState.m], (({ core0 with l1 := [(2, ⟨z, [], 0⟩)] } : Core).l1line 2).st = z) ∧ CopyState.m.dirty = true
    ∧ CopyState.s ≠ .i ∧ CopyState.s.dirty = false
    ∧ (let s := atWait { core0 with ctxs := [(0, { Ctx.empty with validFrom := some 0, maxsafe := 98 })] }; (s.core 0).safeOver s.cycle 5 = true)
    ∧ (let s := atWait { core0 with ctxs := [(0, { Ctx.empty with validFrom := some 0, maxsafe := 99 })] }; (s.core 0).safeOver s.cycle 5 = false)
    ∧ (let s := atWait { core0 with tmrEn := true, tmrPeriod := 100, hnd := [(0x34, 0x8000000000002007)] }; (s.core 0).timerDue s.cycle = true)
    ∧ ({ st0 with freezing := [⟨0, 7⟩] } : State).freezing.contains ⟨0, 7⟩ = true := by decide +kernel

/-- A soft error of a line that the L1 does not hold, of a burst of which the slices' data may be wrong; in a proxy, or in the home. -/
theorem witness_ThreadsLeave_slices : ((st0.core 0).l1line 2).st = .i ∧ (st0.proxy (dieOf 0) 2).data.isSome = false ∧ lineDie 2 = 0
    ∧ (({ st0 with proxies := [(dieLines * 4, held [])] } : State).proxy (dieOf 0) dieLines).data.isSome = true ∧ (3 : Fin 4).val = 127 / 32 := by
  decide +kernel

theorem witness_ThreadsLeave_park :
    let s := onCore { core0 with threads := [(5, { Thread.none with st := .inBlock, parkAt := some 0 })], preempt := some .distributor, sites := [] };
    ((s.core 0).thread 5).st = .inBlock ∧ (s.core 0).wantsPark = true ∧ (s.core 0).midPass 5 = false ∧ ((s.core 0).thread 5).parkAt.isSome = true
      ∧ (s.core 0).tokensOf 5 ≤ 1 := by decide +kernel

/-- A thread waits at an ALLOC, in slot 0 of site 17, whose block has a descriptor for it, with its size's head in the buffer. -/
def allocBits : Nat := 7 * 2 ^ 100 + 0x0A0 * 2 ^ 91 + 14 * 2 ^ 72 + 14 * 2 ^ 66 + 8 * 2 ^ 62 + 2 ^ 51

theorem witness_ThreadsLeave_alloc :
    let s := onCore { core0 with
      threads := [(5, { Thread.none with st := .inBlock })], ctxs := [(0, { Ctx.empty with validFrom := some 0, safes := [desc1] })]
      sites := [(17, { Site.empty with ctxs := [(0, { SiteCtx.empty with words := [(0, allocBits)] })] })]
      waiting := [⟨.alloc 17 0 0 0, 5, 0, 1, 0⟩] };
    ((s.core 0).thread 5).st = .inBlock ∧ ((s.core 0).thread 5).exiting = none ∧ ((s.core 0).thread 5).parkAt = none ∧ (s.core 0).midPass 5 = false
      ∧ (s.core 0).wantsPark = false ∧ (s.core 0).waitsAtAlloc 5 = some (17, 1) ∧ (s.core 0).tokensOf 5 ≤ 1 := by decide +kernel

/-- A slice with a command that runs, a pseudo-channel that has just been trained, DCBOOT and DCSVC. -/
theorem witness_RegisterEvents_more :
    (let s := { st0 with phys := [(5, { Phy.reset with busy := some 3 })] };
      (s.phy 5).busy = some 3 ∧ ((s.ctrl (5 / 18)).pc (5 % 18 / 9)).forced = false)
    ∧ (let s := { served with ctrls := [] };
      ((s.ctrl (lineChan 5)).pc (linePc 5)).init = false ∧ s.trained (lineChan 5) (linePc 5) = true ∧ s.phyHeld (lineChan 5) (linePc 5) = false ∧ s.mem.wf = true ∧ lineChan 5 < 384)
    ∧ (((written 0xF0000F000000 0).sysWrite 0).map fun p => p.2.2) = some (.boot 0)
    ∧ (((written 0xF0000F000010 0x80).sysWrite 0).map fun p => p.2.2) = some (.service 0)
    ∧ (((written 0xF0000F000008 0x8000).sysWrite 0).map fun p => p.2.2) = some (.coreReset 0)
    ∧ (written 0xF0000F000008 0x8000).sysq.length = 1 := by decide +kernel

/-! ### Witnesses: tasks, sync entries -/

/-- A record of kind 0: thread count 6, entry 0, graph 0, space 0, ARGS at 0x1000, priority p and a hint. -/
def rec0 (kind p hint : Nat) : Bytes :=
  leBytes (kind + p * 256) 2 ++ leBytes 0 2 ++ leBytes 0 2 ++ leBytes 0 2 ++ leBytes (if kind = 0 then 6 else 0) 4 ++ leBytes 0 2 ++ leBytes 0xFFFF 2
    ++ leBytes (if kind = 0 then 0x1000 else 0) 8 ++ leBytes 0 16 ++ leBytes hint 2 ++ leBytes 0 22

theorem witness_TheDieOfATask :
    hintCore (rec0 0 0 (2 ^ 15 + 383)) = some 383 ∧ (hintCore (rec0 0 0 (2 ^ 14 + 3)) = none ∧ hintDie (rec0 0 0 (2 ^ 14 + 3)) = some 3)
    ∧ hintCore (rec0 0 0 0) = none ∧ hintDie (rec0 0 0 0) = none
    ∧ (let pts := fun (map : List MapEntry) (d : Nat) => (([(0, 16)] : List (Nat × Nat)).map fun f => ((map.filter fun m => m.die == d).map fun m =>
        ((List.range f.2).filter fun k => decide (m.vbase ≤ f.1 + k) && decide (f.1 + k < m.vbase + m.len)).length).sum).sum;
      (∀ d, d < 4 → pts [⟨16, 16, 2⟩] d = 0) ∧ pts [⟨15, 16, 2⟩] 2 = 1) := by decide +kernel

/-- Slot 0 of die 0 holds a task. -/
def withTask (a : Task) (d : Die) : State := { onMem core0 with dies := [(0, { d with tasks := [(0, a)], sptBase := 1 })] }
def task0 (st : TaskState) (r : Bytes) : Task := { Task.free with st, record := r, deps := 2, runs := 0 }

theorem witness_TasksAndParts_decrement :
    (let s := withTask (task0 .waiting (rec0 4 0 0)) { Die.reset with decq := [⟨0, 1, none, 4, 5⟩, ⟨0, 1, some 0, 3, 5⟩] };
      (s.die 0).decq[1]? = some ⟨0, 1, some 0, 3, 5⟩ ∧ (∀ y ∈ (s.die 0).decq.take 1, keepsPlace 0 y.core 3 = false)
        ∧ s.findTask 0 0 = some (0, task0 .waiting (rec0 4 0 0)) ∧ 1 < (task0 .waiting (rec0 4 0 0)).deps ∧ recSpace (rec0 4 0 0) = 0)
    ∧ (withTask (task0 .waiting (rec0 4 0 0)) Die.reset).findTask 0 (2 ^ 27) = none
    ∧ (let s := withTask { task0 .running (rec0 0 0 0) with succ := [0x1005] } Die.reset;
      (s.task 0 0).st = .running ∧ (s.task 0 0).left = 0 ∧ (s.task 0 0).succ = [0x1005] ∧ recCsync (s.task 0 0).record = 0xFFFF) := by decide +kernel

/-- A ready part of the task on level 9, core 0 idle and the service core released; the same part saved at 0x1F00. -/
def ready0 (saved : Option Nat) : Ready := ⟨0, 0, 0, saved, []⟩
def readyAt (r : Bytes) (saved : Option Nat) (c : Core) : State :=
  let d : Die := { Die.reset with tasks := [(0, task0 .ready r)], sptBase := 1, ready := [(9, [ready0 saved])], svcRel := true, svcRelAt := 0 }
  { onMem c with cycle := 1, dies := [(0, d)], lines := [(0, held (leBytes 0x101 8 ++ leBytes 1 8)), (2, held (range0 0x1F).bytes), (32, held []), (62, held (List.replicate 40 0 ++ leBytes 64 4))] }
def idle0 : Core := { Core.reset with part := none }

theorem witness_TasksAndParts_dispatch :
    ((readyAt (rec0 0 9 0) none idle0).nextDispatch 0 = some (9, 0, ready0 none, .part 0) ∧ (ready0 none).saved = none)
    ∧ (∃ q, (readyAt (rec0 1 9 0) none idle0).nextDispatch 0 = some (9, 0, ready0 none, .job q))
    ∧ (let s := readyAt (rec0 0 9 0) none idle0;
      let a := s.readyTask (ready0 none);
      let l := s.graphSlots (recGraph a.record);
      let n := partThreads (partCap l) (recThreads a.record) 0;
      (match s.taskRead { core := 0, die := 0, space := recSpace a.record, priv := a.priv } (recArgs a.record + 16 * l * 0 * partCap l) (16 * l * n) with
        | .ok _ => true
        | .error _ => false) = true ∧ n = 6)
    ∧ (let s := readyAt (rec0 0 9 0) (some 0x1F00) idle0;
      s.nextDispatch (dieOf 0) = some (9, 0, ready0 (some 0x1F00), .part 0)
        ∧ (match s.devRead 0x1F00 64 with
          | .got h u => decide (imgNum h 0x28 4 = 64) && (match u.devRead 0x1F00 (imgNum h 0x28 4) with
            | .got img v =>
              let q := ((v.dropReady (dieOf 0) 9 0).setRunning 0).placePart 0 9 (ready0 (some 0x1F00)) (v.readyTask (ready0 (some 0x1F00)));
              (q.1.restoreReady (q.1.imageThreads 0 q.2 [] img).1)
            | _ => false)
          | _ => false) = true) := by
  refine ⟨by decide +kernel, ⟨0, by decide +kernel⟩, by decide +kernel, by decide +kernel⟩

/-- An engine task's message that can be read, and one whose address no range holds. -/
theorem witness_TasksAndParts_job :
    let get := fun (s : State) => let a := s.readyTask (ready0 none);
      s.taskRead { core := 0, die := 0, space := recSpace a.record, priv := a.priv } (recArgs a.record) 64;
    (match get (readyAt (rec0 1 9 0 |>.take 16 |>.append (leBytes 0x1000 8 ++ List.replicate 40 0)) none idle0) with
      | .ok _ => true
      | _ => false) = true
    ∧ (match get (readyAt (rec0 1 9 0) none idle0) with
      | .error (.fault _ _) => true
      | _ => false) = true := by decide +kernel

/-- A gate whose entry holds its phase, and one whose entry has gone on. -/
theorem witness_TasksAndParts_gates :
    let s := { st0 with dies := [(0, { Die.reset with syncCache := [(3, (⟨true, 0, 8, false, 0, 5, 0⟩ : SyncEntry).toBits)] })] };
    s.syncPhase 3 = .phase 8 ∧ (8 : Nat) ≠ 7 := by decide +kernel

/-- Core 5, which the hint names, runs a part of level 0, and the task that waits for it is of level 9. -/
theorem witness_TasksAndParts_preempt :
    (let s := { readyAt (rec0 0 9 0x8000) none core0 with cores := [(0, core0)] };
      (s.preemptNow 0).isSome = true ∧ s.endPhase = false ∧ (s.core 0).asksPark = false)
    ∧ (let s := onMem { core0 with preempt := some .distributor, svBase := 0x1000, threads := [(5, { Thread.none with st := .parked })] };
      (s.core 0).part = some part0 ∧ (s.core 0).saveReady = true
        ∧ ((s.core 0).threads.all fun x => x.2.st == .retired || !s.imageBusy x.2.resume.blk) = true
        ∧ s.quietSpan (s.core 0).svBase (s.saveImage 0 part0).length = true ∧ inHbm (s.core 0).svBase = true
        ∧ inHbm ((s.core 0).svBase + (s.saveImage 0 part0).length - 1) = true) := by decide +kernel

/-- Die 0 holds sync entry 3, of space 0 and phase 8, in its cache, and one message for it. -/
def entry3 (arrived : Nat) : SyncEntry := ⟨true, 0, 8, false, 0, 5, arrived⟩
def syncing (m : SyncMsg) (arrived : Nat) : State :=
  { st0 with dies := [(0, { Die.reset with syncq := [m], syncCache := [(3, (entry3 arrived).toBits)], gates := [⟨3, 8, 0, 5⟩] })]
             cores := [(0, { core0 with threads := [(5, { Thread.none with st := .gated, gate := some ⟨3, 8, true⟩ })] })] }

theorem witness_SyncEntriesAndBoundaries :
    (∀ n ∈ [3, 4], (((syncing (.arrive 3 (some 0) 0 5) n).syncMsg 0 0).map fun p => (p.1, p.2.1)) = some (.arrive 3 (some 0) 0 5, entry3 n))
    ∧ ((entry3 3).arrived + 1 ≠ (entry3 3).target ∧ (entry3 4).arrived + 1 = (entry3 4).target ∧ (entry3 3).v = true ∧ (entry3 3).space = 0)
    ∧ (((syncing (.arrive 3 (some 0) 0 5) 4).die 0).gates = [⟨3, 8, 0, 5⟩] ∧ (((syncing (.arrive 3 (some 0) 0 5) 4).core 0).thread 5).st = .gated)
    ∧ (∀ p ∈ [true, false], ((syncing (.init 3 7 0 0 p 0 0 5) 0).syncMsg 0 0).isSome = true)
    ∧ ((syncing (.gate 3 0 5) 0).syncMsg 0 0).isSome = true ∧ (((syncing (.gate 3 0 5) 0).core 0).thread 5).gate = some ⟨3, 8, true⟩ := by
  decide +kernel

theorem witness_SyncEntriesAndBoundaries_fill :
    let s := { st0 with dies := [(0, { Die.reset with syncq := [.gate 3 0 5], syncBase := 0 })], lines := [(0, held [])] };
    (s.die 0).syncq = [.gate 3 0 5] ∧ (s.die 0).inReset = false ∧ (s.die 0).syncEntry 3 = none ∧ (s.die 0).syncCache.length < 1024
      ∧ (match s.devRead (s.syncAddr 0 3) 16 with
        | .got _ _ => true
        | _ => false) = true := by decide +kernel

/-- Boundary element 0 of core 0 holds a token; its route names no site, or boundary element 0 of core 1, thread 9 of block 2. -/
def bounding (r : BitVec 64) : State :=
  let c : Core := { core0 with beRoute0 := r, sites := [(7, { Site.empty with bound := [⟨headTok 0, 0, none⟩] })] }
  { onCore c with cores := [(0, c), (1, { core0 with ctxs := [(4, { Ctx.empty with validFrom := some 0, blk := ⟨0, 2⟩ })], sites := [] })] }
def beRoute : BitVec 64 := .ofNat 64 (2 ^ 63 + 1 + 2 * 2 ^ 23 + 9 * 2 ^ 35)

theorem witness_SyncEntriesAndBoundaries_boundary :
    bufFront 0 (((bounding 0).core 0).site (beSite 0)).bound = some (headTok 0) ∧ bit ((bounding 0).core 0).beRoute0.toNat 63 = false
    ∧ (let s := bounding beRoute;
      let r := (s.core 0).beRoute0.toNat;
      bit r 63 = true ∧ bits r 8 0 = 1 ∧ (s.core 1).part = some part0 ∧ (s.core 0).part = some part0
        ∧ (List.range 8).find? (fun x => ((s.core (bits r 8 0)).ctx x).valid s.cycle && ((s.core (bits r 8 0)).ctx x).blk == ⟨0, bits r 34 23⟩) = some 4
        ∧ bufUsed 0 (((s.core 1).site (beSite (bits r 9 9))).buf 0) < 2 ∧ bufFresh 0 (((s.core 1).site (beSite (bits r 9 9))).buf 0) = false) := by
  decide +kernel

/-! ### Witnesses: sessions and the owner -/

/-- Port 0 is up and has one connection that Clotis can run on; no die has BOOT set, and step 5 of the boot is done. -/
def session0 (k : SessionKind) (frozen : Bool) : Session := ⟨k, List.replicate 32 7, [1], 0, frozen⟩
def served0 (ss : Tbl Session) : State :=
  { st0 with
    ports := [(0, { Port.reset with up := true })], conns := List.replicate 3 (0, [.rod, .rud, .untagged, .security, .rma])
    dies := [0, 1, 2, 3].map fun d => (d, { Die.reset with boot := false })
    modl := { Control.reset with bootStep := 5, sessions := ss, keys := [(5, List.replicate 32 7)] } }

theorem witness_OwnershipAndReports_open :
    (served0 []).open_ = true ∧ (served0 []).flowOk 0 = true ∧ (served0 []).sessionOf 0 = none ∧ (List.replicate 32 (7 : Byte)).length = 32
    ∧ (List.range 16).find? (fun n => !tblHas (served0 []).modl.sessions n) = some 0 ∧ (served0 []).clotisWaits 0 = false := by decide +kernel

theorem witness_OwnershipAndReports_prove :
    let s := served0 [(3, session0 .hello false)];
    s.sessionOf 0 = some (3, session0 .hello false) ∧ (session0 .hello false).frozen = false ∧ (session0 .hello false).kind = .hello
      ∧ s.clotisWaits 0 = false ∧ (List.replicate 64 (0 : Byte)).length = 64 ∧ (List.replicate 63 (0 : Byte)).length ≠ 64
      ∧ ∃ k, s.kindOf (session0 .hello false).key = some k := by
  refine ⟨by decide +kernel, rfl, rfl, by decide +kernel, by decide, by decide, ?_⟩
  unfold State.kindOf
  split
  · exact ⟨_, rfl⟩
  · exact ⟨.tenant 5, by decide +kernel⟩

/-- Session 3 is a management session and the owner, or no one is; session 4 is a tenant's of space 5, and session 6 is frozen. -/
def managed (owner offer : Option Nat) : State :=
  let s := served0 [(3, session0 .management false), (4, { session0 (.tenant 5) false with flow := 1 }), (6, { session0 .management true with flow := 2 })]
  { s with
    refTick := 9000000000
    modl := { s.modl with owner, offer, queues := [⟨0, 2, []⟩] } }

theorem witness_OwnershipAndReports :
    (∀ o ∈ [none, some 4, some 3], Serves (managed o (some 3)) 3 (session0 .management false)) ∧ (managed none (some 3)).modl.owner = none
    ∧ (managed none (some 3)).modl.offer = some 3 ∧ (managed (some 3) none).managers.contains 6 = true
    ∧ (managed (some 3) none).modl.heard + 1000000 * max 1 (managed (some 3) none).modl.ownTo ≤ (managed (some 3) none).refTick
    ∧ (managed none none).modl.owner ≠ some 3 ∧ (managed none none).session 6 = some { session0 .management true with flow := 2 } := by
  refine ⟨?_, by decide +kernel⟩
  unfold Serves; decide +kernel

/-- A code that no list has; a session that waits, as no port of its die is up; and a frozen one. -/
theorem witness_OwnershipAndReports_unlisted : listedCodes.contains 0x60 = false
    ∧ (let s := { managed none none with ports := [] }; s.session 3 = some (session0 .management false) ∧ s.clotisWaits 0 = true)
    ∧ (managed none none).clotisWaits 2 = false := by decide +kernel

/-- An owner that has been heard no later than the next cycle begins stays the owner in it. -/
def heardLater (k : Nat) : State := { State.reset with modl := { Control.reset with owner := some 3, heard := k } }
def heardNext (k : Nat) : State := { heardLater k with cores := [], cycle := 1, refTick := 0 + Config.ticks 0, endPhase := false }

theorem heard_stages (k : Nat) : (heardLater k).countStalls = heardLater k ∧ (heardLater k).keepWritten = heardLater k
    ∧ ({ heardLater k with dies := tblMap (heardLater k).dies fun _ (d : Die) => (heardLater k).nextDie d } : State) = heardLater k
    ∧ (heardLater k).admitQueues = heardLater k ∧ (heardLater k).forgetReads = heardLater k ∧ (heardLater k).runRanges [] 1 = heardLater k
    ∧ (heardLater k).finishFreezes = heardLater k ∧ (heardLater k).finishParts = heardLater k ∧ (heardLater k).cores = []
    ∧ (heardLater k).rangeq = [] := ⟨rfl, rfl, rfl, rfl, rfl, rfl, rfl, rfl, rfl, rfl⟩

theorem heard_next (k : Nat) : (heardLater k).nextCycle = (heardNext k).lapse := by
  obtain ⟨h1, h2, h3, h4, h5, h6, h7, h8, h9, h10⟩ := heard_stages k
  unfold State.nextCycle
  simp only [h1]
  rw [h3, h2]
  simp only [h9, List.foldl_nil, h4, h5, h10, List.length_nil, Nat.zero_add, h6, h7, h8]
  rfl

theorem lapse_stays (v : State) (h : v.refTick < v.modl.heard + 1000000 * max 1 v.modl.ownTo) : v.lapse = v := by
  unfold State.lapse; rw [if_neg]; simp; intro _; omega

theorem witness_OwnershipAndReports_owner : ∃ s : State, s.nextCycle.modl.owner = some 3 := by
  refine ⟨heardLater (Config.ticks 0), ?_⟩
  rw [heard_next, lapse_stays]
  · rfl
  · have e1 : (heardNext (Config.ticks 0)).modl.heard = Config.ticks 0 := rfl
    have e2 : (heardNext (Config.ticks 0)).refTick = 0 + Config.ticks 0 := rfl
    have := Nat.le_max_left 1 (heardNext (Config.ticks 0)).modl.ownTo
    rw [e1, e2]; omega

/-- The trace buffer of die 0 lies at 0 and holds 64 KiB, of which the slices hold the first line. -/
theorem witness_OwnershipAndReports_trace :
    let s := { managed none none with lines := [(0, held [])] };
    0 + 64 ≤ (s.die 0).trSize ∧ (match s.devRead ((s.die 0).trBase + 0) 64 with
      | .got _ u => decide (u.modl = s.modl)
      | _ => false) = true := by decide +kernel

theorem witness_OwnersCommands :
    Serves (managed (some 3) none) 3 (session0 .management false) ∧ tblHas (managed (some 3) none).modl.keys 0 = false
    ∧ (∀ pa ∈ (managed (some 3) none).spaceEntries 4095, spanInHbm pa 16 = true → (managed (some 3) none).quietSpan pa 16 = true)
    ∧ ((managed (some 3) none).modl.queues.filter fun q => q.space == 0).length < 8 ∧ (∃ q ∈ (managed (some 3) none).modl.queues, q.num = 2)
    ∧ inRegs 0xF0000B000010 = true ∧ inRegs 0 = false ∧ Serves (managed (some 3) none) 4 { session0 (.tenant 5) false with flow := 1 } := by
  refine ⟨by unfold Serves; decide +kernel, by decide +kernel, by decide +kernel, by decide +kernel, ⟨⟨0, 2, []⟩, by decide +kernel, rfl⟩, by decide +kernel,
    by decide +kernel, by unfold Serves; decide +kernel⟩

/-- A launch of one record of kind 4 and no lists, with a map of no entries and with one of die 3. -/
theorem witness_OwnersCommands_launch :
    let s := managed (some 3) none;
    let rs := [rec0 4 0 0];
    let v := (s.modl_ fun c => { c with heard := s.refTick }).pushLaunch 2 ⟨3, 0, true, rs, []⟩;
    s.comesBy 0 0 = true ∧ s.modl.queues.find? (fun y => y.num == 2) = some ⟨0, 2, []⟩ ∧ rs.all recordOk = true ∧ mapOf (leBytes 0 8) = some []
      ∧ (match v.planLaunch (fun sp => { core := (v.die 0).svcCore, die := 0, space := sp, priv := true }) 1 0 rs [] with
        | .go xs u => (u.takeSlots 0 [] true 3 xs []).isSome
        | _ => false) = true
      ∧ mapOf (leBytes 1 8 ++ leBytes 16 8 ++ leBytes 32 6 ++ leBytes 3 2) = some [⟨16, 32, 3⟩] := by decide +kernel

/-- Signatures of 64 bytes. -/
theorem witness_OwnersCommands_sig : (List.replicate 64 (0 : Byte)).length = 64 := by decide

/-- A directory of zeros names no image. -/
def zeroLines : Tbl Line := (List.range 256).map fun k => (512 + k, held [])
def emptyDir : State := { managed (some 3) none with cores := [], lines := zeroLines }

/-- What reading such a directory leaves as it was. -/
def StillEmpty (s : State) : Prop := s.cores = [] ∧ s.proxies = [] ∧ s.lines = zeroLines ∧ s.modl = emptyDir.modl

theorem zeroLines_get : ∀ k < 256, tblGet Line.absent zeroLines (512 + k) = held [] := by decide +kernel

theorem stillEmpty_share (s : State) (l : Nat) (h : StillEmpty s) : StillEmpty (s.shareAll l .s) := by
  have hd : ∀ (x : State) (d : Nat), StillEmpty x → StillEmpty (x.shareDie d l .s) := fun x d hx => by
    unfold State.shareDie; rw [hx.2.1]; exact hx
  exact hd _ 3 (hd _ 2 (hd _ 1 (hd _ 0 ⟨by simp [h.1, tblMap], h.2.1, h.2.2.1, h.2.2.2⟩)))

theorem stillEmpty_read (s : State) (l : Nat) (h : StillEmpty s) (hl : 512 ≤ l ∧ l < 768) :
    ∃ u, s.cohRead l = .ok (List.replicate 128 0, u) ∧ StillEmpty u := by
  have hg : s.line l = held [] := by
    have := zeroLines_get (l - 512) (by omega)
    rw [show 512 + (l - 512) = l by omega] at this
    unfold State.line; rw [h.2.2.1]; exact this
  have hd : s.dirtyCore l = none := by simp [State.dirtyCore, h.1]
  have hp : s.dirtyProxy l = none := by simp [State.dirtyProxy, State.proxy, h.2.1, tblGet]; decide
  have he : StillEmpty (s.hit (homeSlice l)) := h
  have hf : s.fetchLine l = .ok (s.hit (homeSlice l)) := by unfold State.fetchLine; rw [hg]; rfl
  have hu : (s.hit (homeSlice l)).line l = held [] := hg
  unfold State.cohRead
  simp only [hd, hp, hf, hu]
  rw [if_neg (by decide), if_neg (by decide)]
  exact ⟨_, rfl, stillEmpty_share _ l he⟩

theorem stillEmpty_bytes (fuel : Nat) : ∀ (s : State) (pa n : Nat), StillEmpty s → 65536 ≤ pa → pa + n ≤ 98304 →
    ∃ bs u, s.cohGet pa n fuel = .ok (bs, u) ∧ bs.all (· == 0) = true ∧ StillEmpty u := by
  induction fuel with
  | zero => intro s pa n h _ _; exact ⟨[], s, rfl, rfl, h⟩
  | succ f ih =>
    intro s pa n h h1 h2
    by_cases hn : n = 0
    · exact ⟨[], s, by simp [State.cohGet, hn], rfl, h⟩
    obtain ⟨u, hr, hu⟩ := stillEmpty_read s (pa / 128) h (by omega)
    obtain ⟨bs, v, hb, hz, hv⟩ := ih u (pa + min n (128 - pa % 128)) (n - min n (128 - pa % 128)) hu (by omega) (by omega)
    refine ⟨((List.replicate 128 0).drop (pa % 128)).take (min n (128 - pa % 128)) ++ bs, v, by simp only [State.cohGet, hn, if_false, hr, hb], ?_, hv⟩
    rw [List.all_append, hz, Bool.and_true, List.drop_replicate, List.take_replicate, List.all_replicate]; simp

theorem zeros_num (d : Bytes) (h : d.all (· == 0) = true) (i k : Nat) : imgNum d i k = 0 := by
  have hz : ∀ l : Bytes, (∀ x ∈ l, x = 0) → leNat l = 0 := by
    intro l
    induction l with
    | nil => intro _; rfl
    | cons x r ih => intro hx; simp [leNat, ih fun y hy => hx y (List.mem_cons_of_mem _ hy), hx x (List.mem_cons_self ..)]
  exact hz _ fun x hx => by simpa using List.all_eq_true.mp h x (List.mem_of_mem_drop (List.mem_of_mem_take hx))

theorem zeros_no_images (s : State) (d : Bytes) (h : d.all (· == 0) = true) (l : List Nat) (acc : List (Nat × Bytes)) :
    s.readImages d l acc = .got acc s := by
  induction l with
  | nil => rfl
  | cons b r ih => simp [State.readImages, zeros_num d h, bit, ih]

theorem emptyDir_quiet : emptyDir.quietSpan 0x10000 32768 = true := by decide +kernel

theorem emptyDir_reads (u : State) (bs : Bytes) (h : emptyDir.cohBytes 0x10000 32768 = .ok (bs, u)) : emptyDir.devRead 0x10000 32768 = .got bs u := by
  unfold State.devRead
  rw [h, if_neg (by decide), if_neg (by rw [emptyDir_quiet]; decide)]

theorem emptyDir_still : StillEmpty emptyDir := ⟨rfl, rfl, rfl, rfl⟩

theorem emptyDir_rooms : emptyDir.makeRooms (spanLines 0x10000 32768) = emptyDir := by
  have h : emptyDir.absent (spanLines 0x10000 32768) = [] := by decide +kernel
  unfold State.makeRooms; rw [h]; rfl

theorem emptyDir_coh : ∃ bs u, emptyDir.cohBytes 0x10000 32768 = .ok (bs, u) ∧ bs.all (· == 0) = true ∧ StillEmpty u := by
  unfold State.cohBytes; rw [emptyDir_rooms]
  exact stillEmpty_bytes _ emptyDir 0x10000 32768 emptyDir_still (by omega) (by omega)

theorem graphImages_of (s u : State) (dir : Nat) (d : Bytes) (l : List (Nat × Bytes)) (h : s.devRead dir 32768 = .got d u)
    (hi : ∀ r, u.readImages d r [] = .got l u) : s.readGraphImages dir = .got l u := by
  unfold State.readGraphImages
  rw [h]
  exact hi _

theorem witness_OwnersCommands_graph : ∃ u : State, emptyDir.readGraphImages 0x10000 = .got [] u ∧ u.modl = emptyDir.modl
    ∧ emptyDir.graphs.find? (fun y => y.1 == 65535) = none := by
  obtain ⟨bs, u, h, hz, hu⟩ := emptyDir_coh
  exact ⟨u, graphImages_of emptyDir u 0x10000 bs [] (emptyDir_reads u bs h) fun r => zeros_no_images u bs hz r [], hu.2.2.2, rfl⟩

/-! ### Witnesses: ports, trace and resets -/

theorem witness_PortsAndTrace :
    (st0.portAllowed 31 = true ∧ (st0.port 31).up = false)
    ∧ (let s := { st0 with ports := [(31, { Port.reset with up := true, kls := true, lanes := 0xFF })] };
      (s.port 31).up = true ∧ (s.port 31).lanes.getLsbD 7 = true ∧ (s.port 31).kls = true ∧ (s.port 31).limit < tblGet 0 (s.port 31).window 7 + (⟨2 ^ 48, true⟩ : LaneErrs).n ∧ (s.port 31).retrain = none)
    ∧ (let s := { st0 with ports := [(31, { Port.reset with up := true, kls := true, lanes := 0x7F, retrain := some 7 })] };
      (s.port 31).retrain = some 7)
    ∧ ([Feature.rod, .rma].all supported = true ∧ [Feature.rod, .tagged].all supported = false)
    ∧ (let s := { served0 [] with lines := [(32, held [])] };
      let x : RmaPiece := ⟨.phys 0x1000, 0, false, 0, true, true⟩;
      s.rmaOn 0 x = true ∧ s.rmaOn 0 { x with rod := true } = true ∧ s.rmaTurn 0 x = true ∧ s.rmaTurn 0 { x with rod := true } = true
        ∧ ({ s with rmaNext := [(0, 0, 1)] } : State).rmaMsg 0 0 ≠ x.msg ∧ spanInHbm 0x1000 16 = true ∧ s.quietSpan 0x1000 16 = true ∧ (match s.cohBytes 0x1000 16 with
        | .ok _ => true
        | .error _ => false) = true)
    ∧ tblGet 0 (managed none none).modl.tlmSeq 3 < (managed none none).refTick / 1000000 := by decide +kernel

/-- A piece of a remote device, which core 0 of the target translates by the range in its table. -/
theorem witness_PortsAndTrace_virtual :
    let s := { onMem { core0 with rtab := [⟨some 0, range0 0x1F⟩] } with lines := [(32, held [])] };
    (match s.xPut (s.target 0 0 true) 0x1000 (List.replicate 16 7) 2 with
      | .ok _ => true
      | .error _ => false) = true
    ∧ (match s.xRead (s.target 0 0 true) .engRead 0x1000 16 with
      | .ok _ => true
      | .error _ => false) = true := by decide +kernel

/-- One record in die 0's queue: there is room for it, and where the reader stands right after the write offset there is none. -/
theorem witness_PortsAndTrace_record :
    let r : TraceRec := ⟨0x10, 0, [0]⟩;
    let s := fun (rd : Nat) => { st0 with dies := [(0, { Die.reset with trq := [r], trWr := 0, trRd := rd, trSync := false })], lines := [(0, held [])] };
    ((s 0).die 0).trq = [r] ∧ 8 * (((s 0).die 0).traceWords (s 0).refTick r).length < ((s 0).die 0).trFree
      ∧ (s 0).traceQuiet ((s 0).die 0).trBase ((s 0).die 0).trSize 0 (((s 0).die 0).traceWords (s 0).refTick r).length = true
      ∧ (let t := { s 0 with dies := [(0, { (s 0).die 0 with trWr := 56, trRd := 64 })] };
        (t.die 0).trFree ≤ 8 * ((t.die 0).traceWords t.refTick r).length) := by decide +kernel

/-- Whether a signature verifies is opaque (log 10): every flash has an accepted copy or none. -/
theorem witness_Resets_flash (m : Memory) : bootCopy m = none ∨ ∃ conf fw mc mf, bootCopy m = some (conf, fw, mc, mf) := by
  cases h : bootCopy m with
  | none => exact .inl rfl
  | some x => exact .inr ⟨x.1, x.2.1, x.2.2.1, x.2.2.2, rfl⟩

theorem witness_Resets : (((written 0xFF0000000010 1).sysWrite 0).map fun p => p.2.2) = some .moduleReset
    ∧ (((written 0xFF0000000010 0x20).sysWrite 0).map fun p => p.2.2) = some .dieReset ∧ resetDies 0x20 = [1] ∧ st0.dieQuiet 1 = true
    ∧ (((written 0xF0000F000008 0x805F).sysWrite 0).map fun p => p.2.2) = some (.coreReset 0) ∧ bit 0x805F 15 = true ∧ bits 0x805F 6 0 = 95
    ∧ (st0.core 95).part = none := by
  decide +kernel

/-! ### Witnesses: the machine -/

theorem witness_StepRunsTheDecodedInstruction :
    let s := State.reset.withFetchWord 128 (plainBits 0x001);
    s.agenda = [.site 0 17] ∧ (({ s with agenda := [] } : State).choose 0 17).map (·.1) = some (.mov plain)
      ∧ (({ State.reset with agenda := [] } : State).choose 0 17) = none ∧ State.reset.agenda = [] := by decide +kernel

/-- Two slots of one site are ready, and a site that has fired. -/
theorem witness_OldestContextLowestSlotFires :
    let c : Core := { core0 with sites := [(17, { Site.empty with ctxs := [(0, { siteHeads with words := [(9, .ofNat 128 (plainBits 0x001)), (2, .ofNat 128 (plainBits 0x002))] })] })] };
    (onCore c).cands 0 17 = [⟨0, 9, .mov plain, .fire⟩, ⟨0, 2, .movi plain, .fire⟩] ∧ (((onCore c).pick 0 17 .fire).map (·.slot)) = some 2
      ∧ (((onCore { c with sites := [(17, { Site.empty with fired := some 0 })] }).core 0).site 17).fired = some 0 := by decide +kernel

theorem witness_EveryStepKeepsMemoryCanonical : Memory.wf [(0, 1), (5, 2)] = true ∧ ∃ t, step { State.reset with agenda := [.edge] } = .next t :=
  ⟨by decide +kernel, _, rfl⟩

theorem witness_OnlyHbmEventsChangeMainMemory : (∃ t, exec (.mov w0) st0 = .next t) ∧ reachesHbm (.mov w0) = false := ⟨⟨_, rfl⟩, rfl⟩

/-! ### The manual's worked examples

Each expected value below is the manual's own. -/

/-- Core 0 at site 17 with heads of the payloads given at i0, i1, ... of tag F32; and the payloads and flags that one firing puts on its way. -/
def headsOf4 (vs : List Payload) : State := onCore { core0 with sites := [(17, { Site.empty with ctxs := [(0, { siteHeads with
  entry := (List.range vs.length).map fun n => (n, [⟨{ headTok n with val := mkVal (vs.getD n 0) }, 0, none⟩]) })] })] }
def gives (i : Instr) (vs : List Payload) : List (Payload × BitVec 5) :=
  match exec i (headsOf4 vs) with
  | .next t => (t.hereSite).flight.map fun f => (f.tok.val.bits, f.flags)
  | _ => []
def w3 (mod : BitVec 4) (fmt : Fmt) : SlotWord :=
  { plain with sa := .i 0, sb := .i 1, sc := .i 2, cg0 := .any, cg1 := .any, cg2 := .any, dq := 7, om := 1, mod, fmt }

/-- R78 and R79: 0x0048_91A2_B380. -/
theorem test_hbm_map : hbmMap 0x004891A2B380 = ⟨2, 1, 17, 1, 0, 2, 1, 194, 4, 0⟩ ∧ hbmUnmap (hbmMap 0x004891A2B380) = 0x004891A2B380 := by decide +kernel

/-- R116: 0x0000_0006_3280 is at home on slice 5. -/
theorem test_slice_hash : homeSlice (0x000000063280 / 128) = 5 := by decide +kernel

/-- The example of R93: what its four words are, where a load reads, and RANGE_PARTIAL past RHI. -/
def exampleDesc : Desc := .ofBytes ([0, 0, 0, 0, 0x40, 0, 0, 0] ++ [0x1F, 0, 0, 0x40, 0x40, 0, 0, 0] ++ [0xA7, 0, 0, 0x90, 8, 0, 0, 0] ++ [0, 0, 0x10, 0, 0, 0, 0, 0])
theorem test_descriptor : exampleDesc.phys 0x004001234560 = 0x004891234560
    ∧ exampleDesc.vbase = 0x004000000000 ∧ exampleDesc.limit = 0x004040000000 ∧ exampleDesc.rhi = 0x100000 := by decide +kernel

/-- R220: DOT4's example, and with byte 0 of SA 0xFF. -/
theorem test_dot4 : (gives (.dot4 (w3 4 .raw)) [0x04030201, 0x08070605, 100]).map (fun p => lane p.1 32 0) = [170]
    ∧ (gives (.dot4 (w3 4 .raw)) [0x040302FF, 0x08070605, 100]).map (fun p => lane p.1 32 0) = [160] := by decide +kernel

/-- R222: five bits at position 4 of 0x1F0. -/
theorem test_extr : (gives (.extr { w3 0 .raw with sb := .lit, sc := .zero, imm := 0x0504 }) [0x1F0, 0, 0]).map (fun p => lane p.1 32 0) = [0xFFFFFFFF] := by
  decide +kernel

/-- The 64-bit addition of the integer chapter. -/
theorem test_add_carry : (gives (.add { w3 1 .raw with sc := .zero }) [0x1FFFFFFFF, 0x200000001, 0]).map (·.1) = [0x300000000]
    ∧ (gives (.addc { w3 1 .raw with sc := .zero }) [0x1FFFFFFFF, 0x200000001, 0]).map (fun p => (lane p.1 32 0, lane p.1 32 1)) = [(1, 0)] := by decide +kernel

/-- R239: 500 to E4M3 without and with .sat, and 0.3. NV, DZ, OF, UF and NX are FPFLAG's bits 4 to 0 (R231). -/
theorem test_cvt : (gives (.cvt (w3 0 .e4m3)) [0x43FA0000, 0, 0]).map (fun p => (lane p.1 8 0, p.2)) = [(0x7F, 0b00101)]
    ∧ (gives (.cvt (w3 8 .e4m3)) [0x43FA0000, 0, 0]).map (fun p => lane p.1 8 0) = [0x7E]
    ∧ (gives (.cvt (w3 0 .e4m3)) [0x3E99999A, 0, 0]).map (fun p => (lane p.1 8 0, p.2)) = [(0x2A, 0b00001)] := by decide +kernel

/-- R240: the F32 lanes -2.7, 40,000, NaN and 3.0, toward zero, to .s16. -/
theorem test_ftoi : gives (.ftoi (w3 6 .f32)) [0x404000007FC00000471C4000C02CCCCD, 0, 0] = [(0x000300007FFFFFFE, 0b10001)] := by decide +kernel

/-- The example of SXPK: scl and dat, and NX alone. -/
theorem test_sxpk : gives (.sxpk { w4 with fmt := .sx4, om := 2 })
    [0xBF8000003FC00000, 0x3E4CCCCD3E99999A, 0, 0] = [(0xF87F, 0b00001), (0x0CA0030C, 0)] := by decide +kernel

/-- R217: `plog - , 0x112  p3=lane0`: p1 and not p2. -/
theorem test_plog : plogResult 0x112 0b010 = 1 ∧ plogResult 0x112 0b110 = 0 ∧ plogResult 0x112 0b100 = 0 := by decide +kernel

/-- R299: the sum of 2^24, 1 and 1 over three ranks is 2^24. -/
theorem test_allreduce : (collectResult 0x20 0 2 0 0 4 [leBytes 0x4B800000 4, leBytes 0x3F800000 4, leBytes 0x3F800000 4]).1 = some (leBytes 0x4B800000 4) := by
  decide +kernel
end Sys2Proof.Tests
end

section
/-! SUPPORT. The tile reads, the wide sends and POOL (R188 to R192, R249, R250): what a firing leaves and what it keeps, the checks of a READY
tile, the bytes of a payload, and the statement about them. -/

namespace Sys2Proof.Proofs

open Sys2Proof Sys2Proof.Machine Sys2Proof.Says

/-! ### What a firing leaves, seen from its core -/

@[simp] theorem fireWith_loc (s : State) (w : SlotWord) (lat : Nat) (o : Ops) (f : Fire) : (fireWith s w lat o f).loc = s.loc := by
  rw [fireWith_rest]

@[simp] theorem fireWith_cycle (s : State) (w : SlotWord) (lat : Nat) (o : Ops) (f : Fire) : (fireWith s w lat o f).cycle = s.cycle := by
  rw [fireWith_rest]

/-- Of its core a firing of numbered latency changes its own site alone. -/
theorem coreOf_fireWith (s : State) (w : SlotWord) (lat : Nat) (o : Ops) (f : Fire) :
    coreOf s (fireWith s w lat o f) = s.here.setSite s.loc.site (siteOf s (fireWith s w lat o f)) := by
  simp [siteOf, coreOf, fireWith_core]

/-- The result of a firing on the sources it read (R204). -/
theorem leaves_fireWith (s : State) (w : SlotWord) (lat : Nat) (f : Fire) (he : f.emit = true) :
    Leaves s (fireWith s w lat (src s w) f) w lat (f.kind.getD w.ok) f.tag f.flags f.res := by
  simp only [Leaves, siteOf, fireWith_core, if_true, Core.site_setSite, firedFlight, he]
  rfl

/-- What a firing leaves is a matter of its site alone. -/
theorem leaves_congr {s t u : State} {w : SlotWord} {lat : Nat} {kind : Kind} {tag : Fmt} {flags : BitVec 5} {v : Payload}
    (h : Leaves s t w lat kind tag flags v) (hs : siteOf s u = siteOf s t) : Leaves s u w lat kind tag flags v := by
  rw [Leaves, hs]
  exact h

@[simp] theorem modHere_loc (s : State) (f : Core → Core) : (s.modHere f).loc = s.loc := rfl

/-- A change of the core in which the firing is. -/
theorem coreOf_modHere {s t : State} (f : Core → Core) (h : t.loc = s.loc) : coreOf s (t.modHere f) = f (coreOf s t) := by
  simp [coreOf, State.modHere, h]

/-- A change of that core that keeps its sites keeps the firing's site. -/
theorem siteOf_modHere {s t : State} (f : Core → Core) (h : t.loc = s.loc) (hf : ∀ c : Core, (f c).sites = c.sites) :
    siteOf s (t.modHere f) = siteOf s t := by
  have hc : (coreOf s (t.modHere f)).sites = (coreOf s t).sites := by rw [coreOf_modHere f h, hf]
  exact congrArg (tblGet Site.empty · s.loc.site) hc

@[simp] theorem pinTile_loc (s : State) (h : Nat) : (s.pinTile h).loc = s.loc := rfl

theorem siteOf_pinTile {s t : State} (n : Nat) (h : t.loc = s.loc) : siteOf s (t.pinTile n) = siteOf s t :=
  siteOf_modHere _ h fun _ => rfl

theorem siteOf_endOp {s t : State} (e : EndOp) (h : t.loc = s.loc) : siteOf s (t.endOp e) = siteOf s t :=
  siteOf_modHere _ h fun _ => rfl

/-- A read holds its tile for six cycles (R181). -/
theorem pinTo_pinTile {s t : State} (n : Nat) (h : t.loc = s.loc) :
    t.cycle + 6 ≤ ((coreOf s (t.pinTile n)).tile (handleIdx n)).pinTo := by
  rw [State.pinTile, coreOf_modHere _ h, Core.tile_modTile, if_pos rfl]
  exact Nat.le_max_right _ _

/-- The end of the firing cycle has one thing more to do. -/
theorem ends_endOp_fireWith (s : State) (w : SlotWord) (lat : Nat) (o : Ops) (f : Fire) (e : EndOp) :
    Ends s ((fireWith s w lat o f).endOp e) e := by
  rw [Ends, State.endOp, coreOf_modHere _ (fireWith_loc s w lat o f), coreOf_fireWith]
  rfl

/-! ### Naming a READY tile (R46, R185) -/

@[simp] theorem handleIdx_handle (s : State) (w : SlotWord) : handleIdx (handle s w) = entryNo s w := rfl
@[simp] theorem tile_entryNo (s : State) (w : SlotWord) : s.here.tile (entryNo s w) = tileHere s w := rfl

@[simp] theorem handleOf_src (s : State) (w : SlotWord) : handleOf (src s w) = handle s w := by
  simp [handleOf, handle, bits]

theorem handle_gen (s : State) (w : SlotWord) : handleGen (handle s w) = handle s w / 4096 := by
  have : handle s w < 2 ^ 16 := Nat.mod_lt _ (by decide)
  simp only [handleGen]
  omega

/-- The checks of R46 and R185 pass. -/
theorem tileUse_ready {s : State} {w : SlotWord} {l : Option Nat} (h : NamesTile s w l .ready) :
    tileUse s (handle s w) l false (src s w).tid = .ok := by
  obtain ⟨-, hst, hgen, hspace, hlayout, hmoving, -⟩ := h
  cases l with
  | none => simp [tileUse, hst, hgen, hspace, hmoving, handle_gen]
  | some n => simp [tileUse, hst, hgen, hspace, hmoving, handle_gen, ← hlayout n rfl]

theorem tileHere_ready {s : State} {w : SlotWord} {l : Option Nat} (h : NamesTile s w l .ready) : (tileHere s w).state = .ready := by
  obtain ⟨-, hst, -⟩ := h
  exact hst

/-- A firing on a READY tile that it names does what its instruction does. -/
theorem fireTile_ready {s : State} {w : SlotWord} {l : Option Nat} (h : NamesTile s w l .ready) (f : Ops → Tile → State) :
    fireTile s w l false f = f (src s w) (tileHere s w) := by
  have hok := tileUse_ready h
  obtain ⟨hres, -⟩ := h
  simp only [fireTile, hres, show readOps s w 32 = src s w from rfl, handleOf_src, hok, handleIdx_handle, tile_entryNo]

/-! ### The bytes of a payload -/

/-- A little-endian number is the payload whose lanes are its bytes (R3). -/
theorem ofNat_leNat (bs : Bytes) : BitVec.ofNat 128 (leNat bs) = ofLanes 8 (bs.map BitVec.toNat) := by
  rw [ofLanes]
  congr 1
  induction bs with
  | nil => rfl
  | cons b r ih =>
    rw [leNat, ih, List.map_cons, List.foldr_cons, Nat.mod_eq_of_lt b.isLt]
    rfl

theorem extractLsb'_ofNat_leNat (bs : Bytes) (hl : bs.length = 16) (k : Nat) (hk : k < bs.length) :
    (BitVec.ofNat 128 (leNat bs)).extractLsb' (8 * k) 8 = bs[k] := by
  have hlane : lane (BitVec.ofNat 128 (leNat bs)) 8 k = bs[k].toNat := by
    rw [ofNat_leNat, lane_ofLanes 8 _ k (by simp [hl]) (by simpa using hk), List.getElem_map, Nat.mod_eq_of_lt bs[k].isLt]
  apply BitVec.eq_of_toNat_eq
  rw [← hlane, BitVec.extractLsb'_toNat, Nat.shiftRight_eq_div_pow, lane]

/-- Four lanes of 32 bits. -/
theorem lanes_ofLanes (vs : List Nat) (hl : vs.length = 4) (f : Nat → Nat) (h : ∀ k (hk : k < vs.length), vs[k] = f k) :
    Lanes 32 (ofLanes 32 vs) f := fun k hk => by
  have hk' : k < vs.length := by omega
  rw [lane_ofLanes 32 vs k (by omega) hk', h k hk']

/-! ### Narrow reads: TLD and TPLN (R188, R191) -/

theorem exec_tld (w : SlotWord) (s : State) : exec (.tld w) s = execTld w s := rfl
theorem exec_tpln (w : SlotWord) (s : State) : exec (.tpln w) s = execTpln w s := rfl

theorem tileOff_inside {o : Ops} {t : Tile} {n : Nat} (h : lane o.b 32 0 / n * n + n ≤ 32 * t.size) :
    tileOff o t n = some (lane o.b 32 0 / n * n) := if_neg (Nat.not_lt.2 h)

theorem tileOff_outside {o : Ops} {t : Tile} {n : Nat} (h : 32 * t.size < lane o.b 32 0 / n * n + n) : tileOff o t n = none := if_pos h

/-- What TLD and TPLN give: the sixteen bytes of the named tile from an offset on. -/
def readResult (s : State) (w : SlotWord) (off : Nat) : Payload := .ofNat 128 (leNat (s.here.tileRead (tileHere s w) off 16))

/-- The state after a TLD or TPLN that reads at an offset. -/
def readFired (s : State) (w : SlotWord) (off : Nat) : State :=
  (fireWith s w 6 (src s w) { res := readResult s w off, tag := w.fmt }).pinTile (handle s w)

theorem readResult_holds (s : State) (w : SlotWord) (off : Nat) : HoldsTile (readResult s w off) s.here (tileHere s w) off := by
  intro k hk
  have hl : (s.here.tileRead (tileHere s w) off 16).length = 16 := by simp [Core.tileRead]
  rw [readResult, extractLsb'_ofNat_leNat _ hl k (by omega)]
  simp [Core.tileRead, tileByte]

theorem readFired_leaves (s : State) (w : SlotWord) (off : Nat) : Leaves s (readFired s w off) w 6 w.ok w.fmt 0 (readResult s w off) :=
  leaves_congr (leaves_fireWith s w 6 { res := readResult s w off, tag := w.fmt } rfl) (siteOf_pinTile _ (fireWith_loc ..))

theorem readFired_pins (s : State) (w : SlotWord) (off : Nat) :
    s.cycle + 6 ≤ ((coreOf s (readFired s w off)).tile (entryNo s w)).pinTo := by
  have h := pinTo_pinTile (handle s w) (fireWith_loc s w 6 (src s w) { res := readResult s w off, tag := w.fmt })
  rwa [fireWith_cycle] at h

theorem exec_tld_inside {s : State} {w : SlotWord} (h : NamesTile s w (some (layoutOf w)) .ready)
    (hin : lane (src s w).b 32 0 / 16 * 16 + 16 ≤ 32 * (tileHere s w).size) :
    exec (.tld w) s = .next (readFired s w (lane (src s w).b 32 0 / 16 * 16)) := by
  rw [exec_tld, execTld, fireTile_ready h, tileOff_inside hin, handleOf_src]
  rfl

theorem exec_tld_outside {s : State} {w : SlotWord} (h : NamesTile s w (some (layoutOf w)) .ready)
    (hout : 32 * (tileHere s w).size < lane (src s w).b 32 0 / 16 * 16 + 16) :
    exec (.tld w) s = .next (slotFault s w 0x20 (handle s w)) := by
  rw [exec_tld, execTld, fireTile_ready h, tileOff_outside hout, handleOf_src]

theorem tplnOff_inside {f : Fmt} {t : Tile} {b : Payload} {slab : Nat} (hs : slabOff f (lane b 32 1) = some slab) (hr : lane b 32 2 ≤ 7)
    (hin : lane b 32 0 * subBlock f + slab + 16 * lane b 32 2 + 16 ≤ 32 * t.size) :
    tplnOff f t b = some (lane b 32 0 * subBlock f + slab + 16 * lane b 32 2) := by
  simp [tplnOff, hs, Nat.not_lt.2 hr, Nat.not_lt.2 hin]

theorem exec_tpln_inside {s : State} {w : SlotWord} {slab : Nat} (h : NamesTile s w (some (layoutOf w)) .ready)
    (hs : slabOff w.fmt (lane (src s w).b 32 1) = some slab) (hr : lane (src s w).b 32 2 ≤ 7)
    (hin : lane (src s w).b 32 0 * subBlock w.fmt + slab + 16 * lane (src s w).b 32 2 + 16 ≤ 32 * (tileHere s w).size) :
    exec (.tpln w) s = .next (readFired s w (lane (src s w).b 32 0 * subBlock w.fmt + slab + 16 * lane (src s w).b 32 2)) := by
  rw [exec_tpln, execTpln, fireTile_ready h, tplnOff_inside hs hr hin, handleOf_src]
  rfl

/-! ### TINFO (R190) -/

theorem exec_tinfo (w : SlotWord) (s : State) : exec (.tinfo w) s = execTinfo w s := rfl

theorem exec_tinfo_ready {s : State} {w : SlotWord} (h : NamesTile s w none .ready) :
    exec (.tinfo w) s = .next (fireWith s w 2 (src s w) { res := tinfoResult (handle s w) (tileHere s w) }) := by
  rw [exec_tinfo, execTinfo, fireTile_ready h, handleOf_src]

/-- TINFO's lanes of a READY tile, whose code of state is 2. -/
theorem tinfoResult_lanes (h : Nat) (t : Tile) (ht : t.state = .ready) :
    Lanes 32 (tinfoResult h t) fun k => if k = 0 then h else if k = 1 then t.size else if k = 2 then t.base
      else 2 + t.layout * 2 ^ 4 + t.cons * 2 ^ 8 + t.pool * 2 ^ 16 + t.wout.toNat * 2 ^ 20 := by
  rw [tinfoResult, ht]
  refine lanes_ofLanes _ rfl _ fun k hk => ?_
  have hk4 : k < 4 := hk
  interval_cases k <;> rfl

/-- TINFO is of class N (R190). -/
theorem mod_of_tinfo_wfAt {w : SlotWord} {site : Nat} {prv : Bool} (h : (Instr.tinfo w).wfAt site prv = true) : w.mod = 0 := by
  have hc : w.classN = true := by
    simp only [Instr.wfAt, Bool.and_eq_true] at h
    tauto
  simpa [SlotWord.classN] using hc

/-! ### TLDW (R249, R250) -/

theorem exec_tldw (w : SlotWord) (s : State) : exec (.tldw w) s = execTldw w s := rfl

/-- The beat that a TLDW sends, on its way to its destinations. -/
def beatSent (s : State) (w : SlotWord) (ds : List Nat) (off : Nat) : WideSend :=
  ⟨s.cycle + 6, s.loc.site, ds, ⟨s.here.tileRead (tileHere s w) off 128, s.loc.ctx, (src s w).tid, s.cycle + 7, none⟩⟩

/-- A TLDW's result and hold, before its beat is sent. -/
def wideFired (s : State) (w : SlotWord) : State := (fireWith s w 6 (src s w) { res := 0 }).pinTile (handle s w)

theorem wideFired_loc (s : State) (w : SlotWord) : (wideFired s w).loc = s.loc := fireWith_loc ..

theorem wideFired_leaves (s : State) (w : SlotWord) : Leaves s (wideFired s w) w 6 w.ok .raw 0 0 :=
  leaves_congr (leaves_fireWith s w 6 { res := 0 } rfl) (siteOf_pinTile _ (fireWith_loc ..))

theorem wideFired_wide (s : State) (w : SlotWord) : (coreOf s (wideFired s w)).wide = s.here.wide := by
  rw [wideFired, State.pinTile, coreOf_modHere _ (fireWith_loc ..), coreOf_fireWith]
  rfl

/-- The state after a TLDW whose destinations are bound and have room. -/
def beatFired (s : State) (w : SlotWord) (ds : List Nat) (off : Nat) : State :=
  (wideFired s w).modHere fun c => { c with wide := c.wide ++ [beatSent s w ds off] }

theorem beatFired_leaves (s : State) (w : SlotWord) (ds : List Nat) (off : Nat) : Leaves s (beatFired s w ds off) w 6 w.ok .raw 0 0 :=
  leaves_congr (wideFired_leaves s w) (siteOf_modHere _ (wideFired_loc s w) fun _ => rfl)

theorem beatFired_wide (s : State) (w : SlotWord) (ds : List Nat) (off : Nat) :
    (coreOf s (beatFired s w ds off)).wide = s.here.wide ++ [beatSent s w ds off] := by
  rw [beatFired, coreOf_modHere _ (wideFired_loc s w), ← wideFired_wide s w]

theorem exec_tldw_sends {s : State} {w : SlotWord} {ds : List Nat} (h : NamesTile s w (some (layoutOf w)) .ready)
    (hd : s.here.tldwDests s.cycle s.loc.ctx s.loc.site = some ds) (hin : lane (src s w).b 32 0 / 128 * 128 + 128 ≤ 32 * (tileHere s w).size) :
    exec (.tldw w) s = .next (beatFired s w ds (lane (src s w).b 32 0 / 128 * 128)) := by
  rw [exec_tldw, execTldw, fireTile_ready h, tileOff_inside hin, hd, handleOf_src]
  rfl

/-! ### POOL (R192) -/

theorem exec_pool (w : SlotWord) (s : State) : exec (.pool w) s = execPool w s := rfl

/-- The state after a POOL of pool `k`. -/
def poolFired (s : State) (w : SlotWord) (k : Nat) : State :=
  (fireWith s w 2 (src s w) { res := 0 }).endOp (.pool s.loc.site s.loc.slot k)

theorem poolFired_leaves (s : State) (w : SlotWord) (k : Nat) : Leaves s (poolFired s w k) w 2 w.ok .raw 0 0 :=
  leaves_congr (leaves_fireWith s w 2 { res := 0 } rfl) (siteOf_endOp _ (fireWith_loc ..))

theorem exec_pool_fires {s : State} {w : SlotWord} (h : residueFault s w = none) :
    exec (.pool w) s = .next (poolFired s w (w.imm.extractLsb' 0 4).toNat) := by
  have hk : (w.imm.extractLsb' 0 4).toNat = bits w.imm.toNat 3 0 := by simp [bits]
  rw [exec_pool, execPool, h, hk]
  rfl

/-- A result in flight, given the value that its slot reports. -/
def reported (slot due : Nat) (v : Payload) (f : Flight) : Flight :=
  if f.key == 0 && f.slot == slot && f.due == some due then { f with tok := { f.tok with val := mkVal v } } else f

/-- A POOL's report gives each result that waits for it the values of the pool as it then stands. -/
theorem flight_endReport_pool (s v : State) (k : Nat) :
    (siteOf s (v.endReport s.loc.core (.pool s.loc.site s.loc.slot k))).flight
      = ((v.core s.loc.core).site s.loc.site).flight.map
          (reported s.loc.slot (v.cycle + 2) ((v.core s.loc.core).poolResult (v.cycle + 1) k)) := by
  simp only [siteOf, State.endReport, Core.report, State.core_modCore, Core.site_modSite, if_true]
  rfl

/-- The firing's own result waits for its slot's report. -/
theorem reported_onItsWay (s : State) (w : SlotWord) (due : Nat) (kind : Kind) (tag : Fmt) (flags : BitVec 5) (r v : Payload) :
    reported s.loc.slot due v (onItsWay s w due kind tag flags r) = onItsWay s w due kind tag flags v := by
  simp [reported, onItsWay, mkVal]

/-- The report of a POOL that emits a token or writes a register gives its own result the values, and leaves no other (R192). -/
theorem pool_report {s u v : State} {w : SlotWord} (k : Nat) (hu : Leaves s u w 2 w.ok .raw 0 0) (hc : v.cycle = s.cycle)
    (hs : (v.core s.loc.core).site s.loc.site = siteOf s u) (he : w.om ≠ 0 ∨ w.dr ≠ none) :
    let x := siteOf s (v.endReport s.loc.core (.pool s.loc.site s.loc.slot k))
    onItsWay s w (s.cycle + 2) w.ok .raw 0 ((v.core s.loc.core).poolResult (s.cycle + 1) k) ∈ x.flight
      ∧ x.flight.length = s.hereSite.flight.length + 1 := by
  intro x
  have hflight : (siteOf s u).flight = s.hereSite.flight ++ [onItsWay s w (s.cycle + 2) w.ok .raw 0 0] := by
    rw [hu, if_neg (by tauto)]
  have hreport : x.flight
      = s.hereSite.flight.map (reported s.loc.slot (s.cycle + 2) ((v.core s.loc.core).poolResult (s.cycle + 1) k))
        ++ [onItsWay s w (s.cycle + 2) w.ok .raw 0 ((v.core s.loc.core).poolResult (s.cycle + 1) k)] := by
    rw [flight_endReport_pool, hs, hflight, hc, List.map_append, List.map_singleton, reported_onItsWay]
  exact ⟨by simp [hreport], by simp [hreport]⟩

theorem poolResult_lanes (c : Core) (now k : Nat) :
    Lanes 32 (c.poolResult now k) fun n =>
      if n = 0 then (c.pool k).size else if n = 1 then c.freeCount now k else if n = 2 then longestRun (c.freeMap now k) 0 0
      else (c.waiting.filter fun r => r.pool == k).length := by
  refine lanes_ofLanes _ rfl _ fun n hn => ?_
  have hn4 : n < 4 := hn
  interval_cases n <;> rfl

/-! ### The statement -/

/-- Settles O19: each instruction's firing is one of the named states above, whose results, holds, beats and reports the lemmas give. -/
theorem tileReadsBeatsAndPools : Obligations.TileReadsBeatsAndPools := by
  unfold Obligations.TileReadsBeatsAndPools
  refine ⟨fun w s => ⟨fun h hin => ?tld, fun h hout => exec_tld_outside h hout, fun slab h hs hr hin => ?tpln, fun h => ?tinfo,
    rfl, rfl, fun ⟨_, _, h⟩ => mod_of_tinfo_wfAt h⟩, fun w s ds h hd hin => ?tldw, fun w s h => ?pool, poolResult_lanes⟩
  case tld => exact ⟨_, _, exec_tld_inside h hin, readFired_leaves .., readResult_holds s w _, readFired_pins ..⟩
  case tpln => exact ⟨_, _, exec_tpln_inside h hs hr hin, readFired_leaves .., readResult_holds s w _⟩
  case tinfo => exact ⟨_, _, exec_tinfo_ready h, leaves_fireWith s w 2 _ rfl, tinfoResult_lanes _ _ (tileHere_ready h)⟩
  case tldw => exact ⟨_, _, exec_tldw_sends h hd hin, beatFired_leaves .., beatFired_wide .., rfl, rfl, rfl, rfl, rfl, rfl⟩
  case pool =>
    have hleaves := poolFired_leaves s w (w.imm.extractLsb' 0 4).toNat
    exact ⟨_, exec_pool_fires h, hleaves, ends_endOp_fireWith .., fun v hc hs he => pool_report _ hleaves hc hs he⟩

end Sys2Proof.Proofs
end

section
/-! SUPPORT. Words that are refused (R53 to R56, R206): what the decoder asks of the codes of a word, what a word with PU needs, and the
loader's check of words (R64). -/

namespace Sys2Proof.Proofs

open Sys2Proof Sys2Proof.Machine Sys2Proof.Says

/-! ### Reserved codes -/

theorem toNat_extractLsb' (x : SiteWord) (hi lo : Nat) : (x.extractLsb' lo (hi + 1 - lo)).toNat = field x hi lo := by
  rw [field, BitVec.extractLsb'_toNat, Nat.shiftRight_eq_div_pow]

theorem lt_of_srcOfCode {n : Nat} {x : Src} (h : Src.ofCode n = some x) : n < 24 := by
  by_contra hn
  obtain ⟨m, rfl⟩ : ∃ m, n = m + 24 := ⟨n - 24, by omega⟩
  have hnone : Src.ofCode (m + 24) = none := by rw [Src.ofCode, dif_neg (by omega)]; rfl
  exact nomatch hnone.symm.trans h

theorem lt_of_drOfCode {n : Nat} {d : Option (Fin 8)} (h : drOfCode n = some d) : n < 9 := by
  unfold drOfCode at h
  split at h
  · omega
  · split at h
    · omega
    · exact nomatch h

theorem lt_of_kindOfCode {n : Nat} {k : Kind} (h : Kind.ofCode n = some k) : n < 6 := by
  by_contra hn
  obtain ⟨m, rfl⟩ : ∃ m, n = m + 6 := ⟨n - 6, by omega⟩
  exact nomatch h

/-- No code of a word is reserved (R53, R55, R56). -/
structure NoReserved (x : SiteWord) : Prop where
  bits : x.extractLsb' 32 9 = 0
  sa : (x.extractLsb' 78 6).toNat < 24
  sb : (x.extractLsb' 72 6).toNat < 24
  sc : (x.extractLsb' 66 6).toNat < 24
  dr : (x.extractLsb' 62 4).toNat < 9
  ok : (x.extractLsb' 55 3).toNat < 6

theorem noReserved_of_decodeFields {x : SiteWord} {f : SlotWord} (h : decodeFields x = .ok f) : NoReserved x := by
  unfold decodeFields at h
  split at h
  · exact nomatch h
  next hbits =>
    split at h
    next sa sb sc hsa hsb hsc =>
      split at h
      next dr ok hdr hok =>
        exact
          { bits := BitVec.eq_of_toNat_eq ((toNat_extractLsb' x 40 32).trans (not_not.mp hbits))
            sa := (toNat_extractLsb' x 83 78).trans_lt (lt_of_srcOfCode hsa)
            sb := (toNat_extractLsb' x 77 72).trans_lt (lt_of_srcOfCode hsb)
            sc := (toNat_extractLsb' x 71 66).trans_lt (lt_of_srcOfCode hsc)
            dr := (toNat_extractLsb' x 65 62).trans_lt (lt_of_drOfCode hdr)
            ok := (toNat_extractLsb' x 57 55).trans_lt (lt_of_kindOfCode hok) }
      · exact nomatch h
      · exact nomatch h
    · exact nomatch h

/-- A word that decodes is not zero, has a nonzero opcode, and has no reserved code. -/
theorem decodeWord_ok {x : SiteWord} {i : Instr} (h : decodeWord x = .ok i) : x ≠ 0 ∧ x.extractLsb' 91 9 ≠ 0 ∧ NoReserved x := by
  unfold decodeWord at h
  split at h
  · exact nomatch h
  next hx =>
    split at h
    · exact nomatch h
    next hop =>
      split at h
      · exact nomatch h
      next f hf => exact ⟨hx, fun h => hop ((toNat_extractLsb' x 99 91).symm.trans (congrArg BitVec.toNat h)), noReserved_of_decodeFields hf⟩

/-! ### The loader's check of words (R64) -/

theorem findIdx_of_mem {α : Type} {l : List α} {p : α → Bool} {y : α} (hy : y ∈ l) (hp : p y = true) (n : Nat) :
    findIdx l p n ≠ none := by
  induction l generalizing n with
  | nil => exact absurd hy List.not_mem_nil
  | cons x r ih =>
    unfold findIdx
    split
    · exact Option.some_ne_none _
    next hx =>
      obtain rfl | hr := List.mem_cons.mp hy
      · exact absurd hp hx
      · exact ih hr _

/-- A word that its own instruction's description refuses fails check 6. -/
theorem wordOk_of_not_wfAt (m : Image) (ps : List Placed) (es : List RouteEntry) (site slot : Nat) {x : SiteWord} {i : Instr} {op : Nat}
    {w : SlotWord} (hd : decodeWord x = .ok i) (ho : i.opcode = some (op, w)) (hwf : i.wfAt site m.priv = false) :
    m.wordOk ps es site slot x = false := by
  obtain ⟨hx, -⟩ := decodeWord_ok hd
  simp [Image.wordOk, hd, ho, hwf, show x ≠ 0#128 from hx]

theorem badWord_of_mem {m : Image} {ps : List Placed} {x : Section} {y : SiteWord} (hx : x ∈ m.sections) (hy : y ∈ x.words)
    (hbad : m.wordOk ps m.entries x.site 0 y = false) : m.badWord ps ≠ none := by
  intro hnone
  have hfound := findIdx_of_mem (p := fun w => !(m.wordOk ps m.entries x.site 0 w)) hy (by simp [hbad]) 0
  have hfirst := List.findSome?_eq_none_iff.mp hnone x hx
  split at hfirst
  · exact nomatch hfirst
  next h => exact hfound h

/-- A property that the descriptions of all instructions refuse is refused by the loader with ILLEGAL_WORD. -/
theorem illegalWord_of_not_wfAt {p : Instr → SlotWord → Prop}
    (h : ∀ i op w, i.opcode = some (op, w) → p i w → ∀ site prv, i.wfAt site prv = false) : IllegalWord p := by
  intro b graph block m hheader hblock hgraph hdigest htables hentries ⟨x, hx, y, hy, i, op, w, hd, ho, hp⟩
  have hbad := badWord_of_mem hx hy (wordOk_of_not_wfAt m m.slots m.entries x.site 0 hd ho (h i op w ho hp x.site m.priv))
  obtain ⟨⟨site, slot⟩, hsome⟩ := Option.ne_none_iff_exists'.mp hbad
  refine ⟨site, slot, ?_⟩
  unfold validate
  simp [show readImage b = m from rfl, hheader, hblock, hgraph, hdigest, htables, hentries, hsome]

/-! ### PU needs latency 1 (R206) -/

section
variable {w : SlotWord} (hpu : w.pu ≠ .none)
include hpu

theorem not_common_of_pu (o h : Bool) : w.common false o h = false := by simp [SlotWord.common, hpu]

theorem not_alu_of_pu (s : Bool) (k : Nat) : w.alu s k false = false := by simp [SlotWord.alu, not_common_of_pu hpu]

theorem not_fp_of_pu (f : Bool) (k : Nat) : w.fp f k false = false := by simp [SlotWord.fp, not_common_of_pu hpu]

theorem not_exitForm_of_pu (l : Bool) : w.exitForm l = false := by simp [SlotWord.exitForm, not_common_of_pu hpu]

theorem not_priv_of_pu (k : Nat) : w.priv k = false := by simp [SlotWord.priv, not_common_of_pu hpu]

theorem not_atomicForm_of_pu : Instr.wfAt.atomicForm w = false := by simp [Instr.wfAt.atomicForm, not_common_of_pu hpu]

theorem not_mmaForm_of_pu : Instr.wfAt.mmaForm w = false := by simp [Instr.wfAt.mmaForm, not_common_of_pu hpu]

theorem not_accForm_of_pu : Instr.wfAt.accForm w = false := by simp [Instr.wfAt.accForm, not_common_of_pu hpu]

theorem not_engineForm_of_pu : Instr.wfAt.engineForm w = false := by simp [Instr.wfAt.engineForm, not_common_of_pu hpu]

theorem not_syncForm_of_pu : Instr.wfAt.syncForm w = false := by simp [Instr.wfAt.syncForm, not_common_of_pu hpu]

theorem not_safeForm_of_pu : Instr.wfAt.safeForm w = false := by simp [Instr.wfAt.safeForm, not_common_of_pu hpu]

end

/-- Every form of a word without latency 1 refuses PU. -/
theorem not_wfAt_of_pu {i : Instr} {op : Nat} {w : SlotWord} (ho : i.opcode = some (op, w)) (hpu : w.pu ≠ .none) (hlat : i.latency ≠ .num 1)
    (site : Nat) (prv : Bool) : i.wfAt site prv = false := by
  cases i with
  | mov | movi | sel | selk | emit | plog | pset | ptest | lane | shuf | gets | tagf | add | sub | addc | subb | absd | min | max | abs
  | neg | avg | indx | clamp | and | or | xor | andn | orn | not | shl | shr | sar | rol | clz | popc | brev | extr | insr | bsel | cmpeq
  | cmpne | cmplt | cmple | cmpgt | cmpge | tstz | cnt | cnt2 | step | joink | ordj | fabs | fneg | fclass =>
    exact absurd rfl hlat
  | pack | unpk | mul | mulh | mad | dot4 =>
    cases ho
    simp [Instr.wfAt, not_alu_of_pu hpu]
  | fadd | fsub | fmul | fma | fnma | fms | fmin | fmax | fcmpeq | fcmplt | fcmple | fcmpun | fscale | frnd | frcp | frsq | fsqrt | fdiv
  | fexp2 | flog2 | fsum | fdot | fmaxa =>
    cases ho
    simp [Instr.wfAt, not_fp_of_pu hpu]
  | exit | exit2 | exits | done =>
    cases ho
    simp [Instr.wfAt, not_exitForm_of_pu hpu]
  | sysrd | syswr | rsplit | rmerge | rinv | rdisc | rmove | rprobe | rwin | cfgld | cfginv | freeze | thaw =>
    cases ho
    simp [Instr.wfAt, not_priv_of_pu hpu]
  | aadd | amin | amax | aand | aor | axor | axchg | acas | afadd =>
    cases ho
    simp [Instr.wfAt, not_atomicForm_of_pu hpu]
  | mma | mmaz =>
    cases ho
    simp [Instr.wfAt, not_mmaForm_of_pu hpu]
  | accrd | accrdn | accwr | accz =>
    cases ho
    simp [Instr.wfAt, not_accForm_of_pu hpu]
  | copy | gath | scat | xcol =>
    cases ho
    simp [Instr.wfAt, not_engineForm_of_pu hpu]
  | synca | synci =>
    cases ho
    simp [Instr.wfAt, not_syncForm_of_pu hpu]
  | safe | trap =>
    cases ho
    simp [Instr.wfAt, not_safeForm_of_pu hpu]
  -- an event has no opcode, and the other words have no form of their own but the checks of all
  | _ => cases ho <;> simp [Instr.wfAt, not_common_of_pu hpu]

/-- Settles O3: a word that decodes has no reserved code, and no form of a word without latency 1 takes PU. -/
theorem wordsThatAreRefused : Obligations.WordsThatAreRefused := by
  unfold Obligations.WordsThatAreRefused
  refine ⟨fun x hx => ?reserved, illegalWord_of_not_wfAt fun i op w ho ⟨hpu, hlat, _⟩ => not_wfAt_of_pu ho hpu hlat⟩
  case reserved =>
    cases hd : decodeWord x with
    | error e => exact ⟨e, rfl⟩
    | ok i =>
      obtain ⟨-, hop, hbits, hsa, hsb, hsc, hdr, hok⟩ := decodeWord_ok hd
      simp only [hbits, hop, hsa.not_ge, hsb.not_ge, hsc.not_ge, hdr.not_ge, hok.not_ge, ne_eq, not_true_eq_false, or_self] at hx

end Sys2Proof.Proofs
end

section
/-! SUPPORT. The integer results (R214, R219, R220, R223): the result that a firing on its sources leaves, put(x) lane by lane, and the rows as
functions of the lane number. -/

namespace Sys2Proof.Proofs

open Sys2Proof Sys2Proof.Machine Sys2Proof.Says

/-! ### The result of a firing on its sources -/

/-- A firing whose sources agree with their residues leaves its result (R204, R211). -/
theorem leaves_fireOp {s : State} {w : SlotWord} (h : residueFault s w = none) (lat width : Nat) (f : Ops → Fire)
    (he : (f (readOps s w width)).emit = true) :
    let x := f (readOps s w width)
    Leaves s (fireOp s w lat width f) w lat (x.kind.getD w.ok) x.tag x.flags x.res := by
  intro x
  rw [fireOp_fires h]
  simp only [Leaves, siteOf, fireWith_core, if_true, Core.site_setSite, firedFlight, he]
  rfl

/-- An integer instruction completes with its result (R214). -/
theorem fireInt_leaves {s : State} {w : SlotWord} (h : residueFault s w = none) (lat : Nat) (f : Payload → Payload → Payload → Payload) :
    let o := readOps s w (lwidth w)
    ∃ t, fireInt s w lat f = .next t ∧ Leaves s t w lat w.ok .raw 0 (f o.a o.b o.c) :=
  ⟨_, rfl, leaves_fireOp h lat _ _ rfl⟩

/-! ### put(x) of R214 -/

/-- sext(x, w) of R7 at a positive width. -/
theorem sext_of_lt {x v : Nat} (hx : x < 2 ^ (v + 1)) : sext x (v + 1) = if x < 2 ^ v then (x : Int) else x - 2 ^ (v + 1) := by
  have hmod : x % 2 ^ (v + 1) = x := Nat.mod_eq_of_lt hx
  by_cases h : x < 2 ^ v
  · simp [sext, bit, hmod, h, Nat.div_eq_of_lt h]
  · have hdiv : x / 2 ^ v = 1 := Nat.div_eq_of_lt_le (by omega) (by omega)
    simp [sext, bit, hmod, h, hdiv]

theorem wrap_of_range {x : Int} {w : Nat} (h0 : 0 ≤ x) (h1 : x < 2 ^ w) : ((wrap x w : Nat) : Int) = x := by
  rw [wrap_cast, Int.emod_eq_of_lt h0 (by exact_mod_cast h1)]

/-- A number of the signed range is the number of its own bits. -/
theorem sext_wrap {x : Int} {w : Nat} (hw : 0 < w) (h0 : -2 ^ (w - 1) ≤ x) (h1 : x < 2 ^ (w - 1)) : sext (wrap x w) w = x := by
  obtain ⟨v, rfl⟩ : ∃ v, w = v + 1 := ⟨w - 1, by omega⟩
  rw [Nat.add_sub_cancel] at h0 h1
  rw [sext_of_lt (wrap_lt ..)]
  have hpow : (2 : Int) ^ (v + 1) = 2 * 2 ^ v := by ring
  by_cases hx : 0 ≤ x
  · have hval := wrap_of_range hx (w := v + 1) (by omega)
    have hlt : wrap x (v + 1) < 2 ^ v := by exact_mod_cast hval.trans_lt h1
    rw [if_pos hlt, hval]
  · have hval : ((wrap x (v + 1) : Nat) : Int) = x + 2 ^ (v + 1) := by
      rw [wrap_cast, Nat.cast_pow, Nat.cast_two, ← Int.add_emod_right, Int.emod_eq_of_lt (by omega) (by omega)]
    have hge : ¬ wrap x (v + 1) < 2 ^ v := by
      intro hlt
      have : ((wrap x (v + 1) : Nat) : Int) < 2 ^ v := by exact_mod_cast hlt
      omega
    rw [if_neg hge, hval]
    ring

theorem sext_sats (x : Int) {w : Nat} (hw : 0 < w) : sext (sats x w) w = max (-2 ^ (w - 1)) (min (2 ^ (w - 1) - 1) x) := by
  have hpow : (0 : Int) < 2 ^ (w - 1) := by positivity
  rw [sats, sext_wrap hw] <;> push_cast <;> omega

theorem satn_cast (x : Int) (w : Nat) : ((satn x w : Nat) : Int) = max 0 (min (2 ^ w - 1) x) := by
  have hpow : (0 : Int) < 2 ^ w := by positivity
  rw [satn, wrap_of_range] <;> push_cast <;> omega

/-- A lane holds put of a number: the nearest of the type with .sat, and otherwise one that agrees with it modulo the lane width. -/
theorem put_of_lanePut {t : Nat} {sat : Bool} {x : Int} {r : Payload} {k : Nat} (h : lane r (laneWidth t) k = lanePut t sat x) :
    Put t sat x r k := by
  have hw : 0 < laneWidth t := by rcases laneWidth_cases t with h | h | h <;> omega
  unfold Put
  rw [laneNum, h]
  cases sat with
  | false => simpa [lanePut] using wrap_dvd x (laneWidth t)
  | true => cases hs : laneSigned t <;> simp [lanePut, least, greatest, hs, sext_sats x hw, satn_cast]

/-- A result whose every lane is put to a number. -/
theorem put_mapLanes (t : Nat) (sat : Bool) (f : Nat → Int) {k : Nat} (hk : k < 128 / laneWidth t) :
    Put t sat (f k) (mapLanes (laneWidth t) fun k => lanePut t sat (f k)) k :=
  put_of_lanePut (by rw [lane_mapLanes _ _ _ hk, Nat.mod_eq_of_lt (lanePut_lt ..)])

/-! ### The arithmetic rows (R219) -/

/-- A carry is put as it is. -/
theorem addcLane_eq_lanePut (t a b c : Nat) :
    addcLane (laneWidth t) a b c % 2 ^ laneWidth t = lanePut t false (if 2 ^ laneWidth t ≤ a + b + c % 2 then 1 else 0) := by
  simp only [addcLane, lanePut, wrap, Bool.false_eq_true, if_false]
  split <;> rfl

/-- A borrow is put as it is. -/
theorem subbLane_eq_lanePut (t a b c : Nat) :
    subbLane a b c % 2 ^ laneWidth t = lanePut t false (if (a : Int) - b - (c % 2 : Nat) < 0 then 1 else 0) := by
  have hborrow : (a : Int) - b - (c % 2 : Nat) < 0 ↔ a < b + c % 2 := by omega
  simp only [subbLane, lanePut, wrap, Bool.false_eq_true, if_false, hborrow]
  split <;> rfl

/-- An arithmetic instruction puts the number of its row into every lane. -/
theorem exec_arithmetic {i : Instr} {w : SlotWord} {lat : Nat} {sat : Bool} {f : Nat → Payload → Payload → Payload → Nat → Int}
    (h : arithmetic i = some (w, lat, sat, f)) (s : State) :
    exec i s = fireInt s w lat fun a b c => mapLanes (lwidth w) fun k => lanePut (ltype w) sat (f (ltype w) a b c k) := by
  cases i with
  | add | sub | mul | mad | min | max | neg | avg | indx | clamp => cases h; rfl
  | addc =>
    cases h
    simp only [← addcLane_eq_lanePut]
    rfl
  | subb =>
    cases h
    simp only [← subbLane_eq_lanePut]
    rfl
  | mulh w =>
    cases h
    have hpow : (2 : Int) ^ laneWidth (ltype w) = ((2 ^ lwidth w : Nat) : Int) := by push_cast; rfl
    simp only [hpow]
    rfl
  | absd | abs =>
    cases h
    simp only [← Int.natCast_natAbs]
    rfl
  | _ => exact nomatch h

/-- A compare instruction fills the lanes in which its relation holds. -/
theorem exec_compare {i : Instr} {w : SlotWord} {rel : Int → Int → Bool} (h : Says.compare i = some (w, rel)) (s : State) :
    exec i s = fireInt s w 1 fun a b _ => cmpResult (ltype w) rel a b := by
  cases i with
  | cmpeq | cmplt | cmple | cmpgt | cmpge | tstz => cases h; rfl
  | cmpne =>
    cases h
    simp only [ne_eq, decide_not]
    rfl
  | _ => exact nomatch h

theorem lane_cmpResult (t : Nat) (rel : Int → Int → Bool) (a b : Payload) {k : Nat} (hk : k < 128 / laneWidth t) :
    lane (cmpResult t rel a b) (laneWidth t) k = if rel (laneNum t a k) (laneNum t b k) then 2 ^ laneWidth t - 1 else 0 := by
  have hpow : 0 < 2 ^ laneWidth t := Nat.two_pow_pos _
  rw [cmpResult, lane_mapLanes _ _ _ hk]
  split
  · exact Nat.mod_eq_of_lt (by omega)
  · exact Nat.zero_mod _

/-! ### DOT4 (R220) -/

/-- The sum of a lane of DOT4: the lane of the third source and four products. -/
def dot4Num (t : Nat) (a b c : Payload) (k : Nat) : Int :=
  laneNum (t - 4) c k + laneNum t a (4 * k) * laneNum t b (4 * k) + laneNum t a (4 * k + 1) * laneNum t b (4 * k + 1)
    + laneNum t a (4 * k + 2) * laneNum t b (4 * k + 2) + laneNum t a (4 * k + 3) * laneNum t b (4 * k + 3)

/-- The 32-bit lane type that DOT4 adds in has the sign of its 8-bit one. -/
theorem dot4Result_eq {t : Nat} (ht : t = 4 ∨ t = 5) (sat : Bool) (a b c : Payload) :
    dot4Result t sat a b c = mapLanes (laneWidth (t - 4)) fun k => lanePut (t - 4) sat (dot4Num t a b c k) := by
  rcases ht with rfl | rfl <;> rfl

/-- DOT4 takes the types .s8 and .n8 only (R220). -/
theorem ltype_of_wfAt_dot4 {w : SlotWord} {site : Nat} {prv : Bool} (h : (Instr.dot4 w).wfAt site prv = true) : ltype w = 4 ∨ ltype w = 5 := by
  have hcode : w.laneCode = ltype w := by
    rw [SlotWord.laneCode, BitVec.extractLsb'_toNat, Nat.shiftRight_zero]; rfl
  have hlane : w.laneCode < 6 ∧ 4 ≤ w.laneCode := by
    simp only [Instr.wfAt, SlotWord.alu, SlotWord.classL, SlotWord.laneOk, Bool.and_eq_true, decide_eq_true_eq] at h
    obtain ⟨⟨-, ⟨-, h6, -⟩, -⟩, h4⟩ := h
    exact ⟨h6, h4⟩
  omega

/-- Settles O6: each row's result is put lane by lane. -/
theorem arithmeticAndCompareResults : Obligations.ArithmeticAndCompareResults := by
  unfold Obligations.ArithmeticAndCompareResults
  refine ⟨⟨fun i w lat sat f s hi hr => ?rows, fun w s hr ht => ?dot4, ?types⟩, fun i w rel s hi hr => ?compares⟩
  case rows =>
    obtain ⟨t, ht, hleaves⟩ := fireInt_leaves hr lat fun a b c => mapLanes (lwidth w) fun k => lanePut (ltype w) sat (f (ltype w) a b c k)
    exact ⟨t, _, (exec_arithmetic hi s).trans ht, hleaves, fun k hk => put_mapLanes _ _ _ hk⟩
  case dot4 =>
    refine ⟨_, _, rfl, leaves_fireOp hr 3 (lwidth w) _ rfl, fun k hk => ?_⟩
    rw [dot4Result_eq ht]
    refine put_mapLanes _ _ (dot4Num _ _ _ _) ?_
    obtain h | h := ht <;> rw [h] <;> exact hk
  case types =>
    refine illegalWord_of_not_wfAt fun i op w ho ⟨v, hi, h4, h5⟩ site prv => ?_
    subst hi
    exact Bool.eq_false_iff.mpr fun hwf => (ltype_of_wfAt_dot4 hwf).elim h4 h5
  case compares =>
    obtain ⟨t, ht, hleaves⟩ := fireInt_leaves hr 1 fun a b _ => cmpResult (ltype w) rel a b
    exact ⟨t, _, (exec_compare hi s).trans ht, hleaves, fun k hk => lane_cmpResult _ _ _ _ hk⟩

end Sys2Proof.Proofs
end

section
/-! SUPPORT. The choice of a slot at a site (R203): a site that has fired has no candidate, and the pick is a candidate of the least key. -/

namespace Sys2Proof.Proofs

open Sys2Proof Sys2Proof.Machine

theorem foldl_argAux_some {α : Type} (f : α → Nat) (l : List α) (x : α) :
    l.foldl (List.argAux fun b c => f b < f c) (some x) = some (l.foldl (fun b y => if f y < f b then y else b) x) := by
  induction l generalizing x with
  | nil => rfl
  | cons y r ih => rw [List.foldl_cons, List.foldl_cons, ← ih, List.argAux, apply_ite some]

/-- The model's least element is the library's. -/
theorem leastBy_eq_argmin {α : Type} (f : α → Nat) (l : List α) : leastBy f l = l.argmin f := by
  cases l with
  | nil => rfl
  | cons x r => exact (foldl_argAux_some f r x).symm

/-- Condition 3 of R202 fails at a site that has fired in the cycle. -/
theorem eligible_of_fired {c : Core} {now k : Nat} (h : (c.site k).fired = some now) (x : Nat) (w : SlotWord) (i : Instr) :
    eligible c now k x w i = false := by
  simp [eligible, h]

theorem cand_of_fired {s : State} {core site : Nat} (h : ((s.core core).site site).fired = some s.cycle) (ctx slot : Nat) (x : SiteWord) :
    s.cand core site ctx slot x = none := by
  unfold State.cand
  split
  · rfl
  · split
    · rfl
    · rw [eligible_of_fired h, if_neg Bool.false_ne_true]

theorem cands_of_fired {s : State} {core site : Nat} (h : ((s.core core).site site).fired = some s.cycle) : s.cands core site = [] := by
  simp [State.cands, cand_of_fired h]

/-- The order of R203: contexts by load stamp, then slots by number. -/
def candAge (s : State) (core : Nat) (k : Cand) : Nat := ((s.core core).ctx k.ctx).stamp * 16 + k.slot

theorem pick_eq_argmin (s : State) (core site : Nat) (want : Readiness) :
    s.pick core site want = ((s.cands core site).filter fun k => k.ready == want).argmin (candAge s core) :=
  leastBy_eq_argmin ..

theorem pick_mem {s : State} {core site : Nat} {want : Readiness} {k : Cand} (h : s.pick core site want = some k) :
    k ∈ s.cands core site ∧ k.ready = want := by
  rw [pick_eq_argmin] at h
  simpa using List.argmin_mem h

theorem pick_least {s : State} {core site : Nat} {want : Readiness} {k j : Cand} (h : s.pick core site want = some k)
    (hj : j ∈ s.cands core site) (hw : j.ready = want) : candAge s core k ≤ candAge s core j := by
  rw [pick_eq_argmin] at h
  exact List.le_of_mem_argmin (by simp [hj, hw]) h

theorem pick_isSome {s : State} {core site : Nat} {want : Readiness} {j : Cand} (hj : j ∈ s.cands core site) (hw : j.ready = want) :
    (s.pick core site want).isSome = true := by
  rw [pick_eq_argmin, Option.isSome_iff_ne_none, ne_eq, List.argmin_eq_none]
  exact List.ne_nil_of_mem (a := j) (by simp [hj, hw])

/-- With slots below 16 the key orders by stamp first, then by slot. -/
theorem candAge_le {s : State} {core : Nat} {k j : Cand} (hk : k.slot < 16) (hj : j.slot < 16) (h : candAge s core k ≤ candAge s core j) :
    ((s.core core).ctx k.ctx).stamp < ((s.core core).ctx j.ctx).stamp
      ∨ (((s.core core).ctx k.ctx).stamp = ((s.core core).ctx j.ctx).stamp ∧ k.slot ≤ j.slot) := by
  unfold candAge at h
  omega

/-- Settles O56: the site's candidates are none once it has fired, and the pick has the least key among the ready ones. -/
theorem oldestContextLowestSlotFires : Obligations.OldestContextLowestSlotFires := by
  unfold Obligations.OldestContextLowestSlotFires
  refine ⟨fun s core site hfired want => ?fired, fun s core site hslot => ⟨fun k hk => ?oldest, ?some⟩⟩
  case fired => rw [pick_eq_argmin, cands_of_fired hfired]; rfl
  case some =>
    rintro ⟨j, hj, hready⟩
    exact pick_isSome hj hready
  case oldest =>
    obtain ⟨hmem, hready⟩ := pick_mem hk
    exact ⟨hmem, hready, fun j hj hjready => candAge_le (hslot k hmem) (hslot j hj) (pick_least hk hj hjready)⟩

end Sys2Proof.Proofs
end
